-- ==== Sys2Proof/Word.lean ====
section
/-! DEFINITION. The machine words of the UN5480: stored cells, datums, virtual and physical addresses (R36, R58, R360). -/

namespace Sys2Proof

/-- A stored cell: CHECK [63:56], COLOUR [55:54], TYPE [53:48], DATUM [47:0] (R36). -/
abbrev Cell := BitVec 64

/-- The 48-bit datum of a cell, and the value of a control register (R82). -/
abbrev Datum := BitVec 48

/-- A virtual cell address: segment [47:40] and offset [39:0] (R58). -/
abbrev VAddr := BitVec 48

/-- A physical cell address (R360). -/
abbrev PAddr := BitVec 40

/-- A context number (R20). -/
abbrev CtxId := BitVec 16

/-- A global spindle number: skein [8:4], logical spindle [3:0] (R16, R86). -/
abbrev SpId := BitVec 9

/-- A skein number (R16). -/
abbrev SkId := BitVec 5

end Sys2Proof
end

