-- ==== Sys2Proof/Config.lean ====
section
/-! DEFINITION. What one implementation fixes and the spec leaves open: the free values. -/

namespace Sys2Proof.Config

/-- A value the spec leaves open, fresh for each argument (the argument is the state's counter `fresh`). It has no body:
no statement can rest on a value of it. -/
opaque freeNat : Nat → Nat

/-- The directory set of a line (R408 gives the sets and ways, not the index function). -/
opaque dirSet : Nat → Nat

/-- The fused serial number (R680). -/
opaque serial : BitVec 32

/-- The fused ordering code: true for UN5480-X (R1, R680). -/
opaque orderX : Bool

/-- The fused key hashes VKH and VDKH (R680). -/
opaque vkh : BitVec 256
opaque vdkh : BitVec 256

/-- SHA-256 of a byte string (R261, R692, R696). The spec cites the standard. -/
opaque sha256 : List (BitVec 8) → BitVec 256

/-- Verification of an SLH-DSA-SHA2-192s signature: public key, message, signature (R261, R696). -/
opaque slhVerify : List (BitVec 8) → List (BitVec 8) → List (BitVec 8) → Bool

/-- AES-256-GCM decryption of a patch body under the key of R688: the header that is authenticated, the body, the tag. None when the
tag fails. -/
opaque gcmOpen : List (BitVec 8) → List (BitVec 8) → List (BitVec 8) → Option (List (BitVec 8))

/-- The identity public key of a lifecycle state (R691). -/
opaque idpk : Nat → BitVec 256

/-- The signature of an attestation report in a lifecycle state (R691, R692): 17,088 bytes by index. -/
opaque attSign : Nat → List (BitVec 8) → Nat → BitVec 8

/-- SHA-256 of a parameter bank's content as MRAM holds it (R692): the bank by its sequence number and values. -/
opaque pardig : Nat → List (Nat × BitVec 64) → BitVec 256

/-- A micro-ROM word (R237). The spec does not give the contents. -/
opaque rom : Nat → BitVec 144

/-- The level that something outside the device gives a ball, fresh for each scan: CAN_RXD and the SPD lines (R600). -/
opaque outerLevel : Nat → Nat → Bool

/-- The voltage at which a self-timed domain runs at 1,600 M hs/s, in 5 mV steps above 600 mV, before the whorl has measured it (R629). -/
opaque volt1600 : Nat → Nat

/-- The LVAL of an unused landing record, or of one whose value has not arrived, in a saved context image (R270, R273): the context,
its generation, the slots it had issued, and the index of the LVAL. -/
opaque spareLval : Nat → Nat → Nat → Nat → BitVec 64

end Sys2Proof.Config
end

