-- ==== Sys2Proof/Syntax.lean ====
section
/-! DEFINITION. The commands of the block: one constructor of `Instr` per row of the opcode table, with its operands.
A row of the instruction set carries the context that issues it, its guard (R106) and its fields by format (R123).
A row of the event set carries what the sender of the event fixes. -/

namespace Sys2Proof

/-- The issuing context and the guard of an instruction (R106, R122). -/
structure Hd where
  ctx : CtxId
  ginv : Bool := false
  gpred : BitVec 3 := 0
deriving DecidableEq, Repr

/-- Format A (R123). -/
structure FA where
  dst : BitVec 5 := 0
  sa : BitVec 5 := 0
  sb : BitVec 5 := 0
  s : Bool := false
deriving DecidableEq, Repr

/-- Format I (R123). -/
structure FI where
  dst : BitVec 5
  sa : BitVec 5
  s : Bool := false
  imm : BitVec 21
deriving DecidableEq, Repr

/-- Format W (R123). -/
structure FW where
  dst : BitVec 5
  ty : BitVec 5
  imm : BitVec 25
deriving DecidableEq, Repr

/-- Format P (R123). -/
structure FP where
  pd : BitVec 3
  sa : BitVec 5
  sb : BitVec 5 := 0
  tcode : BitVec 6 := 0
deriving DecidableEq, Repr

/-- Format PI (R123). -/
structure FPI where
  pd : BitVec 3
  sa : BitVec 5
  imm : BitVec 24
deriving DecidableEq, Repr

/-- Format PL (R123). -/
structure FPL where
  pd : BitVec 3
  pa : BitVec 3 := 0
  pb : BitVec 3 := 0
  flag : BitVec 3 := 0
deriving DecidableEq, Repr

/-- Format BT (R123): `bitx` is the major, BIT1 (tier 1) or BITX (tiers 2 and 3). -/
structure FBT where
  bitx : Bool
  pd : BitVec 3 := 0
  sa : BitVec 5 := 0
  ib : Bool := false
  bitno : BitVec 8 := 0
deriving DecidableEq, Repr

/-- Format M (R123). -/
structure FM where
  data : BitVec 5 := 0
  adr : BitVec 5
  disp : BitVec 24
deriving DecidableEq, Repr

/-- Format MA (R123). -/
structure FMA where
  data : BitVec 5
  adr : BitVec 5
  pd : BitVec 3 := 0
  disp : BitVec 21
deriving DecidableEq, Repr

/-- Format B (R123). -/
structure FB where
  disp : BitVec 36
deriving DecidableEq, Repr

/-- Format L (R123). -/
structure FL where
  cnt : BitVec 5
  len : BitVec 12
  icnt : BitVec 12
deriving DecidableEq, Repr

/-- Format C (R123). -/
structure FC where
  dst : BitVec 5 := 0
  sa : BitVec 5 := 0
  crn : BitVec 12
deriving DecidableEq, Repr

/-- Format X (R123). -/
structure FX where
  dst : BitVec 5 := 0
  sa : BitVec 5 := 0
  sb : BitVec 5 := 0
  func : BitVec 21 := 0
deriving DecidableEq, Repr

/-- Who sends a context command: a context by CTXCMD (R313), the host by HCTXCMD (R318), or a hank by a CTXCMD entry (R564). -/
inductive Src where
  | ctx (c : CtxId)
  | host
  | hank (h : BitVec 6)
deriving DecidableEq, Repr

/-- The fields of a context command (R313). `up`: the number of a cell of the target's image that the scheduler finds upset, and the stored
bits that changed (R706). -/
structure CtxCmd where
  src : Src
  prio : BitVec 3 := 0
  pin : BitVec 2 := 0
  lvl : Bool := false
  any : Bool := false
  tskein : BitVec 5 := 0
  tlspin : BitVec 4 := 0
  ctx : CtxId
  up : Option (BitVec 6 × Cell) := none
deriving DecidableEq, Repr

/-- The fields of a collector command (R517). -/
structure ColCmd where
  src : Src
  setmk : Bool := false
  mark : Bool := false
  rset : BitVec 4 := 0
  rclr : BitVec 4 := 0
  tag : BitVec 12
deriving DecidableEq, Repr

/-- How a HOST request ends (R476, R477). -/
inductive HostEnd where
  | success (v : Cell)
  | poisoned
  | refused
deriving DecidableEq, Repr

/-- Which port writes a register (R7): a host BAR0 or BAR2 offset, a control register of a context, the DEVICE region, or the fields of
configuration space that the device acts on: the completion timeout (R582), the MSI-X control, the power state (R576); or a word of configuration space
by its byte offset. -/
inductive RegPath where
  | bar0 (off : BitVec 22)
  | bar2 (off : BitVec 16)
  | cr (c : CtxId) (n : BitVec 12)
  | device (c : CtxId) (a : PAddr)
  | cfgTimeout
  | cfgMsix
  | cfgPower
  | cfg (off : BitVec 12)
deriving DecidableEq, Repr

/-- The paths to the object dictionary (R672, R675). -/
inductive DPath where
  | can | mailbox | debug
deriving DecidableEq, Repr

/-- A unit that fails the self-test of start-up step 5 (R725). -/
inductive UnitFail where
  | spindle (p : SpId)
  | spare (k : SkId)
  | twist (k : SkId) (u : BitVec 2)
  | way (k : SkId) (w : BitVec 4)
  | line (k : SkId) (set : BitVec 12) (w : BitVec 4)
  | l1Line (p : SpId) (ln : BitVec 6)
deriving DecidableEq, Repr

/-- A DIMM as its SPD describes it (R594): capacity in GiB, ranks, device width in bits. -/
structure Dimm where
  gib : Nat := 0
  ranks : Nat := 1
  width : Nat := 4
deriving DecidableEq, Repr

/-- How the running start-up step ends (R721 to R727): completed, with what training or the self-test found, or failed. -/
inductive StepOut where
  | done
  | dram (pop : List (List Dimm)) (rate : Nat)
  | units (l : List UnitFail)
  | fail (reason unit : BitVec 8)
deriving DecidableEq, Repr

/-- What the whorl measures of a domain (R631): temperature in 0.125 °C, rate in M hs/s, regulator current in mA, demand in percent, and
the lowest voltages in mV that achieve the rate target and that keep the timing margin at 8 %. -/
structure DomMeas where
  dom : Nat
  temp : Int
  rate : Nat := 0
  cur : Nat := 0
  demand : Nat := 0
  low : Nat := 0
  marg : Nat := 0
deriving DecidableEq, Repr

/-- The fault confinement state of the CAN controller (R597). -/
inductive CanErr where
  | active | passive | busOff
deriving DecidableEq, Repr

/-- What the CAN controller meets on the bus (R597): an error while it transmits or receives, the severe receive error, a frame sent or
received well, and the frames that it ignores: one with a 29-bit identifier and a remote frame. -/
inductive CanBus where
  | txErr | rxErr | rxErr8 | txOk | rxOk | ext29 | remote
deriving DecidableEq, Repr

/-- An edge of a capture input (R623); a lone edge is the only one recorded of a phase shorter than 4 ns. -/
inductive CapEdge where
  | rise | fall | loneRise | loneFall
deriving DecidableEq, Repr

/-- What the TAP loads and shifts for the boundary register (R599, R600): EXTEST with the value it drives, and, as no command of their own,
SAMPLE/PRELOAD with the value it preloads and any other code, which selects BYPASS unless R599 lists it. -/
inductive TapLoad where
  | extest (v : BitVec 76)
  | preload (v : BitVec 76)
  | code (c : BitVec 8)
deriving DecidableEq, Repr

/-- A USDO request of a session (R672): a read, a write with the length it announces, or the next segment of either. `n`: bytes that the
segment carries. -/
inductive UsdoReq where
  | read (idx : BitVec 16) (sub : BitVec 8)
  | write (idx : BitVec 16) (sub : BitVec 8) (len : Nat) (data : List (BitVec 8))
  | segRead (n : Nat)
  | segWrite (data : List (BitVec 8)) (last : Bool)
deriving DecidableEq, Repr

/-- The commands: one constructor per row of spec/opcode_table.json. -/
inductive Instr where
  /-- MOV (R172): Copies any cell unchanged into DST at distance 1. -/
  | mov (h : Hd) (f : FA)
  /-- AND (R172): Bitwise AND of FIX or RAW operands. -/
  | and (h : Hd) (f : FA)
  /-- OR (R172): Bitwise OR of FIX or RAW operands. -/
  | or (h : Hd) (f : FA)
  /-- XOR (R172): Bitwise XOR of FIX or RAW operands. -/
  | xor (h : Hd) (f : FA)
  /-- ANDN (R172): Bitwise AND-NOT of FIX or RAW operands. -/
  | andn (h : Hd) (f : FA)
  /-- NOT (R172): Bitwise complement of a FIX or RAW operand. -/
  | not (h : Hd) (f : FA)
  /-- SHL (R173): Shifts SA left by the count in SB. -/
  | shl (h : Hd) (f : FA)
  /-- SHR (R173): Logical right shift of SA by the count in SB. -/
  | shr (h : Hd) (f : FA)
  /-- SAR (R173): Arithmetic right shift of SA by the count in SB. -/
  | sar (h : Hd) (f : FA)
  /-- ANDI (R172): Bitwise AND with IMM21. -/
  | andi (h : Hd) (f : FI)
  /-- ORI (R172): Bitwise OR with IMM21. -/
  | ori (h : Hd) (f : FI)
  /-- XORI (R172): Bitwise XOR with IMM21. -/
  | xori (h : Hd) (f : FI)
  /-- SHLI (R173): Left shift by an immediate count. -/
  | shli (h : Hd) (f : FI)
  /-- SHRI (R173): Logical right shift by an immediate count. -/
  | shri (h : Hd) (f : FI)
  /-- SARI (R173): Arithmetic right shift by an immediate count. -/
  | sari (h : Hd) (f : FI)
  /-- TYPEOF (R174): Yields FIX of a cell's type code without trapping. -/
  | typeof (h : Hd) (f : FA)
  /-- COLOUROF (R174): Yields FIX of a cell's colour bits. -/
  | colourof (h : Hd) (f : FA)
  /-- DATUMOF (R174): Yields a RAW cell holding SA's datum. -/
  | datumof (h : Hd) (f : FA)
  /-- SETTYPE (R175): Retypes a cell to the code in SB with the colour rules given. -/
  | settype (h : Hd) (f : FA)
  /-- LDI (R129): Writes a cell of the given type with an extended 25-bit immediate datum. -/
  | ldi (h : Hd) (f : FW)
  /-- LDIH (R129): Replaces datum bits [47:24] of DST with an immediate. -/
  | ldih (h : Hd) (f : FW)
  /-- ADD (R157): Generic addition choosing its action from the operand types. -/
  | add (h : Hd) (f : FA)
  /-- SUB (R157): Generic subtraction choosing its action from the operand types. -/
  | sub (h : Hd) (f : FA)
  /-- NEG (R157): Generic negation of a numeric operand. -/
  | neg (h : Hd) (f : FA)
  /-- ADDI (R159): Generic addition of IMM21 taken as a FIX. -/
  | addi (h : Hd) (f : FI)
  /-- SUBI (R159): Generic subtraction of IMM21 taken as a FIX. -/
  | subi (h : Hd) (f : FI)
  /-- MUL (R157): Generic multiplication with promotion as required. -/
  | mul (h : Hd) (f : FA)
  /-- MULH (R159): Upper 48 bits of the 96-bit FIX product. -/
  | mulh (h : Hd) (f : FA)
  /-- EQ (R166): Identity comparison landing t or nil in DST. -/
  | eq (h : Hd) (f : FA)
  /-- EQL (R166): Value comparison landing t or nil in DST. -/
  | eql (h : Hd) (f : FA)
  /-- LT (R166): Ordered less-than landing t or nil. -/
  | lt (h : Hd) (f : FA)
  /-- LE (R166): Ordered less-or-equal landing t or nil. -/
  | le (h : Hd) (f : FA)
  /-- GT (R166): Ordered greater-than landing t or nil. -/
  | gt (h : Hd) (f : FA)
  /-- GE (R166): Ordered greater-or-equal landing t or nil. -/
  | ge (h : Hd) (f : FA)
  /-- CMPEQ (R165): Identity comparison landing 1 or 0 in a predicate. -/
  | cmpeq (h : Hd) (f : FP)
  /-- CMPNE (R165): Inverse of CMPEQ to a predicate. -/
  | cmpne (h : Hd) (f : FP)
  /-- CMPEQL (R166): EQL comparison to a predicate. -/
  | cmpeql (h : Hd) (f : FP)
  /-- CMPLT (R166): Ordered less-than to a predicate. -/
  | cmplt (h : Hd) (f : FP)
  /-- CMPLE (R166): Ordered less-or-equal to a predicate. -/
  | cmple (h : Hd) (f : FP)
  /-- CMPGT (R166): Ordered greater-than to a predicate. -/
  | cmpgt (h : Hd) (f : FP)
  /-- CMPGE (R166): Ordered greater-or-equal to a predicate. -/
  | cmpge (h : Hd) (f : FP)
  /-- CMPEQI (R165): CMPEQ against IMM24. -/
  | cmpeqi (h : Hd) (f : FPI)
  /-- CMPNEI (R165): CMPNE against IMM24. -/
  | cmpnei (h : Hd) (f : FPI)
  /-- CMPEQLI (R165): CMPEQL against IMM24. -/
  | cmpeqli (h : Hd) (f : FPI)
  /-- CMPLTI (R165): CMPLT against IMM24. -/
  | cmplti (h : Hd) (f : FPI)
  /-- CMPLEI (R165): CMPLE against IMM24. -/
  | cmplei (h : Hd) (f : FPI)
  /-- CMPGTI (R165): CMPGT against IMM24. -/
  | cmpgti (h : Hd) (f : FPI)
  /-- CMPGEI (R165): CMPGE against IMM24. -/
  | cmpgei (h : Hd) (f : FPI)
  /-- TTYPE (R177): Tests SA's type code against TCODE into a predicate. -/
  | ttype (h : Hd) (f : FP)
  /-- TPTR (R177): Tests whether SA is a defined pointer class. -/
  | tptr (h : Hd) (f : FP)
  /-- TIMM (R177): Tests whether SA is a defined immediate class. -/
  | timm (h : Hd) (f : FP)
  /-- TLIST (R177): Tests whether SA is CONS or nil. -/
  | tlist (h : Hd) (f : FP)
  /-- TNUM (R177): Tests whether SA is a numeric type. -/
  | tnum (h : Hd) (f : FP)
  /-- PAND (R133): Predicate AND landing in PD. -/
  | pand (h : Hd) (f : FPL)
  /-- POR (R133): Predicate OR landing in PD. -/
  | por (h : Hd) (f : FPL)
  /-- PXOR (R133): Predicate XOR landing in PD. -/
  | pxor (h : Hd) (f : FPL)
  /-- PANDN (R133): Predicate AND-NOT landing in PD. -/
  | pandn (h : Hd) (f : FPL)
  /-- PNOT (R135): Predicate complement of PA into PD. -/
  | pnot (h : Hd) (f : FPL)
  /-- PMOV (R135): Copies predicate PA into PD. -/
  | pmov (h : Hd) (f : FPL)
  /-- PFLAG (R105): Copies one STATUS flag into a predicate. -/
  | pflag (h : Hd) (f : FPL)
  /-- BGET (R110): Reads a bit of any tier into a predicate. -/
  | bget (h : Hd) (f : FBT)
  /-- BPUT (R134): Writes a predicate into a bit. -/
  | bput (h : Hd) (f : FBT)
  /-- BSET (R115): Sets a bit, waking waiters on a 0-to-1 change of a tier-2 or tier-3 bit. -/
  | bset (h : Hd) (f : FBT)
  /-- BCLR (R110): Clears a bit. -/
  | bclr (h : Hd) (f : FBT)
  /-- BTAS (R111): Reads a bit into a predicate and sets it atomically. -/
  | btas (h : Hd) (f : FBT)
  /-- LD (R180): Loads a cell from an effective address through the load barrier. -/
  | ld (h : Hd) (f : FM)
  /-- ST (R451): Stores a cell through the store buffer and store barrier. -/
  | st (h : Hd) (f : FM)
  /-- LR (R467): Loads a cell and sets the context's reservation on its line. -/
  | lr (h : Hd) (f : FMA)
  /-- SC (R469): Stores DATA only while the reservation covers the line, landing success in PD. -/
  | sc (h : Hd) (f : FMA)
  /-- TAS (R470): Atomically reads a cell and writes CONST t in its place. -/
  | tas (h : Hd) (f : FMA)
  /-- CAR (R181): Loads the car of a CONS, or nil for nil. -/
  | car (h : Hd) (f : FA)
  /-- CDR (R181): Loads the cdr of a CONS, or nil for nil. -/
  | cdr (h : Hd) (f : FA)
  /-- SETCAR (R181): Stores SB as the car of a CONS. -/
  | setcar (h : Hd) (f : FA)
  /-- SETCDR (R181): Stores SB as the cdr of a CONS. -/
  | setcdr (h : Hd) (f : FA)
  /-- VREF (R182): Loads payload element k of a headered object after header and bounds checks. -/
  | vref (h : Hd) (f : FA)
  /-- VSET (R182): Stores a cell into payload element k of a headered object. -/
  | vset (h : Hd) (f : FA)
  /-- LDLOC (R184): Loads the cell designated by a LOC. -/
  | ldloc (h : Hd) (f : FA)
  /-- STLOC (R184): Stores SB into the cell designated by a LOC. -/
  | stloc (h : Hd) (f : FA)
  /-- HLEN (R183): Yields the header length of a headered object. -/
  | hlen (h : Hd) (f : FA)
  /-- SYMVAL (R183): Loads a symbol's value cell. -/
  | symval (h : Hd) (f : FA)
  /-- SYMFN (R183): Loads a symbol's function cell. -/
  | symfn (h : Hd) (f : FA)
  /-- SETSYMVAL (R183): Stores SB into a symbol's value cell. -/
  | setsymval (h : Hd) (f : FA)
  /-- CONS (R190): Allocates a 2-cell list cell holding SA and SB. -/
  | cons (h : Hd) (f : FA)
  /-- ALLOC (R190): Allocates a headered object with UNSET payload. -/
  | alloc (h : Hd) (f : FA)
  /-- CONS_I (R56): CONS yielding an immortal colour-3 pointer. -/
  | consI (h : Hd) (f : FA)
  /-- ALLOC_I (R56): ALLOC yielding an immortal colour-3 pointer. -/
  | allocI (h : Hd) (f : FA)
  /-- BR (R206): Direct branch with two delay slots. -/
  | br (h : Hd) (f : FB)
  /-- CALL (R213): Pushes a RETA cell and branches to a direct target. -/
  | call (h : Hd) (f : FB)
  /-- JR (R204): Branches to a code address held in SA. -/
  | jr (h : Hd) (f : FA)
  /-- CALLR (R213): Pushes a RETA cell and branches to a register target. -/
  | callr (h : Hd) (f : FA)
  /-- RET (R216): Pops a RETA cell, overwrites it with UNSET and branches to its address. -/
  | ret (h : Hd) (f : FA)
  /-- TCALL (R219): Tail call without push after checking the RETA at the new stack pointer. -/
  | tcall (h : Hd) (f : FA)
  /-- FCALL (R205): Resolves a FUNC to its code, pushes a RETA and branches. -/
  | fcall (h : Hd) (f : FA)
  /-- LOOP (R224): Sets up a hardware loop over the next LEN instructions. -/
  | loop (h : Hd) (f : FL)
  /-- CRD (R82): Reads a control register into a word register. -/
  | crd (h : Hd) (f : FC)
  /-- CWR (R83): Writes a control register without behaviour of its own. -/
  | cwr (h : Hd) (f : FC)
  /-- TB_LO_READ (R615): CRD of TB_LO samples the timebase and latches its high bits for TB_HI. -/
  | tbLoRead (h : Hd) (f : FC)
  /-- SVC (R333): Raises the SVC exception resuming at the next instruction. -/
  | svc (h : Hd) (f : FA)
  /-- BKPT (R333): Raises the breakpoint exception. -/
  | bkpt (h : Hd) (f : FA)
  /-- ERET (R343): Checks and restores a frame, lowering the level and resuming at slot b. -/
  | eret (h : Hd) (f : FA)
  /-- LBAR (R457): Orders earlier loads before later accesses. -/
  | lbar (h : Hd) (f : FA)
  /-- SBAR (R457): Places a store-ordering marker in the store buffer. -/
  | sbar (h : Hd) (f : FA)
  /-- FBAR (R457): Full barrier that parks until every earlier access is performed or visible. -/
  | fbar (h : Hd) (f : FA)
  /-- WAITB (R292): Registers a wait on a tier-2 or tier-3 bit and samples it. -/
  | waitb (h : Hd) (f : FA)
  /-- WAITT (R295): Waits until a timebase deadline passes. -/
  | waitt (h : Hd) (f : FA)
  /-- YIELD (R298): Switches the context out if an equal or higher priority context is READY. -/
  | yield (h : Hd) (f : FA)
  /-- SEND (R300): Posts a message cell to another context's inbox. -/
  | send (h : Hd) (f : FA)
  /-- ZLINE (R424): Writes a whole line of zero cells as one store without reading DRAM. -/
  | zline (h : Hd) (f : FM)
  /-- CLEAN (R425): Writes every modified copy of a line to DRAM keeping copies valid. -/
  | clean (h : Hd) (f : FM)
  /-- FLUSH (R425): Writes back and invalidates every copy of a line. -/
  | flush (h : Hd) (f : FM)
  /-- PREF (R426): Prefetches a line into the level-1 and skein caches without faulting. -/
  | pref (h : Hd) (f : FM)
  /-- INVAL (R427): Invalidates instruction-cache lines locally or by broadcast. -/
  | inval (h : Hd) (f : FA)
  /-- TLBW (R391): Removes overlapping entries and installs a page entry. -/
  | tlbw (h : Hd) (f : FA)
  /-- TLBINV (R393): Invalidates TLB entries of a page or a cached descriptor. -/
  | tlbinv (h : Hd) (f : FA)
  /-- TLBINVS (R394): Invalidates entries and descriptors of a space tag or of all tags. -/
  | tlbinvs (h : Hd) (f : FA)
  /-- TLBLK (R392): Installs or removes a locked ITLB entry. -/
  | tlblk (h : Hd) (f : FA)
  /-- TLBRD (R395): Lands the E1 of a matching TLB entry or UNSET. -/
  | tlbrd (h : Hd) (f : FA)
  /-- FADD (R195): IEEE binary64 addition on f registers. -/
  | fadd (h : Hd) (f : FA)
  /-- FSUB (R195): IEEE binary64 subtraction on f registers. -/
  | fsub (h : Hd) (f : FA)
  /-- FMUL (R195): IEEE binary64 multiplication on f registers. -/
  | fmul (h : Hd) (f : FA)
  /-- FDIV (R195): IEEE binary64 division on f registers. -/
  | fdiv (h : Hd) (f : FA)
  /-- FMIN (R195): Minimum of two f registers with NaN rules. -/
  | fmin (h : Hd) (f : FA)
  /-- FMAX (R195): Maximum of two f registers with NaN rules. -/
  | fmax (h : Hd) (f : FA)
  /-- FNEG (R195): Flips the sign bit of an f register. -/
  | fneg (h : Hd) (f : FA)
  /-- FABS (R195): Clears the sign bit of an f register. -/
  | fabs (h : Hd) (f : FA)
  /-- FMOV (R195): Copies an f register bit for bit. -/
  | fmov (h : Hd) (f : FA)
  /-- FSQRT (R195): IEEE binary64 square root. -/
  | fsqrt (h : Hd) (f : FA)
  /-- FCMP (R196): Compares two f registers and writes STATUS. -/
  | fcmp (h : Hd) (f : FA)
  /-- FFROMW (R197): Converts a numeric word register to binary64 in an f register. -/
  | ffromw (h : Hd) (f : FA)
  /-- FTOF32 (R197): Rounds an f register into an F32 cell. -/
  | ftof32 (h : Hd) (f : FA)
  /-- FTOFIX (R197): Truncates an f register into a FIX cell. -/
  | ftofix (h : Hd) (f : FA)
  /-- QUO (R163): Integer quotient truncated toward zero on a twist unit. -/
  | quo (h : Hd) (f : FA)
  /-- REM (R163): Integer remainder with the dividend's sign. -/
  | rem (h : Hd) (f : FA)
  /-- MOD (R163): Integer modulus with the divisor's sign. -/
  | mod (h : Hd) (f : FA)
  /-- MEMQ (R186): Walks a list for the first tail whose car is identical to SA. -/
  | memq (h : Hd) (f : FA)
  /-- ASSQ (R186): Walks an alist for the first element whose car is identical to SA. -/
  | assq (h : Hd) (f : FA)
  /-- MEMV (R186): Walks a list for the first tail whose car is EQL to SA. -/
  | memv (h : Hd) (f : FA)
  /-- LENGTH (R186): Counts the CONS cells of a list. -/
  | length (h : Hd) (f : FA)
  /-- TYPEV (R178): Checks every element of a VEC against a type code. -/
  | typev (h : Hd) (f : FA)
  /-- CPROBE (R537): Finds the winning carder entry for a key and lands its value. -/
  | cprobe (h : Hd) (f : FX)
  /-- CINS (R537): Inserts or replaces a carder entry under the owner's quota. -/
  | cins (h : Hd) (f : FX)
  /-- CDEL (R537): Deletes the carder entry with the same key and lands its value. -/
  | cdel (h : Hd) (f : FX)
  /-- CSCAN (R540): Scans carder entries from CUR writing matching records to a buffer. -/
  | cscan (h : Hd) (f : FX)
  /-- RSUB (R509): Submits a reel descriptor and lands a ticket or rejection reason. -/
  | rsub (h : Hd) (f : FX)
  /-- RSTAT (R513): Reports the status of a reel descriptor by ticket. -/
  | rstat (h : Hd) (f : FX)
  /-- EXTN (R140): Customer extension instruction that sends a message and parks for the reply. -/
  | extn (h : Hd) (n : BitVec 3) (f : FX)
  /-- EXTENSION_MESSAGE_SEND (R140): Sends the 32-byte extension message once the context's earlier stores are visible. -/
  | extensionMessageSend (c : CtxId)
  /-- EXTREPLY (R142): A customer reply write is matched to an outstanding message or discarded. -/
  | extreply (seq : BitVec 32) (gen : BitVec 16) (status : BitVec 8) (v : Cell)
  /-- EXTENSION_TIMEOUT (R144): Expiry of the extension timeout resumes the context with the timeout fault. -/
  | extensionTimeout (seq : BitVec 32)
  /-- EXCEPTION_ENTRY (R338): At a slot boundary an exception or eligible interrupt enters a handling level through its frame. -/
  | exceptionEntry (c : CtxId)
  /-- SWITCH_IN (R282): A prepared ply's context starts issuing on the spindle. -/
  | switchIn (q : SpId)
  /-- PLY_PREPARE (R285): The scheduler selects the next context and loads its bobbin and annex into the idle ply. -/
  | plyPrepare (q : SpId) (up : Option (BitVec 6 × Cell))
  /-- PARKING_RESULT (R276): A parking producer's result arrives and is written to the context's record, making it READY. -/
  | parkingResult (c : CtxId)
  /-- QUANTUM_EXPIRY (R289): After QUANTUM slots the running context is switched out if a peer is READY. -/
  | quantumExpiry (q : SpId)
  /-- STARVATION (R290): A READY context idle for STARVE microseconds is prepared next. -/
  | starvation (c : CtxId)
  /-- STEALING (R291): After 64 idle handshakes an idle spindle takes a READY context from the busiest one. -/
  | stealing (q : SpId)
  /-- DEADLINE_PASSES (R295): A WAITT or WAITB deadline passes and the waiting context becomes READY. -/
  | deadlinePasses (c : CtxId)
  /-- MIGRATION_INSTALL (R307): A moved image is installed in the target skein and held items are released. -/
  | migrationInstall (c : CtxId)
  /-- THERMAL_MIGRATION (R642): Every 100 microseconds the whorl moves one context from the hottest to the coolest skein. -/
  | thermalMigration (c : CtxId)
  /-- CREATE (R316): Context command that builds an image and makes the context READY. -/
  | create (m : CtxCmd)
  /-- DESTROY (R317): Context command that ends the context and frees its number. -/
  | destroy (m : CtxCmd)
  /-- SUSPEND (R265): Context command that stops a context issuing. -/
  | suspend (m : CtxCmd)
  /-- RESUME (R266): Context command that returns a suspended context to READY or its earlier state. -/
  | resume (m : CtxCmd)
  /-- MIGRATE (R304): Context command that moves a context to a target skein or spindle. -/
  | migrate (m : CtxCmd)
  /-- SETPRIO (R313): Context command that changes a context's priority. -/
  | setprio (m : CtxCmd)
  /-- WAKE (R296): Context command that makes a waiting context READY. -/
  | wake (m : CtxCmd)
  /-- QUERY (R314): Context command that reports a context's state and location in CTXRES. -/
  | query (m : CtxCmd)
  /-- DOORBELL (R303): Host write that sets the DB flag of a non-hank context. -/
  | doorbell (c : CtxId)
  /-- HIRQ (R321): Host write that sets interrupt source 2 of a non-hank context. -/
  | hirq (c : CtxId)
  /-- IPISEND (R330): Sets interrupt source 1 of a context once the sender's stores are visible. -/
  | ipisend (c : CtxId) (t : CtxId)
  /-- IPEND_WRITE (R329): Clears and sets pending interrupt bits of the context. -/
  | ipendWrite (c : CtxId) (v : Datum)
  /-- XCTL_WRITE (R328): Writes interrupt masks, routes and PREC limited by the issuing level. -/
  | xctlWrite (c : CtxId) (v : Datum)
  /-- ANNEXBASE_WRITE (R318): Host write of the annex table base, discarded unless every context is FREE. -/
  | annexbaseWrite (v : BitVec 64)
  /-- XFRAME_WRITE (R321): Host write of a frame-table base, discarded unless every context is FREE. -/
  | xframeWrite (n : BitVec 2) (v : BitVec 64)
  /-- COLBASE_WRITE (R485): Host write of the collector block table base, discarded unless every context is FREE. -/
  | colbaseWrite (v : BitVec 64)
  /-- HFPBASE_WRITE (R556): Host write of the hank FP save table base, discarded unless every hank is FREE. -/
  | hfpbaseWrite (v : BitVec 64)
  /-- REGISTER_WRITE (R7): Write to any register with no behaviour of its own. -/
  | registerWrite (p : RegPath) (v : BitVec 64)
  /-- FPSA_WRITE (R198): Changes the FP save area, clearing SAVED and ending ownership without save. -/
  | fpsaWrite (c : CtxId) (v : Datum)
  /-- SPILL (R201): Saves the owned f register file to the save area at the landing slot. -/
  | spill (c : CtxId)
  /-- DISCARD (R256): Discards the context's micro-state record. -/
  | discard (c : CtxId)
  /-- SPACE_WRITE (R365): Changes the space tag and segment table, checked against the hank grant. -/
  | spaceWrite (c : CtxId) (v : Datum)
  /-- HPTCFG_WRITE (R380): Sets the hashed page table configuration, checked for size, alignment and grant. -/
  | hptcfgWrite (c : CtxId) (v : Datum)
  /-- INBBASE_WRITE (R312): Sets the inbox ring and resets its head and tail. -/
  | inbbaseWrite (c : CtxId) (v : Datum)
  /-- TWIST_START (R234): A free twist unit takes the request at the head of the skein queue and starts or restores its routine. -/
  | twistStart (k : SkId) (u : BitVec 2) (entry : BitVec 14)
  /-- OVERFLOW_ADMISSION (R231): When a queue entry frees, the oldest overflow request enters the twist queue. -/
  | overflowAdmission (k : SkId)
  /-- MICROWORD (R238): A twist unit executes one microword per handshake. -/
  | microword (k : SkId) (u : BitVec 2) (up : BitVec 144)
  /-- TWIST_YIELD (R245): After 4,096 microwords with work waiting, the routine yields at its next safe point. -/
  | twistYield (k : SkId) (u : BitVec 2) (up : BitVec 144)
  /-- MICRO_TRAP (R247): At a safe point a routine writes its micro-state record and frees the unit. -/
  | microTrap (k : SkId) (u : BitVec 2) (up : BitVec 144)
  /-- LOAD_BARRIER_SLOW_PATH (R494): A bad pointer is forwarded, recoloured and healed on a twist unit. -/
  | loadBarrierSlowPath (k : SkId) (u : BitVec 2)
  /-- GRANULE_WAIT (R494): After 64 handshakes a slow path re-reads a granule another agent is copying. -/
  | granuleWait (k : SkId) (u : BitVec 2)
  /-- STORE_DRAIN (R452): A store buffer entry obtains its line and becomes visible. -/
  | storeDrain (q : SpId) (i : Nat)
  /-- STORE_BUFFER_ENTRY_FREE (R453): A parked store takes a freed store buffer entry and its context becomes eligible. -/
  | storeBufferEntryFree (c : CtxId)
  /-- RESERVATION_RELEASE (R473): After 64 handshakes the spindle releases the line held for an LR. -/
  | reservationRelease (c : CtxId)
  /-- HOST_COMPLETION (R444): A HOST load's completion returns and the load is performed. -/
  | hostCompletion (c : CtxId) (r : HostEnd)
  /-- COMPLETION_TIMEOUT (R476): A HOST request reaching the completion timeout makes its target dead. -/
  | completionTimeout (c : CtxId)
  /-- VICTIM_ACCEPTED (R421): A home controller accepts a dirty victim and the held fill is installed and delivered. -/
  | victimAccepted (k : SkId) (ln : Nat)
  /-- WAY_POWER_DOWN (R440): The whorl cleans a skein-cache way line by line and removes its power. -/
  | wayPowerDown (k : SkId)
  /-- WAY_POWER_UP (R440): The whorl powers a way up, eligible 1 microsecond later. -/
  | wayPowerUp (k : SkId) (w : BitVec 4)
  /-- DIS_SET (R442): Writing DIS = 1 flushes and cleans the skein's data caches and disables them. -/
  | disSet (k : SkId) (hmask : BitVec 16)
  /-- DIS_CLEAR (R442): Writing DIS = 0 re-enables the skein's data caches. -/
  | disClear (k : SkId) (hmask : BitVec 16)
  /-- SCRUB_LINE (R708): The scrubber reads and verifies the next line of installed DRAM. -/
  | scrubLine (ecc : List (BitVec 8 × BitVec 3)) (dev : BitVec 8)
  /-- SHOOTDOWN (R398): A target spindle applies a broadcast invalidation and acknowledges after its accesses complete. -/
  | shootdown (c : CtxId) (q : SpId)
  /-- SHOOTDOWN_COMPLETE (R397): The last acknowledgement clears SBUSY of the issuing context. -/
  | shootdownComplete (c : CtxId)
  /-- INVAL_BROADCAST (R428): A target spindle applies a broadcast INVAL. -/
  | invalBroadcast (q : SpId) (t : SpId)
  /-- FLIP (R522): Holds the space's contexts, advances the good colour and runs the root pass. -/
  | flip (m : ColCmd)
  /-- FLIP_RELEASE (R522): When every skein has finished the root pass the held contexts are released. -/
  | flipRelease (tag : BitVec 12)
  /-- UPDATE (R521): Applies MARK and RACT changes to a collector block without holding contexts. -/
  | update (m : ColCmd)
  /-- EVAC (R511): A reel claims and copies the pending granules of a descriptor and writes RD7. -/
  | evac (k : SkId) (r : BitVec 1)
  /-- CLR0 (R531): Deletes every carder entry of the HV = 0 owner in a skein. -/
  | clr0 (k : SkId)
  /-- HANK_CREATE (R559): Checks and installs a hank's staged grants and makes it ACTIVE. -/
  | hankCreate (h : BitVec 6)
  /-- COMMIT (R560): Checks and installs changed staged values of a running hank. -/
  | commit (h : BitVec 6)
  /-- PAUSE (R570): Suspends a hank's contexts and drains its queues and stores. -/
  | pause (h : BitVec 6)
  /-- HANK_RESUME (R570): Resumes a paused hank's contexts and fetching. -/
  | hankResume (h : BitVec 6)
  /-- HANK_RESET (R571): Destroys a hank's contexts and state keeping its grants. -/
  | hankReset (h : BitVec 6)
  /-- REMOVE (R571): Tears a hank down and releases every grant. -/
  | remove (h : BitVec 6)
  /-- SQTAIL (R562): Guest doorbell write of the next submission index. -/
  | sqtail (h : BitVec 6) (v : BitVec 64)
  /-- CQHEAD (R562): Guest doorbell write of the next completion index. -/
  | cqhead (h : BitVec 6) (v : BitVec 64)
  /-- GUEST_DOORBELL (R562): Guest write that rings the doorbell of a hank context. -/
  | guestDoorbell (h : BitVec 6) (v : BitVec 64)
  /-- GUEST_INTERRUPT (R562): Guest write that sets interrupt source 2 of a hank context. -/
  | guestInterrupt (h : BitVec 6) (v : BitVec 64)
  /-- SUBMISSION_FETCH (R566): The device fetches a submission entry and checks its generation. -/
  | submissionFetch (h : BitVec 6) (w0 : BitVec 64) (w1 : BitVec 64) (w2 : BitVec 64) (w3 : BitVec 64)
  /-- READ (R564): Submission command copying cells from hank DRAM to the host window. -/
  | read (h : BitVec 6) (i : Nat)
  /-- WRITE (R564): Submission command copying cells from the host window to hank DRAM. -/
  | write (h : BitVec 6) (i : Nat) (data : List Cell) (ok : Bool)
  /-- SUBMISSION_CTXCMD (R564): Submission command acting as a hank context command at L1. -/
  | submissionCtxcmd (h : BitVec 6) (i : Nat)
  /-- FENCE (R564): Submission command completing after every earlier entry. -/
  | fence (h : BitVec 6)
  /-- SYNC (R574): Starts a dirty-log synchronisation and empties the mark record. -/
  | sync (h : BitVec 6)
  /-- PERST_N (R583): Assertion resets the host-link domain, configuration space and window registers. -/
  | perstN (high : Bool)
  /-- HOT_RESET (R583): A PCIe Hot Reset resets the host-link domain as PERST_N does. -/
  | hotReset
  /-- D3HOT_TO_D0 (R583): A return from D3hot to D0 resets the host-link domain. -/
  | d3hotToD0
  /-- LINK_TRAINING (R722): The host link trains to DL_Active and configuration and mailbox service begin. -/
  | linkTraining
  /-- LINK_DOWN (R476): The link leaving DL_Active makes HOST targets dead. -/
  | linkDown
  /-- BUS_MASTER_ENABLE (R584): Configuration write that stops or allows device-initiated requests. -/
  | busMasterEnable (v : Bool)
  /-- APERTURE_READ (R589): Host read of DRAM cells through the BAR0 aperture. -/
  | apertureRead (x : BitVec 21) (n : Nat)
  /-- APERTURE_WRITE (R589): Host write of DRAM through the aperture, merged for partial cells. -/
  | apertureWrite (x : BitVec 21) (data : List (BitVec 8))
  /-- HOST_REGISTER_ACCESS (R580): Host access of an undefined or mis-sized BAR register. -/
  | hostRegisterAccess (bar : BitVec 3) (off : BitVec 22) (n : Nat) (write : Bool) (v : Nat)
  /-- USDO_REQUEST (R672): A CAN FD USDO request reads or writes a dictionary object. -/
  | usdoRequest (sid : BitVec 8) (r : UsdoReq)
  /-- USDO_SESSION_TIMEOUT (R672): A USDO session without a segment for 1,000 ms is aborted. -/
  | usdoSessionTimeout (sid : BitVec 8)
  /-- RESET_NODE (R672): NMT command that restarts the CAN port. -/
  | resetNode (node : BitVec 8)
  /-- RESET_COMMUNICATION (R672): NMT command that restarts the CAN port communication. -/
  | resetCommunication (node : BitVec 8)
  /-- STOP (R672): NMT command leaving only the heartbeat. -/
  | stop (node : BitVec 8)
  /-- PRE_OPERATIONAL (R672): NMT command entering pre-operational state. -/
  | preOperational (node : BitVec 8)
  /-- OPERATIONAL (R672): NMT command entering operational state. -/
  | operational (node : BitVec 8)
  /-- HEARTBEAT (R672): Expiry of the producer heartbeat period sends a heartbeat. -/
  | heartbeat
  /-- EMCY (R674): Sends an emergency message when an enabled condition begins or the last clears. -/
  | emcy
  /-- EMCY_INHIBIT_EXPIRY (R674): End of the EMCY inhibit time sends the next waiting message. -/
  | emcyInhibitExpiry
  /-- MAILBOX_READ (R675): Mailbox request reading a dictionary object. -/
  | mailboxRead (idx : BitVec 16) (sub : BitVec 8) (len : BitVec 16) (tag : BitVec 16)
  /-- MAILBOX_WRITE (R675): Mailbox request writing a dictionary object. -/
  | mailboxWrite (idx : BitVec 16) (sub : BitVec 8) (tag : BitVec 16) (data : List (BitVec 8))
  /-- STORE_PARAMETERS (R669): Writing save stores a snapshot of P-class values into the other bank. -/
  | storeParameters (p : DPath) (ok : Bool)
  /-- RESTORE_DEFAULTS (R670): Writing load marks the stored image replaced by defaults at next reset. -/
  | restoreDefaults (p : DPath)
  /-- ERROR_COUNT_CLEAR (R661): Writing 0 to 0x1003:00 clears the error history. -/
  | errorCountClear (p : DPath)
  /-- LOGCLR (R664): Writing clar erases the error log. -/
  | logclr (p : DPath)
  /-- WRLOCK (R676): Sets or clears per-path dictionary write locks. -/
  | wrlock (p : DPath) (v : BitVec 8)
  /-- MODE_REQUEST_STANDBY (R644): Mode request 1 stops issue and enters STANDBY. -/
  | modeRequestStandby (p : DPath)
  /-- MODE_REQUEST_RUN (R644): Mode request 2 enters RUN and locks the patch loader. -/
  | modeRequestRun (p : DPath)
  /-- MODE_REQUEST_DROWSE (R644): Mode request 3 enters DROWSE under PDROWSE. -/
  | modeRequestDrowse (p : DPath)
  /-- MODE_REQUEST_SLEEP (R647): Mode request 4 saves state to DRAM and powers the domains off. -/
  | modeRequestSleep (p : DPath)
  /-- MODE_REQUEST_HALT (R645): Mode request 5 stops every context and holds the domains at minimum rate. -/
  | modeRequestHalt (p : DPath)
  /-- SLEEP_EXIT (R649): A wake tick, request or BAR access restores state and leaves SLEEP. -/
  | sleepExit (ticks : Nat) (p : Nat) (ok : Bool)
  /-- WHORL_PERIOD (R634): Every 10 microseconds the whorl measures each domain and applies its constraints. -/
  | whorlPeriod (vin : Nat) (iin : Nat) (pin : Nat) (l : List DomMeas)
  /-- SKEIN_PARK (R638): An idle skein switches to retention voltage. -/
  | skeinPark (k : SkId)
  /-- SKEIN_WAKE (R639): A request or event wakes a parked skein. -/
  | skeinWake (k : SkId)
  /-- SECTOR_PARK (R640): In DROWSE an idle sector 1 or 2 parks with its channels in power-down. -/
  | sectorPark (n : BitVec 2)
  /-- SECTOR_WAKE (R640): A request routed through a parked sector wakes it. -/
  | sectorWake (n : BitVec 2)
  /-- CRITICAL_TEMPERATURE (R651): Reaching the critical threshold forces every self-timed domain to 1,600 M hs/s and alerts. -/
  | criticalTemperature (d : BitVec 6)
  /-- THERMAL_TRIP (R652): Reaching the trip threshold asserts THERMTRIP_N and turns the regulators off. -/
  | thermalTrip (d : BitVec 6)
  /-- COLD_LIMIT (R651): A junction below the cold limit alerts and logs. -/
  | coldLimit (d : BitVec 6)
  /-- SUPPLY_OUT_OF_RANGE (R653): VIN outside the operating range alerts and logs. -/
  | supplyOutOfRange (above : Bool)
  /-- SAG (R654): VIN below 11.2 V inhibits new MRAM writes and writes a brown-out record. -/
  | sag
  /-- INHIBIT_LIFT (R654): VIN above 11.4 V for 1 ms lifts the non-volatile write inhibit. -/
  | inhibitLift
  /-- BROWN_OUT (R655): VIN below 10.5 V shuts the domains down without cleaning caches. -/
  | brownOut
  /-- OVER_VOLTAGE (R655): VIN above 13.2 V shuts the domains down as a brown-out. -/
  | overVoltage
  /-- RESET_N (R730): Assertion for 10 microseconds abandons operation and restarts from step 2 on release. -/
  | resetN (high : Bool) (te : Bool)
  /-- START_UP (R721): The distaff runs the ordered start-up steps from supply gate to STANDBY. -/
  | startUp (o : StepOut)
  /-- COMPARE_FIRE (R619): An armed compare reaches its value and performs its pin, interrupt and bit actions. -/
  | compareFire (n : BitVec 3)
  /-- COMPARE_WRITE (R620): A compare register write reaches domain 38 and takes effect for later decisions. -/
  | compareWrite
  /-- CAPTURE_EDGE (R623): An enabled edge on a capture input is stamped and recorded. -/
  | captureEdge (n : BitVec 3) (up : CapEdge)
  /-- REFERENCE_LOSS (R628): Loss of the 25 MHz reference moves TB to the slow clock with HOLD set. -/
  | referenceLoss
  /-- REFERENCE_RETURN (R628): Return of the reference resumes TB from the reference. -/
  | referenceReturn
  /-- PATCH_LOAD (R261): GO starts a checked load of a patch image into every twist unit. -/
  | patchLoad
  /-- PATCH_LOAD_COMPLETE (R263): The load finishes, writing CODE and clearing BUSY. -/
  | patchLoadComplete
  /-- PATCH_LOCK (R260): LOCK forbids further patch loads until reset. -/
  | patchLock
  /-- LC_DEV (R684): Transition from LC_BLANK to LC_DEV. -/
  | lcDev (p : DPath) (v : BitVec 32)
  /-- LC_PROD (R684): Transition from LC_DEV to LC_PROD. -/
  | lcProd (p : DPath) (v : BitVec 32)
  /-- LC_RETURN (R684): Transition from LC_PROD to LC_RETURN disabling the keys. -/
  | lcReturn (p : DPath) (v : BitVec 32)
  /-- LC_END (R684): Transition to LC_END. -/
  | lcEnd (p : DPath) (v : BitVec 32)
  /-- SVNCOMMIT (R689): Blows the security version thermometer up to a value. -/
  | svncommit (p : DPath) (v : BitVec 8)
  /-- ODKHSET (R703): Fuses the owner debug key hash once. -/
  | odkhset (p : DPath) (v : BitVec 256)
  /-- POLICYSET (R703): Sets owner policy fuse bits. -/
  | policyset (p : DPath) (v : BitVec 8)
  /-- NONCE (R693): Snapshots the attestation fields and starts signing a report. -/
  | nonce (p : DPath) (v : BitVec 256)
  /-- ATTESTATION_SIGNED (R693): The report signature completes and ASTAT becomes ready. -/
  | attestationSigned
  /-- CERTCHUNK (R693): Stores identity certificate bytes at CERTOFF. -/
  | certchunk (p : DPath) (d : List (BitVec 8))
  /-- DBGLOCK (R703): Writing 1 ends the debug session. -/
  | dbglock (p : DPath) (v : BitVec 8)
  /-- STATUS (R699): Debug command returning level, last result, FAILCNT and wait. -/
  | status
  /-- CHAL (R699): Debug command issuing or returning the challenge. -/
  | chal (data : BitVec 64)
  /-- TOKW (R699): Debug command appending 8 token bytes. -/
  | tokw (data : BitVec 64)
  /-- TOKEN_VERIFICATION (R696): Verification of a received token completes and opens a session or counts a failure. -/
  | tokenVerification
  /-- LOCK (R699): Debug command ending the session. -/
  | lock
  /-- ADDR (R699): Debug command setting the space and address for RD and WR. -/
  | addr (data : BitVec 64)
  /-- RD (R700): Debug command reading 8 bytes and advancing the address. -/
  | rd
  /-- WR (R700): Debug command writing 8 bytes and advancing the address. -/
  | wr (data : BitVec 64)
  /-- HALT (R699): Debug command requesting a debug halt. -/
  | halt
  /-- RELEASE (R699): Debug command leaving a debug-originated HALT. -/
  | release
  /-- DIRQ (R699): Debug command setting interrupt source 4 of a context. -/
  | dirq (data : BitVec 64)
  /-- MCRD (R699): Debug command returning a slice of a microword. -/
  | mcrd (data : BitVec 64)
  /-- INJADDR (R719): Debug command selecting an error-injection target. -/
  | injaddr (data : BitVec 64)
  /-- INJARM (R719): Debug command arming a one-shot error injection. -/
  | injarm (data : BitVec 64)
  /-- SCRUB (R719): Debug command starting an extra scrub pass. -/
  | scrub
  /-- RETCLR (R719): Debug command clearing retirement records at next start. -/
  | retclr
  /-- SUBST (R719): Debug command declaring a spindle failed. -/
  | subst (data : BitVec 64)
  /-- SUBSTITUTION (R711): A failed spindle's logical number moves to the skein's spare. -/
  | substitution (p : SpId) (hard : Bool) (ok : Bool)
  /-- FABRIC_CRC_ERROR (R705): A flit failing CRC is resent, and a fifth failure restarts the device. -/
  | fabricCrcError (sector : BitVec 2) (n : Nat)
  /-- LOG_RECORD_WRITE (R718): After its 1 s hold a queued record is written to the MRAM log. -/
  | logRecordWrite
  /-- ERROR_PASSIVE (R597): Bus errors drive the CAN controller's ISO error counters into error passive or bus-off, raising condition bit 7. -/
  | errorPassive (e : List CanBus)
  /-- BUS_OFF_RECOVERY (R597): After 128 occurrences of 11 recessive bits a bus-off CAN controller recovers automatically. -/
  | busOffRecovery
  /-- CRITICAL_TEMPERATURE_RELEASE (R651): The critical-temperature action is released when the junction falls to 92 °C (S) or 102 °C (X). -/
  | criticalTemperatureRelease
  /-- COLD_LIMIT_CLEAR (R651): The junction rising back above the cold limit clears condition bit 1 and its ALERT_N. -/
  | coldLimitClear
  /-- SUPPLY_RETURN_TO_RANGE (R653): VIN returning within 11.4–12.6 V clears the supply out-of-range condition. -/
  | supplyReturnToRange
  /-- DISTAFF_STOP (R655): When VIN falls below 9.0 V the distaff stops, losing its volatile state. -/
  | distaffStop
  /-- LOST_MEMORY_CHANNEL (R714): A memory controller or PHY stops answering or loses its training state, forcing a fatal-error restart. -/
  | lostMemoryChannel (ch : BitVec 4)
  /-- FUSE_WRITE_COMPLETE (R684): A fuse write of up to 20 ms completes and its transition, key hash, policy or SVN takes effect. -/
  | fuseWriteComplete (full : Bool)
  /-- SEND_ACKNOWLEDGED (R300): A SEND's acknowledgement returns, setting SENDST and posting a waiting SEND and making its sender READY. -/
  | sendAcknowledged (c : CtxId)
  /-- CARDER_ACCEPT (R545): The carder accepts the next CPROBE, CINS or CDEL from its queue and applies it. -/
  | carderAccept (k : SkId)
  /-- EXTEST (R600): TAP instruction that drives the boundary-register outputs onto the pins in BRINGUP or HALT. -/
  | extest (v : TapLoad)
  /-- CLAMP (R600): TAP instruction that holds the pins at the boundary-register values and selects bypass. -/
  | clamp
  /-- HIGHZ (R600): TAP instruction that places the boundary-scan outputs in high impedance. -/
  | highz
  /-- TEST_LOGIC_RESET (R599): The TAP enters Test-Logic-Reset, through TMS or TRST_N, and selects IDCODE. -/
  | testLogicReset
  /-- LINK_RECOVERY (R476): The host link enters Recovery, and HOST requests are held until it leaves. -/
  | linkRecovery (enter : Bool)
  /-- RC_READ (R7): A host read of an RC register in BAR0, such as UCNT or STALECNT, returns the value and clears it. -/
  | rcRead (off : BitVec 22)
  /-- SYNC_COMPLETE (R574): The flush read of a dirty-log synchronisation returns, and SBUSY falls. -/
  | syncComplete (h : BitVec 6)
deriving DecidableEq, Repr

end Sys2Proof
end

