-- ==== Sys2Proof/Machine/State.lean ====
section
/-! DEFINITION. The state of the UN5480 as plain data, the reasons a step can stop, and the state after reset. -/

namespace Sys2Proof.Machine

/-- Sparse storage: pairs of a key and a value, keys rising, no value equal to the storage's default. -/
abbrev SMap (α : Type) := List (Nat × α)

/-! ## Exceptions -/

/-- A precise exception (R333): cause code, INFO, the DISPINFO fields REASON, TYPEA, TYPEB when it writes them (R154),
and whether PC addresses the next instruction (the Resume column of R333). -/
structure Exc where
  code : BitVec 8
  info : Datum := 0
  disp : Option (BitVec 2 × BitVec 6 × BitVec 6) := none
  next : Bool := false
deriving DecidableEq, Repr

/-- Why the body of an instruction does not complete now: it raises an exception, it must wait for a result
(a miss, a full store buffer, a drain), or it waits in its issuing slot (R428). -/
inductive Err where
  | exc (e : Exc)
  | wait
  | hold
deriving DecidableEq, Repr

/-! ## Contexts -/

/-- The states of a context (R264). -/
inductive CtxState where
  | free | ready | running | parked | waiting | suspended | moving
deriving DecidableEq, Repr

/-- Where a context stands in its program: PC, DTGT, DCNT (R270, R272), the hardware loop (R223) and the dynamic slot
counter (R93). `past`: the next fetch lies past offset 2^40 - 1 (R121). `kill`: the pending transfer is a BR, JR, RET or
TCALL, which ends the loop when it leaves it (R227). -/
structure Flow where
  pc : VAddr := 0
  past : Bool := false
  dtgt : VAddr := 0
  dcnt : BitVec 2 := 0
  kill : Bool := false
  lpStart : Datum := 0
  lpEnd : Datum := 0
  lpCnt : Datum := 0
  slot : Nat := 0
deriving DecidableEq, Repr

/-- The target of a landing (R74, R274). -/
inductive Tgt where
  | word (r : BitVec 5)
  | fp (r : BitVec 4)
  | pred (n : BitVec 3)
  | pbit (b : BitVec 8)
  | status
  | creg (n : BitVec 12)
deriving DecidableEq, Repr

/-- An enabled FP exception that waits with its producer's landings (R348): the producer's address and slot, and the exceptions
it raised. -/
structure FpExc where
  addr : VAddr
  at_ : Nat
  flags : BitVec 5
deriving DecidableEq, Repr

/-- A pending landing (R96): its landing slot, its target, its value (a cell, a binary64, a bit or the five flags), whether
the value has arrived (R276), and the enabled FP exception that waits with it (R348). `bit`: a tier-2 bit of the context's own skein that the
landing reads, where the read is still to be performed (R459). -/
structure Landing where
  slot : Nat
  tgt : Tgt
  val : BitVec 64
  arrived : Bool := true
  fpx : Option FpExc := none
  bit : Option (SkId × BitVec 16) := none
deriving DecidableEq, Repr

/-- What a tier-2 or tier-3 bit is named by: skein and bit number, or physical cell and datum bit (R292). -/
inductive BitKey where
  | t2 (sk : SkId) (b : BitVec 16)
  | t3 (pa : PAddr) (b : Nat)
deriving DecidableEq, Repr

/-- A wait registration (R292, R295): a bit, a deadline, or both. -/
structure Wait where
  bit : Option BitKey := none
  deadline : Option Datum := none
deriving DecidableEq, Repr

/-- Bit operations on tiers 2 and 3 (R109). -/
inductive BitOp where
  | get | put (v : Bool) | tas
deriving DecidableEq, Repr

/-- The memory phase of an instruction, with the operand values it read at its slot (R96): what is performed at issue when
every access is served at once, and otherwise when the parking result arrives (R101). -/
inductive MemOp where
  | ldRaw (va : VAddr) (dst : BitVec 5)
  | stRaw (va : VAddr) (v : Cell)
  | load (va : VAddr) (dst : BitVec 5) (res : Bool)
  | store (va : VAddr) (v : Cell)
  | vref (o k : Cell) (dst : BitVec 5)
  | vset (o k v : Cell)
  | hlen (o : Cell) (dst : BitVec 5)
  | sym (o : Cell) (off : Nat) (dst : BitVec 5)
  | setsym (o v : Cell)
  | cons (a b : Cell) (imm : Bool) (dst : BitVec 5)
  | alloc (h t : Cell) (imm : Bool) (dst : BitVec 5)
  | call (t : VAddr) (sp : Cell)
  | ret (sp : Cell)
  | tcall (f sp : Cell) (setSp : Bool)
  | fcall (f sp : Cell)
  | tas (va : VAddr) (dst : BitVec 5)
  | sc (va : VAddr) (v : Cell) (pd : BitVec 3)
  | bit (r : Cell) (op : BitOp) (pd : BitVec 3)
  | zline (va : VAddr)
  | clean (va : VAddr) (flush : Bool)
  | inval (va : VAddr) (bcast : Bool)
  | fbar
  | waitb (r : Cell) (deadline : Option Datum)
  | rsub (a : Cell) (pd : BitVec 3) (dst : BitVec 5)
  | rstat (t : Cell) (pd : BitVec 3) (dst : BitVec 5)
  | cscan (a : Cell) (wa wb : Bool) (pd : BitVec 3) (dst : BitVec 5)
  | send (dst : CtxId) (v : Cell)
  | extn (n : BitVec 3) (a b : Cell) (func : BitVec 21) (dst : BitVec 5)
deriving DecidableEq, Repr

/-- Kinds of work a twist unit takes (R229): an instruction's operation, an exchange of the f file before an FP-class
instruction or before a pending f landing (R199, R200), the load-barrier slow path of a cell from a field (R494). -/
inductive TwKind where
  | op
  | fpx
  | fpland
  | slow (x : Cell) (field : Option VAddr)
deriving DecidableEq, Repr

/-- A twist-queue request (R230). `enc` is the instruction, `gen` the incarnation of the context number, `cont` says that it
continues a micro-state record. `op` is the memory phase of a transfer through a FUNC that was parked when the record was written. -/
structure TwReq where
  ctx : CtxId
  gen : Nat
  level : BitVec 2
  addr : VAddr
  major : BitVec 8
  minor : BitVec 8
  sa : Cell
  sb : Cell
  dst : BitVec 5
  enc : BitVec 48
  kind : TwKind := .op
  cont : Bool := false
  op : Option MemOp := none
deriving DecidableEq, Repr

/-- The micro-state record MS0 to MS7 (R248), with the request it continues. `walk`: how far a walk of a list has come, in elements, and
the cell it has reached (R188). `outs`: results that its routine had ready. -/
structure MicroRec where
  mv : Bool := false
  kind : BitVec 3 := 0
  level : BitVec 2 := 0
  sdepth : BitVec 2 := 0
  major : BitVec 8 := 0
  minor : BitVec 8 := 0
  upc : BitVec 14 := 0
  flags : BitVec 4 := 0
  addr : VAddr := 0
  stack : BitVec 42 := 0
  pgen : BitVec 8 := 0
  k0 : BitVec 20 := 0
  k1 : BitVec 20 := 0
  t0 : Cell := 0
  t1 : Cell := 0
  t2 : Cell := 0
  t3 : Cell := 0
  walk : Option (Nat × Cell) := none
  outs : List (Nat × Cell) := []
  req : Option TwReq := none
deriving DecidableEq, Repr

/-- A store-buffer entry's content (R451, R506). A line entry lists the stored cells by cell address. A HOST entry says whether
it is the first after an SBAR, FBAR or atomic (R465). A card entry lists the stores whose card rule is to be evaluated: the
stored-to cell, its virtual address and the pointer. -/
inductive SbKind where
  | line (ln : Nat) (cells : SMap Cell)
  | zline (ln : Nat)
  | bit2 (sk : SkId) (b : BitVec 16) (v : Bool)
  | bit3 (pa : PAddr) (b : Nat) (v : Bool)
  | device (pa : PAddr) (v : Cell)
  | host (pa : PAddr) (v : Cell) (first : Bool)
  | card (tag : BitVec 12) (marks : List (PAddr × VAddr × Cell))
deriving DecidableEq, Repr

/-- The virtual address of an access, with the level and the SPACE it was translated with: a prefetch stream translates with them too (R403). -/
structure Via where
  va : VAddr
  level : BitVec 2
  space : Datum
deriving DecidableEq, Repr

/-- A store-buffer entry (R451): its context, the number of SBARs the context had issued (R457), and how the address of a store was translated. -/
structure SbEntry where
  ctx : CtxId
  sbar : Nat
  kind : SbKind
  via : Option Via := none
deriving DecidableEq, Repr

/-- An exception as it is delivered: cause, INFO, ADDR, IMP, MULTI (R326). -/
structure Raise where
  code : BitVec 8
  info : Datum
  addr : VAddr
  imp : Bool := false
  multi : Bool := false
deriving DecidableEq, Repr

/-- The parking producer a context waits for (R101, R103). `mem`: a memory phase, with the flow as its slot began, to be
performed when its accesses are served. `stores`: entries that wait for the store buffer (R453). `bitTrip`: a write of a tier-2 bit of another
skein, until it is visible (R110). `frame`: an exception, or interrupt source, with the table whose frame is not in the skein cache, and whether
the entry has escalated (R339, R340). `carder`, `ext`: with the instruction. -/
inductive Park where
  | mem (op : MemOp) (enc : BitVec 48) (back : Flow)
  | stores (es : List SbEntry)
  | bitTrip (k : SkId) (b : BitVec 16)
  | twist (back : Flow)
  | carder (enc : BitVec 48) (back : Flow)
  | ext (seq : BitVec 32) (enc : BitVec 48) (back : Flow)
  | frame (r : Raise) (irq : Option Nat) (tab : Nat) (esc : Bool)
deriving DecidableEq, Repr

/-- An item held at the home skein while its context is MOVING (R269): a message with the owner of its sender, a context command by OP with the
incarnation of its issuer, a doorbell, an interrupt by source, or a wake event by its reason. -/
inductive HeldItem where
  | msg (sender : CtxId) (gen : Nat) (hv : Bool) (hank : BitVec 6) (v : Cell)
  | cmd (op : Nat) (m : CtxCmd) (gen : Nat)
  | door
  | irq (n : Nat)
  | wake (reason : BitVec 3)
deriving DecidableEq, Repr

/-- A value that a parked memory phase or a microword has obtained, and that serves when it is performed again: of a DEVICE or HOST load, with its
address as translated and its memory type (R400), or, type 3, a cell that the slow path has healed. -/
structure IoVal where
  va : VAddr
  pa : PAddr
  mt : Nat
  v : Cell
deriving DecidableEq, Repr

/-- A context: its program-visible state (R74), its annex registers by annex cell (R279), and its scheduler entry (R267). `lvSpare`: the
LVAL cells of the saved image that a debugger has written (R270, R700), while the context has issued `lvSpareSlot` slots. `img`: its
image slot in its skein; `imgTo`: the slot reserved in the skein a move goes to (R267, R307). `migSrc`, `stopSrc`: who is told when a MIGRATE
begins late, or a SUSPEND takes effect late, with the incarnation of a context. `sendWait`: SENDs that wait, first to last (R300). `entry`: an
exception, or interrupt source, whose entry waits for the entries of a SPILL (R200, R201). `cleans`: the lines of CLEANs, FLUSHes and other
write-backs of the context that no controller has accepted (R425). `migHold`: it commanded its own move, and issues nothing until that begins (R313). `invHold`: its
broadcast INVAL waits in its slot (R428). `hostDue`: when the completion timeout of its HOST request ends, on the slow clock (R582). -/
structure Ctx where
  st : CtxState := .free
  suspFrom : CtxState := .free
  movedFrom : CtxState := .free
  resArrived : Bool := false
  wakeRec : Bool := false
  gen : Nat := 0
  hv : Bool := false
  hank : BitVec 6 := 0
  level : BitVec 2 := 0
  prio : BitVec 3 := 0
  pin : BitVec 2 := 0
  wake : BitVec 3 := 0
  skein : SkId := 0
  lspin : BitVec 4 := 0
  toSkein : SkId := 0
  toLspin : BitVec 4 := 0
  flow : Flow := {}
  w : SMap Cell := []
  preds : BitVec 8 := 1
  status : BitVec 5 := 0
  genctl : BitVec 16 := 0x0005
  fpflags : BitVec 5 := 0
  fpSaved : Bool := false
  pbits : BitVec 256 := 0
  land : List Landing := []
  park : Option Park := none
  pendExc : Option Exc := none
  skip : Bool := false
  killSaved : SMap VAddr := []
  ms : MicroRec := {}
  deferred : Option TwReq := none
  twWait : Option TwReq := none
  ax : SMap Datum := [(3, 16777216), (25, 0x5555FF)]
  res : Option Nat := none
  resHold : Bool := false
  wait : Option Wait := none
  db : Bool := false
  inbBase : Datum := 0
  inbHead : BitVec 12 := 0
  inbTail : BitVec 12 := 0
  sendst : BitVec 3 := 0
  senderr : Bool := false
  sendOut : Option (Option (BitVec 3)) := none
  sendWait : List (CtxId × Cell) := []
  readySeq : Nat := 0
  /-- Times of the slow clock: when the context became READY (R638), and when it last issued a slot, or was made (R290). -/
  readyAt : Nat := 0
  issuedAt : Nat := 0
  boost : Bool := false
  ipiOut : List CtxId := []
  sbars : Nat := 0
  hostFirst : Bool := false
  hostLast : Option PAddr := none
  heldItems : List HeldItem := []
  stopReq : Bool := false
  mig : Option (SkId × BitVec 4) := none
  migSrc : Option (Src × Nat) := none
  migHold : Bool := false
  stopSrc : Option (Src × Nat) := none
  img : Nat := 0
  imgTo : Nat := 0
  invHold : Bool := false
  fpDue : Bool := false
  entry : Option (Raise × Option Nat) := none
  cleans : List Nat := []
  ioVals : List IoVal := []
  ioIdx : Nat := 0
  hostReq : Option (VAddr × PAddr) := none
  hostSent : Bool := false
  hostDue : Nat := 0
  lvSpareSlot : Nat := 0
  lvSpare : SMap Cell := []
deriving DecidableEq, Repr

/-! ## Spindles -/

/-- A page entry of a TLB: E0, E1 (R376, R377) and the lock of TLBLK (R392). -/
structure TlbEnt where
  e0 : Datum := 0
  e1 : Datum := 0
  locked : Bool := false
deriving DecidableEq, Repr

/-- A cached segment descriptor (R372): space tag, segment, D0, D1 and whether both cells were RAW (R366). -/
structure DescEnt where
  tag : BitVec 12
  seg : BitVec 8
  d0 : Datum
  d1 : Datum
  raw : Bool
deriving DecidableEq, Repr

/-- What is wrong with the stored copies of a tag entry (R434): the primary fails parity, the shadow fails it; the entry still shows an error after
it is rewritten (R435, Hard); an injection made it (R719). -/
structure TagErr where
  prim : Bool := false
  shad : Bool := false
  hard : Bool := false
  inj : Bool := false
deriving DecidableEq, Repr

/-- A level-1 data-cache line (R404). `ln` is the line number, the physical cell address shifted right by 3. -/
structure L1Line where
  valid : Bool := false
  ln : Nat := 0
  dirty : Bool := false
  retired : Bool := false
  tag : TagErr := {}
deriving DecidableEq, Repr

/-- An instruction-cache line with the cells it holds, and which of them are poisoned (R404, R436; instruction caches are not kept
coherent, R406). `parity`: a parity bit of a cell or of the tag is wrong (R434). -/
structure ILine where
  valid : Bool := false
  ln : Nat := 0
  cells : List Cell := []
  bad : List Bool := []
  parity : Bool := false
deriving DecidableEq, Repr

/-- A prefetch stream tracker (R432): context, page, last line, stride, misses seen at that stride. -/
structure Tracker where
  ctx : CtxId
  page : Nat
  last : Nat
  stride : Int
  conf : Nat
deriving DecidableEq, Repr

/-- A cached region entry (R492): space tag, region number, and the entry (R488). -/
structure RegEnt where
  tag : BitVec 12
  reg : Nat
  ent : Datum
deriving DecidableEq, Repr

/-- The state of one logical spindle. `rst`: a spindle reset waits for the stores of this context (R456). -/
structure Spindle where
  bsegBase : SMap Datum := []
  bsegLim : SMap Datum := []
  fp : SMap (BitVec 64) := []
  fpBad : List (BitVec 4) := []
  fpOwner : Option CtxId := none
  fpWritten : Bool := false
  plyA : Option CtxId := none
  plyB : Option CtxId := none
  issB : Bool := false
  prepared : Bool := false
  quantum : Nat := 0
  desc : List DescEnt := []
  dtlb : SMap TlbEnt := []
  dVict : Nat := 0
  itlb : SMap TlbEnt := []
  iVict : Nat := 0
  sb : List SbEntry := []
  l1 : SMap L1Line := []
  l1Tree : BitVec 63 := 0
  ic : SMap ILine := []
  icTree : SMap (BitVec 3) := []
  ibusy : List SpId := []
  ibCtx : Option CtxId := none
  ibLine : Option Nat := none
  pfDepth : BitVec 3 := 4
  pfL1f : Bool := false
  pfEn : Bool := true
  moctl : BitVec 2 := 2
  moCtx : CtxId := 0
  moFlags : BitVec 4 := 0
  trackers : List Tracker := []
  regs : List RegEnt := []
  resets : List Nat := []
  tbLatch : Option (CtxId × Nat × BitVec 16) := none
  rst : Option CtxId := none
deriving DecidableEq, Repr

/-! ## Skeins -/

/-- A granule that a slow path or a reel has claimed (R495): its relocation entry, its address, and the source, the destination and the field to be
healed as they were translated before the claim. -/
structure Claim where
  ent : PAddr
  src : VAddr
  srcP : PAddr
  dstP : PAddr
  field : Option PAddr := none
deriving DecidableEq, Repr

/-- A twist unit (R231, and the datapath state of Twist Units and Microcode). `restore`: the record that the first microword takes up. `started`: a
first microword has executed (R246). `unord`: the last binary64 compare was unordered. `mops`: loads issued, by scratch cell and value, that a wait
makes visible (R238). `loaded`: what was last loaded from an address (MOP 3). `sinceSafe`, `sinceStart`: microwords since a safe point and since the
routine started or resumed (R244, R245). `fault`: a resumable fault that waits for a safe point. `retry`: the last microword failed parity once
(R240). `claim`: a claimed relocation entry (R495). `gwait`: the routine waits for a granule that another agent copies. `outs`: results that land when
the routine ends, 1 word, 2 predicate. `walk`: how far a walk of a list has come, in elements, and the cell it has reached (R188). `faults`: times of
micro-faults; `off`: out of service (R714). -/
structure TUnit where
  req : Option TwReq := none
  restore : Option MicroRec := none
  started : Bool := false
  upc : BitVec 14 := 0
  stack : List (BitVec 14) := []
  flags : BitVec 4 := 0
  unord : Bool := false
  k : SMap (BitVec 20) := []
  t : SMap Cell := []
  mops : List (Nat × Cell) := []
  loaded : SMap Cell := []
  sinceSafe : Nat := 0
  sinceStart : Nat := 0
  fault : Option Exc := none
  gwait : Bool := false
  outs : List (Nat × Cell) := []
  walk : Option (Nat × Cell) := none
  retry : Bool := false
  good : BitVec 2 := 0
  claim : Option Claim := none
  faults : List Nat := []
  off : Bool := false
deriving DecidableEq, Repr

/-- Coherence state of a skein-cache line (R409). -/
inductive Mesi where
  | inv | shared | excl | modified
deriving DecidableEq, Repr

/-- Who asks the skein cache for a line: a load or a store of a context on a spindle, an instruction fetch of a spindle (`inv`: an INVAL was applied
since, R427), a PREF, a prefetch stream that fills the level-1 cache too or not, a unit of the skein. -/
inductive Asker where
  | load (c : CtxId) (q : SpId)
  | store (c : CtxId) (q : SpId)
  | fetch (q : SpId) (inv : Bool)
  | pref (q : SpId)
  | stream (q : SpId) (l1 : Bool)
  | unit
deriving DecidableEq, Repr

/-- A skein-cache line (R404, R406, R416). `fresh`: it came for these requests, which have not yet been tried again (R421). -/
structure SkLine where
  st : Mesi := .inv
  ln : Nat := 0
  age : BitVec 2 := 0
  holders : BitVec 17 := 0
  retired : Bool := false
  fresh : List Asker := []
  tag : TagErr := {}
deriving DecidableEq, Repr

/-- A fill held at the skein cache until its victim is accepted (R421): set and way, the new line, the victim, the requests of the skein that
wait for it in arrival order (R443), the state and age the line will have. -/
structure HeldFill where
  idx : Nat
  ln : Nat
  victim : Nat
  asks : List Asker
  st : Mesi
  age : BitVec 2
deriving DecidableEq, Repr

/-- A skein's copy of a collector block, SC0 to SC4 (R486, R487). -/
structure ColBlock where
  sc0 : Datum := 0
  sc1 : Datum := 0
  sc2 : Datum := 0
  sc3 : Datum := 0
  sc4 : Datum := 0
deriving DecidableEq, Repr

/-- A reel descriptor in a skein's queue or in a reel (R509, R510). -/
structure ReelDesc where
  ticket : BitVec 16
  pa : PAddr
  ctx : CtxId
  gen : Nat
  tag : BitVec 12
  hv : Bool
  hank : BitVec 6
  space : Datum
  pkr : Datum
  hpt : Datum
  rd0 : Datum
  rd1 : Datum
  rd2 : Datum
  rd3 : Datum
  next : Nat
  copied : Nat
  claim : Option Claim := none
deriving DecidableEq, Repr

/-- A carder entry: K0, K1, VAL, META as stored cells (R526 to R528). -/
structure CEnt where
  k0 : Cell := 0
  k1 : Cell := 0
  val : Cell := 0
  meta_ : Cell := 0
deriving DecidableEq, Repr

/-- Carder operations that queue (R545). -/
inductive COp where
  | probe | ins | del
deriving DecidableEq, Repr

/-- A request to a skein's carder: its context and incarnation, spindle, operation, keys, wildcards, and for CINS the value,
LOCK and USER (R536, R537). -/
structure CReq where
  ctx : CtxId
  gen : Nat
  hv : Bool
  hank : BitVec 6
  lspin : BitVec 4
  op : COp
  k0 : Cell
  k1 : Cell
  wa : Bool
  wb : Bool
  v : Cell := 0
  lock : Bool := false
  user : BitVec 32 := 0
deriving DecidableEq, Repr

/-- The state of one skein. -/
structure Skein where
  bits : SMap Bool := []
  twq : List TwReq := []
  twOvf : List CtxId := []
  units : SMap TUnit := []
  cache : SMap SkLine := []
  held : List HeldFill := []
  dis : Bool := false
  hmask : BitVec 16 := 0xFFFF
  dstate : BitVec 2 := 0
  pwrOff : BitVec 16 := 0
  cleaning : BitVec 16 := 0
  retWays : BitVec 16 := 0
  blocks : SMap ColBlock := []
  regs : List RegEnt := []
  cbCtx : CtxId := 0
  cbErr : Bool := false
  reelQ : List ReelDesc := []
  reels : SMap (List ReelDesc) := []
  reelSeq : BitVec 16 := 0
  reelDone : SMap Cell := []
  reelLast : Nat := 0
  spareFor : Option (BitVec 4) := none
  spareBad : Bool := false
  failed : BitVec 16 := 0
  outOf : BitVec 16 := 0
  parked : Bool := false
  card : SMap CEnt := []
  cardQ : List CReq := []
  cardHeld : List CReq := []
  cardLast : BitVec 4 := 0
  cRepl : Bool := false
  cQuota : BitVec 15 := 16384
  ucnt : BitVec 16 := 0
deriving DecidableEq, Repr

/-- A directory entry (R408): the line, the skeins that hold it, and whether one holds it modified. The list of a
channel is in order of allocation, oldest first. -/
structure DirEnt where
  ln : Nat
  holders : BitVec 32
  modified : Bool
deriving DecidableEq, Repr

/-- A FLIP in progress (R522): its tag, who asked for it, a context with its incarnation, and when. -/
structure Flip where
  tag : BitVec 12
  gen : Nat
  src : Src
  start : Nat
deriving DecidableEq, Repr
/-- The device modes (R643). -/
inductive Mode where
  | bringup | standby | run | drowse | sleep | halt
deriving DecidableEq, Repr


/-- An outstanding extension message with its content and the TB at which it times out (R140, R142, R144). -/
structure ExtMsg where
  seq : BitVec 32
  gen : BitVec 16
  ctx : CtxId
  cgen : Nat
  n : BitVec 3
  func : BitVec 21
  cella : Cell
  cellb : Cell
  hv : Bool
  hank : BitVec 6
  due : Nat := 0
deriving DecidableEq, Repr

/-- A log record (R717). -/
structure ErrRec where
  seq : Nat
  tb : Nat
  event : Nat
  sev : Nat
  domain : Nat
  unit : Nat
  ctx : Option CtxId
  addr : Option Nat
  detail : Nat
  flags : BitVec 8 := 0
  reps : Nat := 0
deriving DecidableEq, Repr

/-- The grants of a hank (R551, R557): as staged, or as installed. -/
structure HankCfg where
  spmask : BitVec 512 := 0
  ctxmax : BitVec 16 := 0
  waymask : BitVec 16 := 0
  crepl : Bool := false
  cquota : BitVec 15 := 0
  bwcap : Bool := false
  bwshare : BitVec 10 := 0
  reelq : BitVec 6 := 0
  bithi : BitVec 16 := 0
  bitlo : BitVec 16 := 0xFFFF
  taghi : BitVec 12 := 0
  taglo : BitVec 12 := 0xFFF
  dbase : SMap PAddr := []
  dlim : SMap PAddr := []
  hwbase : PAddr := 0
  hwlim : PAddr := 0
  sqs : BitVec 4 := 0
  sqbase : PAddr := 0
  cqs : BitVec 4 := 0
  cqbase : PAddr := 0
deriving DecidableEq, Repr

/-- A fetched submission entry whose completion is not written (R563, R566). -/
structure SubCmd where
  gen : BitVec 16
  cid : BitVec 16
  op : BitVec 8
  arg0 : BitVec 64
  arg1 : BitVec 64
  arg2 : BitVec 64
  stat : BitVec 8
  done : Nat
deriving DecidableEq, Repr

/-- A flush read of a hank (R466): none, to be sent behind a write to a bus address, or sent, with the time by which it ends. -/
inductive Flush where
  | none
  | want (a : BitVec 64)
  | out (due : Nat)
deriving DecidableEq, Repr

/-- A hank (R557): its registers, its installed grants, its queue indexes and its dirty-log record. `pend`: the OP of a command in
progress, 0 without one. `arg`, `res`: CTXARG and CTXRES of its CTXCMD entries. `sent`: the last host write since the last flush read. `flush`, `sync`: the flush reads of a command in progress
(R570, R571) and of a synchronisation (R574). -/
structure Hank where
  state : BitVec 4 := 0
  result : BitVec 4 := 0
  gen : BitVec 16 := 0
  stg : HankCfg := {}
  cur : HankCfg := {}
  cqien : Bool := false
  cqvec : BitVec 11 := 0
  even : Bool := false
  evctx : CtxId := 0
  dlen : Bool := false
  sbusy : Bool := false
  out : Bool := false
  dlpages : BitVec 28 := 0
  dlmap : BitVec 64 := 0
  dllo : BitVec 64 := 0
  stalecnt : Nat := 0
  baddb : Nat := 0
  dlmiss : Nat := 0
  sqtail : BitVec 16 := 0
  sqhead : BitVec 16 := 0
  cqhead : BitVec 16 := 0
  cqtail : BitVec 16 := 0
  phase : Bool := true
  msixSent : Bool := false
  cmds : List SubCmd := []
  marked : List Nat := []
  pend : Nat := 0
  arg : Datum := 0
  res : Datum := 0
  sent : Option (BitVec 64) := none
  flush : Flush := .none
  sync : Flush := .none
deriving DecidableEq, Repr

/-- What a TLBINV or TLBINVS removes (R393, R394): the entries of a small page, one descriptor, or the entries of the tags
lo to hi. -/
inductive InvOp where
  | page (e0 : Datum) (locked : Bool)
  | seg (tag : BitVec 12) (sg : BitVec 8)
  | space (tags : Nat × Nat) (all locked : Bool)
deriving DecidableEq, Repr

/-- A broadcast invalidation in progress (R397): its context and incarnation, the skein that issued it, what it removes, the spindles that have not
acknowledged. -/
structure Bcast where
  ctx : CtxId
  gen : Nat
  sk : SkId
  op : InvOp
  todo : List SpId
deriving DecidableEq, Repr

/-- A compare (R618). `done`: it has fired for its present V. `late`: the next firing sets LATE (R619). -/
structure Cmp where
  v : BitVec 64 := 0
  bind : CtxId := 0
  bit : BitVec 16 := 0
  en : Bool := false
  fired : Bool := false
  lateF : Bool := false
  miss : Bool := false
  pinact : BitVec 2 := 0
  irq : Bool := false
  bite : Bool := false
  bskein : SkId := 0
  period : BitVec 32 := 0
  done : Bool := false
  late : Bool := false
  kept : Option (Nat × BitVec 3) := none
deriving DecidableEq, Repr

/-- A capture input (R622). `lastRise`: the last edge recorded was a rise (R623). -/
structure Cap where
  rise : BitVec 64 := 0
  fall : BitVec 64 := 0
  rseq : BitVec 4 := 0
  fseq : BitVec 4 := 0
  rv : Bool := false
  fv : Bool := false
  rovr : Bool := false
  fovr : Bool := false
  pair : Bool := false
  lvl : Bool := false
  lastRise : Bool := false
deriving DecidableEq, Repr

/-- An interrupt or bit action of a compare held while the device is in HALT (R625). -/
inductive HeldAct where
  | irq (c : CtxId) (n : Nat)
  | bit (k : SkId) (b : BitVec 16)
deriving DecidableEq, Repr

/-! ## The host link (R576 to R592) -/

/-- The state of the link: not in DL_Active, DL_Active, or Recovery (R476, R722). -/
inductive LinkSt where
  | down | active | recovery
deriving DecidableEq, Repr

/-- What the device sent on the host link: a write of 8-byte words or of one byte, an MSI-X
message, or a read of n words (R465, R480, R591). -/
inductive LinkMsg where
  | write (a : BitVec 64) (ws : List (BitVec 64)) (poison ro ns : Bool)
  | byte (a : BitVec 64) (v : BitVec 8)
  | msix (a : BitVec 64) (d : BitVec 32)
  | read (a : BitVec 64) (n : Nat) (ns : Bool)
deriving DecidableEq, Repr

/-- What the last host read of a memory BAR returned. -/
inductive HostAns where
  | none
  | data (v : BitVec 64)
  | cells (vs : List (BitVec 8)) (poison : Bool)
  | unsupported
  | aborted
deriving DecidableEq, Repr

/-- A host-window entry (R585): BUSBASE, EN, LIMIT. -/
structure HostWin where
  base : BitVec 52 := 0
  en : Bool := false
  limit : BitVec 24 := 0
deriving DecidableEq, Repr

/-- The registers of the BAR2 mailbox or of the debug mirror (R675). -/
structure Mbox where
  req : BitVec 64 := 0
  done : Bool := false
  rlen : BitVec 13 := 0
  abort : BitVec 32 := 0
  tag : BitVec 16 := 0
  ien : Bool := false
  vec : BitVec 11 := 0
  data : SMap (BitVec 8) := []
deriving DecidableEq, Repr

/-- The host-link port. `cto`: Completion Timeout Value (R582). `msix`: the vector table by 8-byte word; `pba`: pending bits.
`bars`: the base addresses by BAR; `mps`, `mrrs`: the payload and read request sizes set in Device Control, 128 bytes × 2^n (R576, R578). -/
structure HostIf where
  link : LinkSt := .down
  perst : Bool := true
  trained : Bool := false
  bme : Bool := false
  d3 : Bool := false
  cto : BitVec 4 := 0
  ssvid : BitVec 16 := 0
  ssid : BitVec 16 := 0
  msixEn : Bool := false
  msixMask : Bool := false
  msix : SMap (BitVec 64) := []
  pba : SMap Bool := []
  wins : SMap HostWin := []
  aperture : BitVec 22 := 0
  extTgt : SMap (BitVec 59) := []
  extTmo : BitVec 20 := 10000
  out : List LinkMsg := []
  ans : HostAns := .none
  mbox : Mbox := {}
  bars : SMap (BitVec 64) := []
  mps : BitVec 3 := 0
  mrrs : BitVec 3 := 2
deriving DecidableEq, Repr

/-! ## The distaff (R629 to R734) -/

/-- A stored parameter image (R669): sequence number, CRC validity, and the values that differ from the defaults. -/
structure Bank where
  seq : Nat := 0
  valid : Bool := false
  vals : SMap (BitVec 64) := []
deriving DecidableEq, Repr

/-- The state of the CAN FD port (R597, R672). -/
inductive Nmt where
  | off | preOp | oper | stopped
deriving DecidableEq, Repr

/-- A frame the CAN port sent: identifier and data bytes; CAN FD with the data rate switched, or classical (R597). -/
structure CanMsg where
  id : BitVec 11
  data : List (BitVec 8)
  fdf : Bool := true
  brs : Bool := true
deriving DecidableEq, Repr

/-- What a dictionary request answers: an abort code, 0 on success, and the bytes of a read. -/
structure DictAns where
  abort : BitVec 32 := 0
  data : List (BitVec 8) := []
deriving DecidableEq, Repr

/-- A USDO session (R672, R676): its number, object, the bytes still to send, or the bytes received and the length announced. -/
structure Usdo where
  id : BitVec 8
  idx : BitVec 16
  sub : BitVec 8
  write : Bool
  len : Nat
  data : List (BitVec 8)
  /-- The time of the slow clock at which the session ends without a further segment. -/
  due : Nat := 0
deriving DecidableEq, Repr

/-- A fuse write in progress (R682). -/
inductive FuseOp where
  | lc (pair : Nat)
  | svn (v : Nat)
  | policy (v : BitVec 8)
  | odkh (v : BitVec 256)
deriving DecidableEq, Repr

/-- The fuses that a command can change (R680, R683): the lifecycle pairs, low bit first; the factory fields count as one bit. -/
structure Fuses where
  keys : Bool := true
  lc : BitVec 8 := 0x0F
  svn : Nat := 0
  policy : BitVec 8 := 0
  odkh : Option (BitVec 256) := none
deriving DecidableEq, Repr

/-- The patch loader (R260 to R263, R692). `ran`: the device has entered RUN since reset. `gaddr`, `glen`: ADDR and LEN at the last GO. -/
structure Patch where
  addr : BitVec 40 := 0
  len : BitVec 18 := 0
  busy : Bool := false
  locked : Bool := false
  ran : Bool := false
  code : BitVec 8 := 0
  psvn : BitVec 32 := 0
  pdig : BitVec 256 := 0
  plain : Bool := false
  gaddr : BitVec 40 := 0
  glen : BitVec 18 := 0
deriving DecidableEq, Repr

/-- Debug access (R694 to R700): level, highest level, RETURN permission, outstanding challenge, token words, a verification in
progress, last result, FAILCNT, end of the wait on the slow clock, address, and the register that Capture-DR loads. -/
structure Debug where
  level : BitVec 2 := 0
  high : BitVec 2 := 0
  perm : Bool := false
  chal : Option (BitVec 256) := none
  tok : List (BitVec 64) := []
  verify : Bool := false
  result : BitVec 8 := 0
  failcnt : BitVec 16 := 0
  waitEnd : Nat := 0
  space : BitVec 2 := 0
  addr : BitVec 40 := 0
  cmd : BitVec 4 := 0
  stat : BitVec 4 := 0
  data : BitVec 64 := 0
  mirror : Mbox := {}
deriving DecidableEq, Repr

/-- Attestation (R692, R693): ASTAT, ASEQ, AOFF, the report being signed, the last completed report with its signature. -/
structure Attest where
  astat : BitVec 8 := 0
  aseq : BitVec 32 := 0
  aoff : BitVec 16 := 0
  snap : List (BitVec 8) := []
  report : List (BitVec 8) := []
  cert : SMap (BitVec 8) := []
  certLen : BitVec 16 := 0
  certOff : BitVec 16 := 0
deriving DecidableEq, Repr

/-- A timing domain as the whorl holds it (R629 to R637): output in mV, rate target and achieved rate in M hs/s, temperature in
units of 0.125 °C, demand in percent, and whether it is throttled. -/
structure Domain where
  volt : Nat := 0
  vset : Nat := 0
  volt2 : Nat := 0
  target : Nat := 1600
  rate : Nat := 0
  temp : Int := 0
  demand : Nat := 0
  thr : Bool := false
deriving DecidableEq, Repr

/-- The power state: domains, supply readings, what binds, what acts (R629 to R655). `sectors`: parked fabric sectors. `off`: the
regulators of domains 0 to 38 are off. `rounds`: the rounds that lowered rate targets for the power cap, last first: the cap of each,
and by how much each lowered which domain (R635). `bus`: the intermediate bus in mV (R629).
`dramReset`: every DRAM_RESET_N is low. -/
structure Power where
  doms : SMap Domain := []
  sectors : BitVec 4 := 0
  off : Bool := true
  vin : Nat := 0
  iin : Nat := 0
  pin : Nat := 0
  limited : BitVec 8 := 0
  critical : Bool := false
  inhibit : Bool := false
  thermtrip : Bool := false
  cold : Bool := false
  tmig : Bool := false
  /-- The slow clock before which the whorl moves no further context (R642). -/
  tmigAt : Nat := 0
  /-- The slow clock when a skein last had a context READY or RUNNING, and when a sector last carried traffic (R638, R640). -/
  busyAt : List (Nat × Nat) := []
  trafAt : List (Nat × Nat) := []
  rounds : List (Nat × List (Nat × Nat)) := []
  bus : Nat := 0
  dramReset : Bool := true
deriving DecidableEq, Repr

/-- The test access port (R599, R600): instruction and boundary register, and what the last boundary scan captured. -/
structure Tap where
  ir : BitVec 8 := 0x01
  bsr : BitVec 76 := 0
  out : BitVec 76 := 0
deriving DecidableEq, Repr

/-- The measurement of the slow clock (R626): the period P in units of 2^-20 ns, nominally 30,517.578125 ns; TB and the tick count at the last slow-clock
edge while the device runs, which SLEEP entry leaves as T0 and S0; TB and the tick count at which the running measurement began. -/
structure SlowClk where
  p : Nat := 32000000000
  tb : Nat := 0
  n : Nat := 0
  wTb : Nat := 0
  wN : Nat := 0
deriving DecidableEq, Repr

/-- The memory population that training found (R594): DIMMs per channel, and of each the capacity in GiB, its ranks and its device width; the
multiple of 25 MHz of the memory clock. -/
structure DramPop where
  per : Nat := 0
  gib : Nat := 0
  ranks : Nat := 0
  width : Nat := 4
  rate : Nat := 0
deriving DecidableEq, Repr

/-- The management block. `txErrs`, `rxErrs`: the error counters of the CAN controller (R597). `capPins`: the levels at the capture inputs. `objs`: written dictionary values by index × 256 + subindex. `step`: the start-up step that runs, 0 when
the sequence is not running. `failed`: a start-up failure holds the device in BRINGUP. `entering`: SLEEP entry runs; `exiting`: SLEEP exit has started;
`reqBusy`: a mode request is in progress; `bootsDue`: BOOTS waits for the inhibit. `saved`: mode held before HALT or SLEEP.
`clock`: ns of the slow clock, never reset. `cause`: BUCAUSE. -/
structure Mgmt where
  modeRes : BitVec 8 := 0
  haltOrg : BitVec 8 := 0
  saved : Mode := .standby
  haltHeld : Bool := false
  sleepBar : BitVec 32 := 0
  cause : BitVec 8 := 0
  step : Nat := 1
  failed : Bool := false
  exiting : Bool := false
  entering : Bool := false
  reqBusy : Bool := false
  bootsDue : Bool := false
  clock : Nat := 0
  slow : SlowClk := {}
  dimms : DramPop := {}
  capPins : BitVec 8 := 0
  objs : SMap (BitVec 64) := []
  bankA : Bank := {}
  bankB : Bank := {}
  cur : Bool := false
  loadMark : Bool := false
  hist : List (BitVec 32) := []
  conds : BitVec 16 := 0
  wrlock : BitVec 8 := 0
  logsel : BitVec 16 := 0
  nmt : Nmt := .off
  canErr : CanErr := .active
  txErrs : Nat := 0
  rxErrs : Nat := 0
  canNode : BitVec 8 := 0
  canRate : BitVec 8 := 0
  canOut : List CanMsg := []
  canAns : DictAns := {}
  emcyDue : List (BitVec 32) := []
  emcyQ : List (BitVec 32) := []
  emcyInh : Bool := false
  /-- Times of the slow clock: the next heartbeat, and the end of the EMCY inhibit time (R672, R674). -/
  hbDue : Nat := 0
  emcyEnd : Nat := 0
  usdo : List Usdo := []
  retire : List (BitVec 64) := []
  retClr : Bool := false
  boots : BitVec 32 := 0
  fuses : Fuses := {}
  fuseW : Option FuseOp := none
  patch : Patch := {}
  dbg : Debug := {}
  att : Attest := {}
  pwr : Power := {}
  tap : Tap := {}
  testEn : Bool := false
  resetN : Bool := true
  scrub : Nat := 0
  scrubFast : Bool := false
deriving DecidableEq, Repr

/-! ## The device -/

/-- Where an array error lies: a way of a set or a line of a cache, or a line of DRAM with the device that was corrected. -/
inductive ArrPlace where
  | unit (u : UnitFail)
  | dram (ln : Nat) (dev : BitVec 16)
deriving DecidableEq, Repr

/-- What is wrong with the burst of a line in DRAM (R595): the wrong symbols, each a device and a pair of beats, in a DIMM and rank of its channel;
whether a second read shows them too (R707). -/
structure DramBad where
  dev : BitVec 8 := 0
  syms : List (BitVec 8 × BitVec 3) := []
  again : Bool := true
deriving DecidableEq, Repr

/-- An array error that is still to be recorded: its place, the event of its class (0: it has its record), whether the place is retired (R435, R437,
R438), whether an injection made it. -/
structure ArrDue where
  place : ArrPlace
  event : Nat
  retire : Bool
  inj : Bool := false
deriving DecidableEq, Repr

/-- The state of the block. `arrErr`: wrong bits of a cell as an array stores it (R434, R719): bits 7 to 0 the bits, 11 to 8 the array, 20 to 12 the
spindle that wrote it, 22 and 21 what a second look shows: 0 clean once rewritten, 1 right on a re-read, 2 wrong again after the rewrite (R435).
`arrDue`: the array errors whose records are to be written. `dramBad`: by line, what is wrong in DRAM.
`wq`: the lines in each channel's write queue, oldest first (R413). `tbRet`: the reference has returned, and TB counts from it at the next slow
tick (R628). `extGone`: the extension messages of hank contexts that were destroyed before a reply, by SEQ, with the GEN they carried and the
hank (R568). -/
structure State where
  pending : List Instr := []
  mem : SMap (BitVec 8) := []
  dram : Nat := 0
  poisoned : SMap Bool := []
  ctxs : SMap Ctx := []
  spindles : SMap Spindle := []
  skeins : SMap Skein := []
  dirs : SMap (List DirEnt) := []
  readySeq : Nat := 0
  fresh : Nat := 0
  mode : Mode := .bringup
  annexEn : Bool := false
  annexBase : PAddr := 0
  starve : BitVec 16 := 1000
  quantum : BitVec 16 := 4096
  hctxarg : Datum := 0
  hctxres : Datum := 0
  frames : SMap (Bool × PAddr) := []
  colEn : Bool := false
  colBase : PAddr := 0
  hcolres : Datum := 0
  flips : List Flip := []
  extSeq : BitVec 32 := 0
  extOut : List ExtMsg := []
  extGone : List (BitVec 32 × BitVec 16 × BitVec 6) := []
  extEn : BitVec 8 := 0
  patch : SMap (BitVec 144) := []
  matchRegs : SMap (BitVec 32) := []
  pgen : BitVec 8 := 0
  nwords : Nat := 0
  tb : Nat := 0
  tbRun : Bool := false
  counters : SMap Nat := []
  recQ : List ErrRec := []
  recSeq : Nat := 0
  recLast : Option Nat := none
  log : List ErrRec := []
  injAddr : BitVec 64 := 0
  injArmed : Option (BitVec 64) := none
  injMarks : List Nat := []
  arrErr : SMap (BitVec 23) := []
  arrDue : List ArrDue := []
  wq : SMap (List Nat) := []
  dramBad : SMap DramBad := []
  dramErrs : SMap (List Nat) := []
  dramDeg : SMap Bool := []
  hanks : SMap Hank := []
  hfpEn : Bool := false
  hfpBase : PAddr := 0
  bcasts : List Bcast := []
  tbHold : Bool := false
  tbRet : Bool := false
  tbRecon : Bool := false
  tbUnc : BitVec 32 := 0
  cmps : SMap Cmp := []
  cmpW : List (BitVec 12 × Datum) := []
  cmpo : BitVec 4 := 0
  capctl : BitVec 24 := 0
  caps : SMap Cap := []
  heldActs : List HeldAct := []
  host : HostIf := {}
  m : Mgmt := {}
deriving DecidableEq, Repr

/-- Why the machine stops with a fault. -/
inductive Fault where
  /-- Never raised by this model: every command of the spec has an effect or none. Kept so that the type is not empty. Safe. -/
  | unused
deriving DecidableEq, Repr

/-- Why a command is refused. -/
inductive Refusal where
  /-- The dispatcher, for a command that has no meaning yet, with its mnemonic. Safe. -/
  | notModelled (mnemonic : String)
deriving DecidableEq, Repr

/-- The machine right after reset. -/
def State.reset : State := {}

end Sys2Proof.Machine
end

