-- ==== Sys2Proof/Machine/Bits.lean ====
section
/-! DEFINITION. Sparse storage, the fields of cells, addresses and control words, and the cell check code. -/

namespace Sys2Proof.Machine

/-! ## Sparse storage -/

/-- The value stored under a key, or the storage's default. -/
def mapGet {α : Type} (d : α) : SMap α → Nat → α
  | [], _ => d
  | (k', v) :: m, k => if k' = k then v else mapGet d m k

/-- Insert a pair in key order. -/
def mapIns {α : Type} (k : Nat) (v : α) : SMap α → SMap α
  | [] => [(k, v)]
  | (k', v') :: m => if k < k' then (k, v) :: (k', v') :: m else (k', v') :: mapIns k v m

/-- Remove a key. -/
def mapDel {α : Type} (k : Nat) : SMap α → SMap α
  | [] => []
  | (k', v') :: m => if k' = k then mapDel k m else (k', v') :: mapDel k m

/-- Store a value under a key; the default is stored by removing the key. -/
def mapSet {α : Type} [DecidableEq α] (d : α) (m : SMap α) (k : Nat) (v : α) : SMap α :=
  if v = d then mapDel k m else mapIns k v (mapDel k m)

/-- Keys strictly rising, all at least `lo`, and no default stored. -/
def mapWfFrom {α : Type} [DecidableEq α] (d : α) : Nat → SMap α → Bool
  | _, [] => true
  | lo, (k, v) :: m => decide (lo ≤ k) && !decide (v = d) && mapWfFrom d (k + 1) m

/-- The canonical form of sparse storage. -/
def mapWf {α : Type} [DecidableEq α] (d : α) (m : SMap α) : Bool := mapWfFrom d 0 m

/-! ## Cells -/

/-- DATUM (R36). -/
def cDat (c : Cell) : Datum := c.extractLsb' 0 48

/-- TYPE (R36). -/
def cTyp (c : Cell) : BitVec 6 := c.extractLsb' 48 6

/-- COLOUR (R36). -/
def cCol (c : Cell) : BitVec 2 := c.extractLsb' 54 2

/-- CHECK (R36). -/
def cChk (c : Cell) : BitVec 8 := c.extractLsb' 56 8

/-- The generator columns G_0 to G_55 (R39). -/
def genCols : List (BitVec 8) :=
  [0x07, 0x0B, 0x0D, 0x0E, 0x13, 0x15, 0x16, 0x19, 0x1A, 0x1C, 0x23, 0x25, 0x26, 0x29] ++
  [0x2A, 0x2C, 0x31, 0x32, 0x34, 0x38, 0x43, 0x45, 0x46, 0x49, 0x4A, 0x4C, 0x51, 0x52] ++
  [0x54, 0x58, 0x61, 0x62, 0x64, 0x68, 0x70, 0x83, 0x85, 0x86, 0x89, 0x8A, 0x8C, 0x91] ++
  [0x92, 0x94, 0x98, 0xA1, 0xA2, 0xA4, 0xA8, 0xB0, 0xC1, 0xC2, 0xC4, 0xC8, 0xD0, 0xE0]

/-- The exclusive-OR of the columns of the set bits, from bit `i` on. -/
def checkFrom (c : Cell) : Nat → List (BitVec 8) → BitVec 8
  | _, [] => 0
  | i, g :: gs => (if c.getLsbD i then g else 0) ^^^ checkFrom c (i + 1) gs

/-- CHECK of bits [55:0] (R39). -/
def checkOf (c : Cell) : BitVec 8 := checkFrom c 0 genCols

/-- A cell with CHECK recomputed over its bits [55:0] (R41). -/
def sealCell (c : Cell) : Cell := checkOf c ++ c.extractLsb' 0 56

/-- The cell of a colour, type and datum, with its CHECK. -/
def mkCell (col : BitVec 2) (ty : BitVec 6) (d : Datum) : Cell := sealCell ((0 : BitVec 8) ++ col ++ ty ++ d)

/-- The syndrome of a stored cell (R40). -/
def syndrome (c : Cell) : BitVec 8 := cChk c ^^^ checkOf c

/-- The position of a column among the generator columns. -/
def colIndex (s : BitVec 8) : Nat → List (BitVec 8) → Option Nat
  | _, [] => none
  | i, g :: gs => if g = s then some i else colIndex s (i + 1) gs

/-- Verification of a stored cell (R40): the cell to deliver, and whether it was corrected; none when uncorrectable. -/
def verify (c : Cell) : Option (Cell × Bool) :=
  let s := syndrome c
  if s = 0 then some (c, false)
  else if s &&& (s - 1) = 0 then some (sealCell c, true)
  else match colIndex s 0 genCols with
    | some i => some (c ^^^ (1#64 <<< i), true)
    | none => none

/-- Type codes (R46). -/
abbrev tUNSET : BitVec 6 := 0x00
abbrev tFIX : BitVec 6 := 0x01
abbrev tCHAR : BitVec 6 := 0x02
abbrev tF32 : BitVec 6 := 0x03
abbrev tCONST : BitVec 6 := 0x04
abbrev tBITREF : BitVec 6 := 0x05
abbrev tHDR : BitVec 6 := 0x06
abbrev tCODEW : BitVec 6 := 0x07
abbrev tRAW : BitVec 6 := 0x08
abbrev tRETA : BitVec 6 := 0x09
abbrev tEXTI : BitVec 6 := 0x10
abbrev tCONS : BitVec 6 := 0x20
abbrev tSYM : BitVec 6 := 0x21
abbrev tVEC : BitVec 6 := 0x22
abbrev tSTR : BitVec 6 := 0x23
abbrev tBVEC : BitVec 6 := 0x24
abbrev tBIG : BitVec 6 := 0x25
abbrev tF64 : BitVec 6 := 0x26
abbrev tFUNC : BitVec 6 := 0x27
abbrev tCODE : BitVec 6 := 0x28
abbrev tINST : BitVec 6 := 0x29
abbrev tFWD : BitVec 6 := 0x2A
abbrev tLOC : BitVec 6 := 0x2B
abbrev tFACT : BitVec 6 := 0x2C
abbrev tEXTP : BitVec 6 := 0x2D

/-- A FIX cell of colour 0. -/
def fixCell (d : Datum) : Cell := mkCell 0 tFIX d

/-- A RAW cell of colour 0. -/
def rawCell (d : Datum) : Cell := mkCell 0 tRAW d

/-- The FIX cell of an integer, taken modulo 2^48. -/
def fixInt (i : Int) : Cell := fixCell (BitVec.ofInt 48 i)

/-- nil: CONST with datum 0 and colour 0 (R51). -/
def nilCell : Cell := mkCell 0 tCONST 0

/-- CONST t. -/
def tCell : Cell := mkCell 0 tCONST 1

/-- The all-zero UNSET cell (R38). -/
def unsetCell : Cell := 0

/-- A defined pointer class, 0x20 to 0x2D (R46). -/
def isPtr (t : BitVec 6) : Bool := decide (0x20 ≤ t.toNat ∧ t.toNat ≤ 0x2D)

/-- A reserved type code (R46). -/
def isReserved (t : BitVec 6) : Bool :=
  let n := t.toNat
  decide ((0x0A ≤ n ∧ n ≤ 0x0F) ∨ (0x11 ≤ n ∧ n ≤ 0x1F) ∨ 0x2E ≤ n)

/-- A malformed BITREF datum (R109). -/
def badBitref (d : Datum) : Bool :=
  let tier := d.extractLsb' 46 2
  if tier = 0 then decide (d.extractLsb' 8 38 ≠ 0)
  else if tier = 1 then decide (d.extractLsb' 22 24 ≠ 0) || (d.getLsbD 21 && decide (d.extractLsb' 16 5 ≠ 0))
  else if tier = 2 then d.getLsbD 45
  else true

/-- A malformed immediate (R49, R109). -/
def isMalformed (c : Cell) : Bool :=
  let d := (cDat c).toNat
  let t := cTyp c
  if t = tCHAR then decide (d > 0x10FFFF) || decide (0xD800 ≤ d ∧ d ≤ 0xDFFF)
  else if t = tF32 then decide (d ≥ 2 ^ 32)
  else if t = tCONST then decide (d > 3)
  else if t = tBITREF then badBitref (cDat c)
  else false

/-- nil by type and datum. -/
def isNil (c : Cell) : Bool := cTyp c = tCONST && cDat c = 0

/-- Identity (R57): type code and datum, not colour. -/
def identical (a b : Cell) : Bool := cTyp a = cTyp b && cDat a = cDat b

/-! ## Addresses -/

/-- Segment of a virtual address (R58). -/
def vSeg (a : VAddr) : BitVec 8 := a.extractLsb' 40 8

/-- Offset of a virtual address (R58). -/
def vOff (a : VAddr) : Nat := (a.extractLsb' 0 40).toNat

/-- The virtual address of a segment and an offset below 2^40. -/
def vMk (s : BitVec 8) (o : Nat) : VAddr := s ++ BitVec.ofNat 40 o

/-- An address displaced within its segment (R130, R131); none when the offset leaves 0 to 2^40 - 1. -/
def vAdd (a : VAddr) (d : Int) : Option VAddr :=
  let o := (vOff a : Int) + d
  if 0 ≤ o ∧ o < 2 ^ 40 then some (vMk (vSeg a) o.toNat) else none

/-- A displaced address, the offset taken modulo 2^40. -/
def vAddW (a : VAddr) (d : Int) : VAddr := vMk (vSeg a) (((vOff a : Int) + d) % 2 ^ 40).toNat

/-- The line number of a physical cell address (R404). -/
def lineOf (a : PAddr) : Nat := a.toNat / 8

/-- The physical cell address of a number, modulo 2^40. -/
def paOf (n : Nat) : PAddr := BitVec.ofNat 40 n

/-! ## Bit fields -/

/-- A field of a number: `w` bits from bit `lo`. -/
def bits (n lo w : Nat) : Nat := n / 2 ^ lo % 2 ^ w

/-- A bit of a number. -/
def bitN (n i : Nat) : Bool := decide (n / 2 ^ i % 2 = 1)

/-- 0 or 1. -/
def b2n (b : Bool) : Nat := if b then 1 else 0

/-- One bit of a Bool. -/
def b1 (b : Bool) : BitVec 1 := if b then 1 else 0

/-- A bit vector with one bit replaced. -/
def setBit {w : Nat} (x : BitVec w) (i : Nat) (v : Bool) : BitVec w :=
  if v then x ||| (1#w <<< i) else x &&& ~~~(1#w <<< i)

/-- A datum from a number, modulo 2^48. -/
def dat (n : Nat) : Datum := BitVec.ofNat 48 n

/-- The elements of a list below a bound, 0 to n - 1. -/
def upto (n : Nat) : List Nat := List.range n

end Sys2Proof.Machine
end

