-- ==== Sys2Proof/Machine/Encoding.lean ====
section
/-! DEFINITION. The instruction words: encoders by format, reserved encodings, minimum levels (R122 to R147). -/

namespace Sys2Proof.Machine

/-- Bits [47:36] of an instruction: MAJOR, GINV, GPRED (R122). -/
def encHd (maj : BitVec 8) (h : Hd) : BitVec 12 := maj ++ b1 h.ginv ++ h.gpred

/-- Format A (R123). -/
def encA (maj minor : BitVec 8) (h : Hd) (f : FA) : BitVec 48 :=
  encHd maj h ++ f.dst ++ f.sa ++ f.sb ++ (0 : BitVec 12) ++ b1 f.s ++ minor

/-- Format I (R123). -/
def encI (maj : BitVec 8) (minor : BitVec 4) (h : Hd) (f : FI) : BitVec 48 :=
  encHd maj h ++ f.dst ++ f.sa ++ b1 f.s ++ minor ++ f.imm

/-- Format W (R123). -/
def encW (hi : Bool) (h : Hd) (f : FW) : BitVec 48 := encHd 0x03 h ++ f.dst ++ f.ty ++ b1 hi ++ f.imm

/-- Format P (R123). -/
def encP (minor : BitVec 8) (h : Hd) (f : FP) : BitVec 48 :=
  encHd 0x0C h ++ f.pd ++ (0 : BitVec 2) ++ f.sa ++ f.sb ++ f.tcode ++ (0 : BitVec 7) ++ minor

/-- Format PI (R123). -/
def encPI (minor : BitVec 4) (h : Hd) (f : FPI) : BitVec 48 := encHd 0x0D h ++ f.pd ++ f.sa ++ minor ++ f.imm

/-- Format PL (R123). -/
def encPL (minor : BitVec 8) (h : Hd) (f : FPL) : BitVec 48 :=
  encHd 0x0E h ++ f.pd ++ f.pa ++ f.pb ++ f.flag ++ (0 : BitVec 16) ++ minor

/-- Format BT (R123). -/
def encBT (bop : BitVec 3) (h : Hd) (f : FBT) : BitVec 48 :=
  encHd (if f.bitx then 0x11 else 0x10) h ++ f.pd ++ f.sa ++ bop ++ b1 f.ib ++ (0 : BitVec 16) ++ f.bitno

/-- Format M (R123). -/
def encM (maj : BitVec 8) (opx : BitVec 2) (h : Hd) (f : FM) : BitVec 48 := encHd maj h ++ f.data ++ f.adr ++ opx ++ f.disp

/-- Format MA (R123). -/
def encMA (opx : BitVec 2) (h : Hd) (f : FMA) : BitVec 48 := encHd 0x1A h ++ f.data ++ f.adr ++ opx ++ f.pd ++ f.disp

/-- Format B (R123). -/
def encB (maj : BitVec 8) (h : Hd) (f : FB) : BitVec 48 := encHd maj h ++ f.disp

/-- Format L (R123). -/
def encL (h : Hd) (f : FL) : BitVec 48 := encHd 0x23 h ++ f.cnt ++ (0 : BitVec 7) ++ f.len ++ f.icnt

/-- Format C (R123). -/
def encC (maj : BitVec 8) (h : Hd) (f : FC) : BitVec 48 := encHd maj h ++ f.dst ++ f.sa ++ (0 : BitVec 14) ++ f.crn

/-- Format X (R123). -/
def encX (maj : BitVec 8) (h : Hd) (f : FX) : BitVec 48 := encHd maj h ++ f.dst ++ f.sa ++ f.sb ++ f.func

/-- MAJOR of an instruction. -/
def iMajor (w : BitVec 48) : Nat := bits w.toNat 40 8

/-- The formats (R123). -/
inductive Fmt where
  | a | i | w | p | pi | pl | bt | m | ma | b | l | c | x
deriving DecidableEq, Repr

/-- The format of a major, none when the major is reserved (R132). -/
def fmtOf (maj : Nat) : Option Fmt :=
  match maj with
  | 0x01 | 0x08 | 0x0A | 0x1C | 0x1D | 0x1E | 0x22 | 0x2C | 0x2E | 0x30 | 0x38 => some .a
  | 0x02 | 0x09 => some .i
  | 0x03 => some .w
  | 0x0C => some .p
  | 0x0D => some .pi
  | 0x0E => some .pl
  | 0x10 | 0x11 => some .bt
  | 0x18 | 0x19 | 0x2D => some .m
  | 0x1A => some .ma
  | 0x20 | 0x21 => some .b
  | 0x23 => some .l
  | 0x28 | 0x29 => some .c
  | _ => if (0xF0 ≤ maj ∧ maj ≤ 0xF5) ∨ (0xF8 ≤ maj ∧ maj ≤ 0xFF) then some .x else none

/-- How a register field of a format A opcode is used: not at all, as a word register, as an f register (R125, R126). -/
inductive Use where
  | no | w | f
deriving DecidableEq, Repr

/-- Whether S may be 1, must be 1 or must be 0 (R127). -/
inductive SUse where
  | no | may | must
deriving DecidableEq, Repr

/-- A format A opcode: minor, the uses of DST, SA and SB, S, minimum level (R126, R133). -/
structure ARow where
  minor : Nat
  d : Use
  a : Use
  b : Use
  s : SUse := .no
  level : Nat := 0
deriving DecidableEq, Repr

/-- The format A opcodes of a major (R133, with the operand fields each operation reads). -/
def aRows (maj : Nat) : List ARow :=
  match maj with
  | 0x01 =>
    [⟨0x00, .w, .w, .no, .no, 0⟩, ⟨0x01, .w, .w, .w, .may, 0⟩, ⟨0x02, .w, .w, .w, .may, 0⟩, ⟨0x03, .w, .w, .w, .may, 0⟩,
     ⟨0x04, .w, .w, .w, .may, 0⟩, ⟨0x05, .w, .w, .no, .may, 0⟩, ⟨0x08, .w, .w, .w, .may, 0⟩, ⟨0x09, .w, .w, .w, .may, 0⟩,
     ⟨0x0A, .w, .w, .w, .may, 0⟩, ⟨0x10, .w, .w, .no, .no, 0⟩, ⟨0x11, .w, .w, .no, .no, 0⟩, ⟨0x12, .w, .w, .no, .no, 0⟩,
     ⟨0x13, .w, .w, .w, .no, 0⟩]
  | 0x08 =>
    [⟨0x00, .w, .w, .w, .may, 0⟩, ⟨0x01, .w, .w, .w, .may, 0⟩, ⟨0x02, .w, .w, .no, .may, 0⟩, ⟨0x10, .w, .w, .w, .no, 0⟩,
     ⟨0x11, .w, .w, .w, .no, 0⟩, ⟨0x12, .w, .w, .w, .no, 0⟩, ⟨0x13, .w, .w, .w, .no, 0⟩, ⟨0x14, .w, .w, .w, .no, 0⟩,
     ⟨0x15, .w, .w, .w, .no, 0⟩]
  | 0x0A => [⟨0x00, .w, .w, .w, .may, 0⟩, ⟨0x01, .w, .w, .w, .no, 0⟩]
  | 0x1C => [⟨0x00, .w, .w, .no, .no, 0⟩, ⟨0x01, .w, .w, .no, .no, 0⟩, ⟨0x02, .no, .w, .w, .no, 0⟩, ⟨0x03, .no, .w, .w, .no, 0⟩]
  | 0x1D =>
    [⟨0x00, .w, .w, .w, .no, 0⟩, ⟨0x01, .w, .w, .w, .no, 0⟩, ⟨0x02, .w, .w, .no, .no, 0⟩, ⟨0x03, .no, .w, .w, .no, 0⟩,
     ⟨0x04, .w, .w, .no, .no, 0⟩, ⟨0x05, .w, .w, .no, .no, 0⟩, ⟨0x06, .w, .w, .no, .no, 0⟩, ⟨0x07, .no, .w, .w, .no, 0⟩]
  | 0x1E => [⟨0x00, .w, .w, .w, .no, 0⟩, ⟨0x01, .w, .w, .w, .no, 0⟩, ⟨0x80, .w, .w, .w, .no, 0⟩, ⟨0x81, .w, .w, .w, .no, 0⟩]
  | 0x22 =>
    [⟨0x00, .no, .w, .no, .no, 0⟩, ⟨0x01, .no, .w, .no, .no, 0⟩, ⟨0x02, .no, .no, .no, .no, 0⟩, ⟨0x03, .no, .w, .w, .no, 0⟩,
     ⟨0x04, .no, .w, .no, .no, 0⟩]
  | 0x2C =>
    [⟨0x00, .no, .w, .no, .no, 0⟩, ⟨0x01, .no, .w, .no, .no, 1⟩, ⟨0x02, .no, .no, .no, .no, 0⟩, ⟨0x08, .no, .no, .no, .no, 0⟩,
     ⟨0x09, .no, .no, .no, .no, 0⟩, ⟨0x0A, .no, .no, .no, .no, 0⟩, ⟨0x10, .no, .w, .w, .no, 0⟩, ⟨0x11, .no, .w, .no, .no, 0⟩,
     ⟨0x12, .no, .no, .no, .no, 0⟩, ⟨0x13, .no, .w, .w, .no, 0⟩]
  | 0x2E =>
    [⟨0x00, .no, .w, .w, .no, 1⟩, ⟨0x10, .no, .w, .w, .no, 1⟩, ⟨0x11, .no, .w, .w, .no, 1⟩, ⟨0x12, .no, .w, .w, .no, 1⟩,
     ⟨0x13, .no, .w, .w, .no, 1⟩, ⟨0x14, .w, .w, .no, .no, 1⟩]
  | 0x30 =>
    [⟨0x00, .f, .f, .f, .no, 0⟩, ⟨0x01, .f, .f, .f, .no, 0⟩, ⟨0x02, .f, .f, .f, .no, 0⟩, ⟨0x03, .f, .f, .f, .no, 0⟩,
     ⟨0x04, .f, .f, .f, .no, 0⟩, ⟨0x05, .f, .f, .f, .no, 0⟩, ⟨0x06, .f, .f, .no, .no, 0⟩, ⟨0x07, .f, .f, .no, .no, 0⟩,
     ⟨0x08, .f, .f, .no, .no, 0⟩, ⟨0x09, .f, .f, .no, .no, 0⟩, ⟨0x10, .no, .f, .f, .must, 0⟩, ⟨0x20, .f, .w, .no, .no, 0⟩,
     ⟨0x21, .w, .f, .no, .no, 0⟩, ⟨0x22, .w, .f, .no, .no, 0⟩]
  | 0x38 =>
    [⟨0x00, .w, .w, .w, .no, 0⟩, ⟨0x01, .w, .w, .w, .no, 0⟩, ⟨0x02, .w, .w, .w, .no, 0⟩, ⟨0x08, .w, .w, .w, .no, 0⟩,
     ⟨0x09, .w, .w, .w, .no, 0⟩, ⟨0x0A, .w, .w, .w, .no, 0⟩, ⟨0x0B, .w, .w, .no, .no, 0⟩, ⟨0x10, .w, .w, .w, .no, 0⟩]
  | _ => []

/-- A register field fits its use. -/
def useOk (u : Use) (r : Nat) : Bool :=
  match u with
  | .no => decide (r = 0)
  | .w => true
  | .f => decide (r < 16)

/-- The row of a format A instruction. -/
def aRow (w : BitVec 48) : Option ARow := (aRows (iMajor w)).find? fun r => r.minor = bits w.toNat 0 8

/-- The instruction is a defined encoding, not one that R145 reserves; `routes` are the enabled customer majors (R139). -/
def encOk (w : BitVec 48) (routes : BitVec 8) : Bool :=
  let n := w.toNat
  let maj := iMajor w
  match fmtOf maj with
  | none => false
  | some .a =>
    match aRow w with
    | none => false
    | some r =>
      useOk r.d (bits n 31 5) && useOk r.a (bits n 26 5) && useOk r.b (bits n 21 5) && decide (bits n 9 12 = 0) &&
        (match r.s with
         | .no => !bitN n 8
         | .may => true
         | .must => bitN n 8)
  | some .i =>
    let m := bits n 21 4
    if maj = 0x02 then decide (m ≤ 5) && (decide (m < 3) || decide (bits n 0 21 ≤ 47)) else decide (m ≤ 1)
  | some .w =>
    let t := bits n 26 5
    if bitN n 25 then decide (t = 0) && !bitN n 24 else decide (t ≤ 8) || decide (t = 0x10)
  | some .p =>
    let m := bits n 0 8
    decide (bits n 31 2 = 0) && decide (bits n 8 7 = 0) &&
      (if m ≤ 6 then decide (bits n 15 6 = 0)
       else if m = 0x10 then decide (bits n 21 5 = 0)
       else decide (0x11 ≤ m) && decide (m ≤ 0x14) && decide (bits n 21 5 = 0) && decide (bits n 15 6 = 0))
  | some .pi => decide (bits n 24 4 ≤ 6)
  | some .pl =>
    let m := bits n 0 8
    decide (bits n 8 16 = 0) &&
      (if m ≤ 3 then decide (bits n 24 3 = 0)
       else if m ≤ 5 then decide (bits n 24 3 = 0) && decide (bits n 27 3 = 0)
       else decide (m = 0x10) && decide (bits n 24 3 ≤ 4) && decide (bits n 27 6 = 0))
  | some .bt =>
    let op := bits n 25 3
    decide (op ≤ 4) && decide (bits n 8 16 = 0) && (decide (op ≠ 2 ∧ op ≠ 3) || decide (bits n 33 3 = 0)) &&
      (if maj = 0x10 then (if bitN n 24 then decide (bits n 28 5 = 0) else decide (bits n 0 8 = 0))
       else !bitN n 24 && decide (bits n 0 8 = 0))
  | some .m => if maj = 0x2D then decide (bits n 31 5 = 0) else decide (bits n 24 2 = 0)
  | some .ma =>
    let x := bits n 24 2
    if x = 1 then decide (bits n 21 3 ≠ 0) else decide (x ≠ 3) && decide (bits n 21 3 = 0)
  | some .b => true
  | some .l => decide (bits n 24 7 = 0) && decide (bits n 12 12 ≠ 0) && (decide (bits n 31 5 = 0) || decide (bits n 0 12 = 0))
  | some .c => decide (bits n 12 14 = 0) && (if maj = 0x28 then decide (bits n 26 5 = 0) else decide (bits n 31 5 = 0))
  | some .x =>
    if maj ≤ 0xF3 then
      decide (bits n 0 11 = 0) && (decide (maj = 0xF1) || decide (bits n 11 5 = 0)) &&
        (if maj = 0xF3 then decide (bits n 21 5 = 0)
         else (!bitN n 17 || decide (bits n 26 5 = 0)) && (!bitN n 16 || decide (bits n 21 5 = 0)))
    else if maj ≤ 0xF5 then decide (bits n 0 18 = 0) && decide (bits n 21 5 = 0)
    else bitN routes.toNat (maj - 0xF8)

/-- The minimum level of an instruction (R132, R133). -/
def minLevel (w : BitVec 48) : Nat :=
  let maj := iMajor w
  if maj = 0xF4 ∨ maj = 0xF5 then 1
  else match aRow w with
    | some r => r.level
    | none => 0

/-- MINOR as DISPINFO and the micro-state record give it: the minor field zero-extended, 0 without one (R124, R154). -/
def iMinor (w : BitVec 48) : BitVec 8 :=
  let n := w.toNat
  BitVec.ofNat 8 (match fmtOf (iMajor w) with
    | some .a | some .p | some .pl => bits n 0 8
    | some .i => bits n 21 4
    | some .pi => bits n 24 4
    | some .w => bits n 25 1
    | some .bt => bits n 25 3
    | some .m | some .ma => bits n 24 2
    | _ => 0)

/-- DPRED and DREG of DISPINFO (R154): the DST field as encoded, or PD for a form that lands only a predicate. SC lands only
its predicate; of the bit forms, BGET and BTAS do. -/
def dispDst (w : BitVec 48) : Bool × BitVec 5 :=
  let n := w.toNat
  match fmtOf (iMajor w) with
  | some .p | some .pi | some .pl | some .bt => (true, BitVec.ofNat 5 (bits n 33 3))
  | some .ma => if bits n 24 2 = 1 then (true, BitVec.ofNat 5 (bits n 21 3)) else (false, BitVec.ofNat 5 (bits n 31 5))
  | some .b | some .l => (false, 0)
  | _ => (false, BitVec.ofNat 5 (bits n 31 5))

/-- The instruction reads SB: its format has the field (R123). -/
def hasSb (w : BitVec 48) : Bool :=
  match fmtOf (iMajor w) with
  | some .a | some .p | some .x => true
  | _ => false

/-- DISPINFO for an instruction, a REASON and the two type codes; TYPEB is 0 where the instruction reads no SB (R154). -/
def dispInfo (w : BitVec 48) (reason : BitVec 2) (ta tb : BitVec 6) : Datum :=
  let d := dispDst w
  let tb := if hasSb w then tb else 0
  BitVec.ofNat 8 (iMajor w) ++ iMinor w ++ b1 d.1 ++ d.2 ++ reason ++ ta ++ tb ++ (0 : BitVec 12)

end Sys2Proof.Machine
end

