-- ==== Sys2Proof/Decode.lean ====
section
/-! DEFINITION. The command a word spells by the bits of the opcode table, of which there are none; and the instruction words of the
instruction commands (R122 to R147), both ways. -/

namespace Sys2Proof

open Sys2Proof.Machine

/-- No row of the table has bits, so no word spells a command. -/
def decodeTableWord (_nbits _w : Nat) : Option Instr := none

/-! ## Instruction words -/

/-- The 48-bit word of an instruction command (R123, R132 to R147), none for the other commands. -/
def encodeWord (i : Instr) : Option (BitVec 48) :=
  match i with
  | .mov h f => some (encA 0x01 0x00 h f)
  | .and h f => some (encA 0x01 0x01 h f)
  | .or h f => some (encA 0x01 0x02 h f)
  | .xor h f => some (encA 0x01 0x03 h f)
  | .andn h f => some (encA 0x01 0x04 h f)
  | .not h f => some (encA 0x01 0x05 h f)
  | .shl h f => some (encA 0x01 0x08 h f)
  | .shr h f => some (encA 0x01 0x09 h f)
  | .sar h f => some (encA 0x01 0x0A h f)
  | .andi h f => some (encI 0x02 0 h f)
  | .ori h f => some (encI 0x02 1 h f)
  | .xori h f => some (encI 0x02 2 h f)
  | .shli h f => some (encI 0x02 3 h f)
  | .shri h f => some (encI 0x02 4 h f)
  | .sari h f => some (encI 0x02 5 h f)
  | .typeof h f => some (encA 0x01 0x10 h f)
  | .colourof h f => some (encA 0x01 0x11 h f)
  | .datumof h f => some (encA 0x01 0x12 h f)
  | .settype h f => some (encA 0x01 0x13 h f)
  | .ldi h f => some (encW false h f)
  | .ldih h f => some (encW true h f)
  | .add h f => some (encA 0x08 0x00 h f)
  | .sub h f => some (encA 0x08 0x01 h f)
  | .neg h f => some (encA 0x08 0x02 h f)
  | .addi h f => some (encI 0x09 0 h f)
  | .subi h f => some (encI 0x09 1 h f)
  | .mul h f => some (encA 0x0A 0x00 h f)
  | .mulh h f => some (encA 0x0A 0x01 h f)
  | .eq h f => some (encA 0x08 0x10 h f)
  | .eql h f => some (encA 0x08 0x11 h f)
  | .lt h f => some (encA 0x08 0x12 h f)
  | .le h f => some (encA 0x08 0x13 h f)
  | .gt h f => some (encA 0x08 0x14 h f)
  | .ge h f => some (encA 0x08 0x15 h f)
  | .cmpeq h f => some (encP 0x00 h f)
  | .cmpne h f => some (encP 0x01 h f)
  | .cmpeql h f => some (encP 0x02 h f)
  | .cmplt h f => some (encP 0x03 h f)
  | .cmple h f => some (encP 0x04 h f)
  | .cmpgt h f => some (encP 0x05 h f)
  | .cmpge h f => some (encP 0x06 h f)
  | .cmpeqi h f => some (encPI 0 h f)
  | .cmpnei h f => some (encPI 1 h f)
  | .cmpeqli h f => some (encPI 2 h f)
  | .cmplti h f => some (encPI 3 h f)
  | .cmplei h f => some (encPI 4 h f)
  | .cmpgti h f => some (encPI 5 h f)
  | .cmpgei h f => some (encPI 6 h f)
  | .ttype h f => some (encP 0x10 h f)
  | .tptr h f => some (encP 0x11 h f)
  | .timm h f => some (encP 0x12 h f)
  | .tlist h f => some (encP 0x13 h f)
  | .tnum h f => some (encP 0x14 h f)
  | .pand h f => some (encPL 0x00 h f)
  | .por h f => some (encPL 0x01 h f)
  | .pxor h f => some (encPL 0x02 h f)
  | .pandn h f => some (encPL 0x03 h f)
  | .pnot h f => some (encPL 0x04 h f)
  | .pmov h f => some (encPL 0x05 h f)
  | .pflag h f => some (encPL 0x10 h f)
  | .bget h f => some (encBT 0 h f)
  | .bput h f => some (encBT 1 h f)
  | .bset h f => some (encBT 2 h f)
  | .bclr h f => some (encBT 3 h f)
  | .btas h f => some (encBT 4 h f)
  | .ld h f => some (encM 0x18 0 h f)
  | .st h f => some (encM 0x19 0 h f)
  | .lr h f => some (encMA 0 h f)
  | .sc h f => some (encMA 1 h f)
  | .tas h f => some (encMA 2 h f)
  | .car h f => some (encA 0x1C 0x00 h f)
  | .cdr h f => some (encA 0x1C 0x01 h f)
  | .setcar h f => some (encA 0x1C 0x02 h f)
  | .setcdr h f => some (encA 0x1C 0x03 h f)
  | .vref h f => some (encA 0x1D 0x00 h f)
  | .vset h f => some (encA 0x1D 0x01 h f)
  | .ldloc h f => some (encA 0x1D 0x02 h f)
  | .stloc h f => some (encA 0x1D 0x03 h f)
  | .hlen h f => some (encA 0x1D 0x04 h f)
  | .symval h f => some (encA 0x1D 0x05 h f)
  | .symfn h f => some (encA 0x1D 0x06 h f)
  | .setsymval h f => some (encA 0x1D 0x07 h f)
  | .cons h f => some (encA 0x1E 0x00 h f)
  | .alloc h f => some (encA 0x1E 0x01 h f)
  | .consI h f => some (encA 0x1E 0x80 h f)
  | .allocI h f => some (encA 0x1E 0x81 h f)
  | .br h f => some (encB 0x20 h f)
  | .call h f => some (encB 0x21 h f)
  | .jr h f => some (encA 0x22 0x00 h f)
  | .callr h f => some (encA 0x22 0x01 h f)
  | .ret h f => some (encA 0x22 0x02 h f)
  | .tcall h f => some (encA 0x22 0x03 h f)
  | .fcall h f => some (encA 0x22 0x04 h f)
  | .loop h f => some (encL h f)
  | .crd h f => some (encC 0x28 h f)
  | .cwr h f => some (encC 0x29 h f)
  | .tbLoRead h f => some (encC 0x28 h { f with crn := 0x3C0 })
  | .svc h f => some (encA 0x2C 0x00 h f)
  | .bkpt h f => some (encA 0x2C 0x02 h f)
  | .eret h f => some (encA 0x2C 0x01 h f)
  | .lbar h f => some (encA 0x2C 0x08 h f)
  | .sbar h f => some (encA 0x2C 0x09 h f)
  | .fbar h f => some (encA 0x2C 0x0A h f)
  | .waitb h f => some (encA 0x2C 0x10 h f)
  | .waitt h f => some (encA 0x2C 0x11 h f)
  | .yield h f => some (encA 0x2C 0x12 h f)
  | .send h f => some (encA 0x2C 0x13 h f)
  | .zline h f => some (encM 0x2D 0 h f)
  | .clean h f => some (encM 0x2D 1 h f)
  | .flush h f => some (encM 0x2D 2 h f)
  | .pref h f => some (encM 0x2D 3 h f)
  | .inval h f => some (encA 0x2E 0x00 h f)
  | .tlbw h f => some (encA 0x2E 0x10 h f)
  | .tlbinv h f => some (encA 0x2E 0x11 h f)
  | .tlbinvs h f => some (encA 0x2E 0x12 h f)
  | .tlblk h f => some (encA 0x2E 0x13 h f)
  | .tlbrd h f => some (encA 0x2E 0x14 h f)
  | .fadd h f => some (encA 0x30 0x00 h f)
  | .fsub h f => some (encA 0x30 0x01 h f)
  | .fmul h f => some (encA 0x30 0x02 h f)
  | .fdiv h f => some (encA 0x30 0x03 h f)
  | .fmin h f => some (encA 0x30 0x04 h f)
  | .fmax h f => some (encA 0x30 0x05 h f)
  | .fneg h f => some (encA 0x30 0x06 h f)
  | .fabs h f => some (encA 0x30 0x07 h f)
  | .fmov h f => some (encA 0x30 0x08 h f)
  | .fsqrt h f => some (encA 0x30 0x09 h f)
  | .fcmp h f => some (encA 0x30 0x10 h f)
  | .ffromw h f => some (encA 0x30 0x20 h f)
  | .ftof32 h f => some (encA 0x30 0x21 h f)
  | .ftofix h f => some (encA 0x30 0x22 h f)
  | .quo h f => some (encA 0x38 0x00 h f)
  | .rem h f => some (encA 0x38 0x01 h f)
  | .mod h f => some (encA 0x38 0x02 h f)
  | .memq h f => some (encA 0x38 0x08 h f)
  | .assq h f => some (encA 0x38 0x09 h f)
  | .memv h f => some (encA 0x38 0x0A h f)
  | .length h f => some (encA 0x38 0x0B h f)
  | .typev h f => some (encA 0x38 0x10 h f)
  | .cprobe h f => some (encX 0xF0 h f)
  | .cins h f => some (encX 0xF1 h f)
  | .cdel h f => some (encX 0xF2 h f)
  | .cscan h f => some (encX 0xF3 h f)
  | .rsub h f => some (encX 0xF4 h f)
  | .rstat h f => some (encX 0xF5 h f)
  | .extn h n f => some (encX ((0xF8 : BitVec 8) + n.setWidth 8) h f)
  | _ => none

/-- The issuing context and the guard of an instruction command, none for the other commands. -/
def headOf (i : Instr) : Option Hd :=
  match i with
  | .mov h _ => some h
  | .and h _ => some h
  | .or h _ => some h
  | .xor h _ => some h
  | .andn h _ => some h
  | .not h _ => some h
  | .shl h _ => some h
  | .shr h _ => some h
  | .sar h _ => some h
  | .andi h _ => some h
  | .ori h _ => some h
  | .xori h _ => some h
  | .shli h _ => some h
  | .shri h _ => some h
  | .sari h _ => some h
  | .typeof h _ => some h
  | .colourof h _ => some h
  | .datumof h _ => some h
  | .settype h _ => some h
  | .ldi h _ => some h
  | .ldih h _ => some h
  | .add h _ => some h
  | .sub h _ => some h
  | .neg h _ => some h
  | .addi h _ => some h
  | .subi h _ => some h
  | .mul h _ => some h
  | .mulh h _ => some h
  | .eq h _ => some h
  | .eql h _ => some h
  | .lt h _ => some h
  | .le h _ => some h
  | .gt h _ => some h
  | .ge h _ => some h
  | .cmpeq h _ => some h
  | .cmpne h _ => some h
  | .cmpeql h _ => some h
  | .cmplt h _ => some h
  | .cmple h _ => some h
  | .cmpgt h _ => some h
  | .cmpge h _ => some h
  | .cmpeqi h _ => some h
  | .cmpnei h _ => some h
  | .cmpeqli h _ => some h
  | .cmplti h _ => some h
  | .cmplei h _ => some h
  | .cmpgti h _ => some h
  | .cmpgei h _ => some h
  | .ttype h _ => some h
  | .tptr h _ => some h
  | .timm h _ => some h
  | .tlist h _ => some h
  | .tnum h _ => some h
  | .pand h _ => some h
  | .por h _ => some h
  | .pxor h _ => some h
  | .pandn h _ => some h
  | .pnot h _ => some h
  | .pmov h _ => some h
  | .pflag h _ => some h
  | .bget h _ => some h
  | .bput h _ => some h
  | .bset h _ => some h
  | .bclr h _ => some h
  | .btas h _ => some h
  | .ld h _ => some h
  | .st h _ => some h
  | .lr h _ => some h
  | .sc h _ => some h
  | .tas h _ => some h
  | .car h _ => some h
  | .cdr h _ => some h
  | .setcar h _ => some h
  | .setcdr h _ => some h
  | .vref h _ => some h
  | .vset h _ => some h
  | .ldloc h _ => some h
  | .stloc h _ => some h
  | .hlen h _ => some h
  | .symval h _ => some h
  | .symfn h _ => some h
  | .setsymval h _ => some h
  | .cons h _ => some h
  | .alloc h _ => some h
  | .consI h _ => some h
  | .allocI h _ => some h
  | .br h _ => some h
  | .call h _ => some h
  | .jr h _ => some h
  | .callr h _ => some h
  | .ret h _ => some h
  | .tcall h _ => some h
  | .fcall h _ => some h
  | .loop h _ => some h
  | .crd h _ => some h
  | .cwr h _ => some h
  | .tbLoRead h _ => some h
  | .svc h _ => some h
  | .bkpt h _ => some h
  | .eret h _ => some h
  | .lbar h _ => some h
  | .sbar h _ => some h
  | .fbar h _ => some h
  | .waitb h _ => some h
  | .waitt h _ => some h
  | .yield h _ => some h
  | .send h _ => some h
  | .zline h _ => some h
  | .clean h _ => some h
  | .flush h _ => some h
  | .pref h _ => some h
  | .inval h _ => some h
  | .tlbw h _ => some h
  | .tlbinv h _ => some h
  | .tlbinvs h _ => some h
  | .tlblk h _ => some h
  | .tlbrd h _ => some h
  | .fadd h _ => some h
  | .fsub h _ => some h
  | .fmul h _ => some h
  | .fdiv h _ => some h
  | .fmin h _ => some h
  | .fmax h _ => some h
  | .fneg h _ => some h
  | .fabs h _ => some h
  | .fmov h _ => some h
  | .fsqrt h _ => some h
  | .fcmp h _ => some h
  | .ffromw h _ => some h
  | .ftof32 h _ => some h
  | .ftofix h _ => some h
  | .quo h _ => some h
  | .rem h _ => some h
  | .mod h _ => some h
  | .memq h _ => some h
  | .assq h _ => some h
  | .memv h _ => some h
  | .length h _ => some h
  | .typev h _ => some h
  | .cprobe h _ => some h
  | .cins h _ => some h
  | .cdel h _ => some h
  | .cscan h _ => some h
  | .rsub h _ => some h
  | .rstat h _ => some h
  | .extn h _ _ => some h
  | _ => none

/-- The guard fields of a word (R122), for a context. -/
def wordHd (c : CtxId) (w : BitVec 48) : Hd := { ctx := c, ginv := w.getLsbD 39, gpred := w.extractLsb' 36 3 }

/-- The fields of format A (R123). -/
def wordA (w : BitVec 48) : FA :=
  { dst := w.extractLsb' 31 5, sa := w.extractLsb' 26 5, sb := w.extractLsb' 21 5, s := w.getLsbD 8 }

/-- The fields of format I (R123). -/
def wordI (w : BitVec 48) : FI :=
  { dst := w.extractLsb' 31 5, sa := w.extractLsb' 26 5, s := w.getLsbD 25, imm := w.extractLsb' 0 21 }

/-- The fields of format W (R123). -/
def wordW (w : BitVec 48) : FW := { dst := w.extractLsb' 31 5, ty := w.extractLsb' 26 5, imm := w.extractLsb' 0 25 }

/-- The fields of format P (R123). -/
def wordP (w : BitVec 48) : FP :=
  { pd := w.extractLsb' 33 3, sa := w.extractLsb' 26 5, sb := w.extractLsb' 21 5, tcode := w.extractLsb' 15 6 }

/-- The fields of format PI (R123). -/
def wordPI (w : BitVec 48) : FPI := { pd := w.extractLsb' 33 3, sa := w.extractLsb' 28 5, imm := w.extractLsb' 0 24 }

/-- The fields of format PL (R123). -/
def wordPL (w : BitVec 48) : FPL :=
  { pd := w.extractLsb' 33 3, pa := w.extractLsb' 30 3, pb := w.extractLsb' 27 3, flag := w.extractLsb' 24 3 }

/-- The fields of format BT (R123). -/
def wordBT (w : BitVec 48) : FBT :=
  { bitx := w.getLsbD 40, pd := w.extractLsb' 33 3, sa := w.extractLsb' 28 5, ib := w.getLsbD 24, bitno := w.extractLsb' 0 8 }

/-- The fields of format M (R123). -/
def wordM (w : BitVec 48) : FM := { data := w.extractLsb' 31 5, adr := w.extractLsb' 26 5, disp := w.extractLsb' 0 24 }

/-- The fields of format MA (R123). -/
def wordMA (w : BitVec 48) : FMA :=
  { data := w.extractLsb' 31 5, adr := w.extractLsb' 26 5, pd := w.extractLsb' 21 3, disp := w.extractLsb' 0 21 }

/-- The field of format B (R123). -/
def wordB (w : BitVec 48) : FB := { disp := w.extractLsb' 0 36 }

/-- The fields of format L (R123). -/
def wordL (w : BitVec 48) : FL := { cnt := w.extractLsb' 31 5, len := w.extractLsb' 12 12, icnt := w.extractLsb' 0 12 }

/-- The fields of format C (R123). -/
def wordC (w : BitVec 48) : FC := { dst := w.extractLsb' 31 5, sa := w.extractLsb' 26 5, crn := w.extractLsb' 0 12 }

/-- The fields of format X (R123). -/
def wordX (w : BitVec 48) : FX :=
  { dst := w.extractLsb' 31 5, sa := w.extractLsb' 26 5, sb := w.extractLsb' 21 5, func := w.extractLsb' 0 21 }

/-- An opcode: its format and the numbers that select it beside it, and the instruction (R132 to R138). -/
structure Opc (F : Type) where
  major : Nat
  minor : Nat
  make : Hd → F → Instr

/-- The opcodes of format A. -/
def opcodesA : List (Opc FA) :=
  [⟨0x01, 0x00, .mov⟩, ⟨0x01, 0x01, .and⟩, ⟨0x01, 0x02, .or⟩, ⟨0x01, 0x03, .xor⟩, ⟨0x01, 0x04, .andn⟩, ⟨0x01, 0x05, .not⟩] ++
  [⟨0x01, 0x08, .shl⟩, ⟨0x01, 0x09, .shr⟩, ⟨0x01, 0x0A, .sar⟩, ⟨0x01, 0x10, .typeof⟩, ⟨0x01, 0x11, .colourof⟩, ⟨0x01, 0x12, .datumof⟩] ++
  [⟨0x01, 0x13, .settype⟩, ⟨0x08, 0x00, .add⟩, ⟨0x08, 0x01, .sub⟩, ⟨0x08, 0x02, .neg⟩, ⟨0x08, 0x10, .eq⟩, ⟨0x08, 0x11, .eql⟩] ++
  [⟨0x08, 0x12, .lt⟩, ⟨0x08, 0x13, .le⟩, ⟨0x08, 0x14, .gt⟩, ⟨0x08, 0x15, .ge⟩, ⟨0x0A, 0x00, .mul⟩, ⟨0x0A, 0x01, .mulh⟩] ++
  [⟨0x1C, 0x00, .car⟩, ⟨0x1C, 0x01, .cdr⟩, ⟨0x1C, 0x02, .setcar⟩, ⟨0x1C, 0x03, .setcdr⟩, ⟨0x1D, 0x00, .vref⟩, ⟨0x1D, 0x01, .vset⟩] ++
  [⟨0x1D, 0x02, .ldloc⟩, ⟨0x1D, 0x03, .stloc⟩, ⟨0x1D, 0x04, .hlen⟩, ⟨0x1D, 0x05, .symval⟩, ⟨0x1D, 0x06, .symfn⟩, ⟨0x1D, 0x07, .setsymval⟩] ++
  [⟨0x1E, 0x00, .cons⟩, ⟨0x1E, 0x01, .alloc⟩, ⟨0x1E, 0x80, .consI⟩, ⟨0x1E, 0x81, .allocI⟩, ⟨0x22, 0x00, .jr⟩, ⟨0x22, 0x01, .callr⟩] ++
  [⟨0x22, 0x02, .ret⟩, ⟨0x22, 0x03, .tcall⟩, ⟨0x22, 0x04, .fcall⟩, ⟨0x2C, 0x00, .svc⟩, ⟨0x2C, 0x01, .eret⟩, ⟨0x2C, 0x02, .bkpt⟩] ++
  [⟨0x2C, 0x08, .lbar⟩, ⟨0x2C, 0x09, .sbar⟩, ⟨0x2C, 0x0A, .fbar⟩, ⟨0x2C, 0x10, .waitb⟩, ⟨0x2C, 0x11, .waitt⟩, ⟨0x2C, 0x12, .yield⟩] ++
  [⟨0x2C, 0x13, .send⟩, ⟨0x2E, 0x00, .inval⟩, ⟨0x2E, 0x10, .tlbw⟩, ⟨0x2E, 0x11, .tlbinv⟩, ⟨0x2E, 0x12, .tlbinvs⟩, ⟨0x2E, 0x13, .tlblk⟩] ++
  [⟨0x2E, 0x14, .tlbrd⟩, ⟨0x30, 0x00, .fadd⟩, ⟨0x30, 0x01, .fsub⟩, ⟨0x30, 0x02, .fmul⟩, ⟨0x30, 0x03, .fdiv⟩, ⟨0x30, 0x04, .fmin⟩] ++
  [⟨0x30, 0x05, .fmax⟩, ⟨0x30, 0x06, .fneg⟩, ⟨0x30, 0x07, .fabs⟩, ⟨0x30, 0x08, .fmov⟩, ⟨0x30, 0x09, .fsqrt⟩, ⟨0x30, 0x10, .fcmp⟩] ++
  [⟨0x30, 0x20, .ffromw⟩, ⟨0x30, 0x21, .ftof32⟩, ⟨0x30, 0x22, .ftofix⟩, ⟨0x38, 0x00, .quo⟩, ⟨0x38, 0x01, .rem⟩, ⟨0x38, 0x02, .mod⟩] ++
  [⟨0x38, 0x08, .memq⟩, ⟨0x38, 0x09, .assq⟩, ⟨0x38, 0x0A, .memv⟩, ⟨0x38, 0x0B, .length⟩, ⟨0x38, 0x10, .typev⟩]

/-- The opcodes of format I. -/
def opcodesI : List (Opc FI) :=
  [⟨0x02, 0x00, .andi⟩, ⟨0x02, 0x01, .ori⟩, ⟨0x02, 0x02, .xori⟩, ⟨0x02, 0x03, .shli⟩, ⟨0x02, 0x04, .shri⟩, ⟨0x02, 0x05, .sari⟩] ++
  [⟨0x09, 0x00, .addi⟩, ⟨0x09, 0x01, .subi⟩]

/-- The opcodes of format W. -/
def opcodesW : List (Opc FW) :=
  [⟨0x03, 0x00, .ldi⟩, ⟨0x03, 0x01, .ldih⟩]

/-- The opcodes of format P. -/
def opcodesP : List (Opc FP) :=
  [⟨0x0C, 0x00, .cmpeq⟩, ⟨0x0C, 0x01, .cmpne⟩, ⟨0x0C, 0x02, .cmpeql⟩, ⟨0x0C, 0x03, .cmplt⟩, ⟨0x0C, 0x04, .cmple⟩, ⟨0x0C, 0x05, .cmpgt⟩] ++
  [⟨0x0C, 0x06, .cmpge⟩, ⟨0x0C, 0x10, .ttype⟩, ⟨0x0C, 0x11, .tptr⟩, ⟨0x0C, 0x12, .timm⟩, ⟨0x0C, 0x13, .tlist⟩, ⟨0x0C, 0x14, .tnum⟩]

/-- The opcodes of format PI. -/
def opcodesPI : List (Opc FPI) :=
  [⟨0x0D, 0x00, .cmpeqi⟩, ⟨0x0D, 0x01, .cmpnei⟩, ⟨0x0D, 0x02, .cmpeqli⟩, ⟨0x0D, 0x03, .cmplti⟩, ⟨0x0D, 0x04, .cmplei⟩, ⟨0x0D, 0x05, .cmpgti⟩] ++
  [⟨0x0D, 0x06, .cmpgei⟩]

/-- The opcodes of format PL. -/
def opcodesPL : List (Opc FPL) :=
  [⟨0x0E, 0x00, .pand⟩, ⟨0x0E, 0x01, .por⟩, ⟨0x0E, 0x02, .pxor⟩, ⟨0x0E, 0x03, .pandn⟩, ⟨0x0E, 0x04, .pnot⟩, ⟨0x0E, 0x05, .pmov⟩] ++
  [⟨0x0E, 0x10, .pflag⟩]

/-- The opcodes of format BT. -/
def opcodesBT : List (Opc FBT) :=
  [⟨0x10, 0x00, .bget⟩, ⟨0x10, 0x01, .bput⟩, ⟨0x10, 0x02, .bset⟩, ⟨0x10, 0x03, .bclr⟩, ⟨0x10, 0x04, .btas⟩]

/-- The opcodes of format M. -/
def opcodesM : List (Opc FM) :=
  [⟨0x18, 0x00, .ld⟩, ⟨0x19, 0x00, .st⟩, ⟨0x2D, 0x00, .zline⟩, ⟨0x2D, 0x01, .clean⟩, ⟨0x2D, 0x02, .flush⟩, ⟨0x2D, 0x03, .pref⟩]

/-- The opcodes of format MA. -/
def opcodesMA : List (Opc FMA) :=
  [⟨0x1A, 0x00, .lr⟩, ⟨0x1A, 0x01, .sc⟩, ⟨0x1A, 0x02, .tas⟩]

/-- The opcodes of format B. -/
def opcodesB : List (Opc FB) :=
  [⟨0x20, 0x00, .br⟩, ⟨0x21, 0x00, .call⟩]

/-- The opcodes of format L. -/
def opcodesL : List (Opc FL) :=
  [⟨0x23, 0x00, .loop⟩]

/-- The opcodes of format C. -/
def opcodesC : List (Opc FC) :=
  [⟨0x28, 0x00, .crd⟩, ⟨0x29, 0x00, .cwr⟩]

/-- The opcodes of format X. -/
def opcodesX : List (Opc FX) :=
  [⟨0xF0, 0x00, .cprobe⟩, ⟨0xF1, 0x00, .cins⟩, ⟨0xF2, 0x00, .cdel⟩, ⟨0xF3, 0x00, .cscan⟩, ⟨0xF4, 0x00, .rsub⟩, ⟨0xF5, 0x00, .rstat⟩]

/-- The instruction that a list of opcodes gives for a major, a minor and fields. -/
def pickOpc {F : Type} (l : List (Opc F)) (major minor : Nat) (h : Hd) (f : F) : Option Instr :=
  (l.find? fun o => decide (o.major = major ∧ o.minor = minor)).map fun o => o.make h f

/-- The instruction command that a context issues on a word: none where the word is a reserved encoding (R145) while every customer major
is routed. A read of TB_LO is the command of its own row (R615). -/
def decodeWord (c : CtxId) (w : BitVec 48) : Option Instr :=
  let h := wordHd c w
  let maj := (w.extractLsb' 40 8).toNat
  if !encOk w 0xFF then none
  else match fmtOf maj with
    | none => none
    | some .a => pickOpc opcodesA maj (w.extractLsb' 0 8).toNat h (wordA w)
    | some .i => pickOpc opcodesI maj (w.extractLsb' 21 4).toNat h (wordI w)
    | some .w => pickOpc opcodesW maj (w.extractLsb' 25 1).toNat h (wordW w)
    | some .p => pickOpc opcodesP maj (w.extractLsb' 0 8).toNat h (wordP w)
    | some .pi => pickOpc opcodesPI maj (w.extractLsb' 24 4).toNat h (wordPI w)
    | some .pl => pickOpc opcodesPL maj (w.extractLsb' 0 8).toNat h (wordPL w)
    | some .bt => pickOpc opcodesBT 0x10 (w.extractLsb' 25 3).toNat h (wordBT w)
    | some .m => pickOpc opcodesM maj (w.extractLsb' 24 2).toNat h (wordM w)
    | some .ma => pickOpc opcodesMA maj (w.extractLsb' 24 2).toNat h (wordMA w)
    | some .b => pickOpc opcodesB maj 0 h (wordB w)
    | some .l => pickOpc opcodesL maj 0 h (wordL w)
    | some .c => if maj = 0x28 ∧ w.extractLsb' 0 12 = 0x3C0 then some (.tbLoRead h (wordC w)) else pickOpc opcodesC maj 0 h (wordC w)
    | some .x => if maj ≥ 0xF8 then some (.extn h (w.extractLsb' 40 3) (wordX w)) else pickOpc opcodesX maj 0 h (wordX w)

end Sys2Proof
end

