-- ==== Sys2Proof/Machine/Objs.lean ====
section
/-! DEFINITION. The objects of the dictionary: which exist, their sizes, access, persistence class and defaults (R633, R657 to R668,
R693, R703). -/

namespace Sys2Proof.Machine

/-- Access codes of dictionary objects (R7, R659). -/
inductive OAcc where
  | const | ro | rw | wo | rc
deriving DecidableEq, Repr

/-- An object: its size in bytes, 0 when it varies; its access; whether it is P class (R667). -/
structure OInfo where
  sz : Nat
  acc : OAcc
  p : Bool := false
deriving DecidableEq, Repr

/-- The offsets of a hank block that R557 defines, as register numbers of 8 bytes. -/
def hankRegDefined (n : Nat) : Bool := decide (n ≤ 0x0C) || decide (0x10 ≤ n ∧ n ≤ 0x1C) || decide (0x20 ≤ n ∧ n ≤ 0x22) || decide (0x30 ≤ n ∧ n ≤ 0x32)

/-- The access of a hank register (R557). -/
def hankRegAcc (n : Nat) : OAcc :=
  if n = 0 then .wo else if n = 1 then .ro else if 0x30 ≤ n then .rc else .rw

/-- The highest subindex of an index, none when no object has it (R660). Objects without subindices have 0. -/
def objHigh (i : Nat) : Option Nat :=
  match i with
  | 0x1000 | 0x1001 | 0x1008 | 0x1009 | 0x100A | 0x1014 | 0x1015 | 0x1017 | 0x2403 => some 0
  | 0x1003 => some 0x10
  | 0x1010 | 0x1011 | 0x2001 | 0x2103 | 0x2121 | 0x2240 => some 1
  | 0x2100 => some 2
  | 0x1E10 | 0x2120 | 0x2402 => some 3
  | 0x1018 | 0x2002 | 0x2104 | 0x2801 | 0x2803 => some 4
  | 0x1E00 | 0x2802 => some 5
  | 0x2000 => some 6
  | 0x2101 | 0x2102 | 0x2111 => some 0x24
  | 0x2110 | 0x2112 | 0x2113 => some 0x28
  | 0x2400 => some 0x3F
  | 0x2401 => some 0xFE
  | 0x2800 => some 0x0B
  | _ =>
    if 0x2200 ≤ i ∧ i ≤ 0x223F then some 0x33
    else if 0x3000 ≤ i ∧ i ≤ 0x301F then some 0x16
    else none

/-- An object by index and subindex (R661, R663, R664, R667, R668, R633, R693, R703). -/
def objInfo (i sub : Nat) : Option OInfo :=
  match objHigh i with
  | none => none
  | some hi =>
    if sub > hi then none
    else if hi ≠ 0 ∧ sub = 0 then some (if i = 0x1003 then { sz := 1, acc := .rw } else { sz := 1, acc := .const })
    else
      match i with
      | 0x1000 => some { sz := 4, acc := .const }
      | 0x1001 => some { sz := 1, acc := .ro }
      | 0x1003 => some { sz := 4, acc := .ro }
      | 0x1008 | 0x1009 => some { sz := 0, acc := .const }
      | 0x100A => some { sz := 0, acc := .ro }
      | 0x1010 | 0x1011 => some { sz := 4, acc := .rw }
      | 0x1014 => some { sz := 4, acc := .rw, p := true }
      | 0x1015 | 0x1017 => some { sz := 2, acc := .rw, p := true }
      | 0x1018 => some { sz := 4, acc := .const }
      | 0x1E00 =>
        if sub ≤ 2 then some { sz := 1, acc := .const }
        else if sub ≤ 4 then some { sz := 2, acc := .rw, p := true }
        else some { sz := 4, acc := .ro }
      | 0x1E10 => some { sz := 1, acc := .rw, p := true }
      | 0x2000 =>
        if sub = 2 then some { sz := 1, acc := .wo }
        else if sub = 5 then some { sz := 4, acc := .rc }
        else some { sz := 1, acc := .ro }
      | 0x2001 => some { sz := 8, acc := .rw, p := true }
      | 0x2002 =>
        if sub = 1 then some { sz := 1, acc := .rw }
        else if sub = 4 then some { sz := 2, acc := .ro }
        else some { sz := 2, acc := .rw, p := true }
      | 0x2100 | 0x2101 | 0x2102 => some { sz := 2, acc := .rw, p := true }
      | 0x2103 => some { sz := 1, acc := .rw, p := true }
      | 0x2104 => some { sz := if sub = 3 then 2 else 1, acc := .rw, p := true }
      | 0x2110 | 0x2111 | 0x2112 => some { sz := 2, acc := .ro }
      | 0x2113 | 0x2121 => some { sz := 1, acc := .ro }
      | 0x2120 => some { sz := 4, acc := .ro }
      | 0x2240 => some { sz := 8, acc := .rw }
      | 0x2400 => some { sz := 4, acc := .rc }
      | 0x2401 => some { sz := 64, acc := .ro }
      | 0x2402 =>
        if sub = 1 then some { sz := 2, acc := .rw } else if sub = 2 then some { sz := 4, acc := .wo } else some { sz := 2, acc := .ro }
      | 0x2403 => some { sz := 0, acc := .ro }
      | 0x2800 =>
        match sub with
        | 2 => some { sz := 5, acc := .wo }
        | 4 | 9 => some { sz := 1, acc := .wo }
        | 5 => some { sz := 4, acc := .ro }
        | 6 | 0x0B => some { sz := 32, acc := .ro }
        | 0x0A => some { sz := 32, acc := .wo }
        | _ => some { sz := 1, acc := .ro }
      | 0x2801 =>
        match sub with
        | 1 => some { sz := 2, acc := .ro }
        | 2 => some { sz := 2, acc := .rw }
        | 3 => some { sz := 0, acc := .rw }
        | _ => some { sz := 32, acc := .ro }
      | 0x2802 =>
        match sub with
        | 1 => some { sz := 32, acc := .wo }
        | 2 => some { sz := 1, acc := .ro }
        | 3 => some { sz := 4, acc := .ro }
        | 4 => some { sz := 2, acc := .rw }
        | _ => some { sz := 0, acc := .ro }
      | 0x2803 =>
        if sub = 3 then some { sz := 2, acc := .ro } else if sub = 4 then some { sz := 1, acc := .wo } else some { sz := 1, acc := .ro }
      | _ =>
        if i < 0x2400 then (if hankRegDefined (sub - 1) then some { sz := 8, acc := hankRegAcc (sub - 1) } else none)
        else some { sz := if 0x12 ≤ sub ∧ sub ≤ 0x15 then 2 else 1, acc := .ro }

/-- The default of a value that the dictionary itself holds (R633, R661, R663). -/
def objDef (i sub : Nat) : BitVec 64 :=
  match i with
  | 0x1017 => 1000
  | 0x1E10 => if sub = 1 then 64 else if sub = 3 then 1 else 0
  | 0x2002 => if sub = 2 then 0x0007 else if sub = 3 then 0x03FF else 0
  | 0x2100 => if sub = 1 then 345 else 150
  | 0x2101 => 3600
  | 0x2102 => 1600
  | 0x2103 => if Config.orderX then 100 else 90
  | 0x2104 => if sub = 1 then 0x0F else if sub = 2 then 4 else if sub = 3 then 50 else 5
  | _ => 0

/-- The key of an object in the list of values. -/
def objKey (i sub : Nat) : Nat := 256 * i + sub

/-- A value of a list of written values; unwritten ones have their defaults. The EMCY COB-ID follows the node-ID until written. -/
def objOf (m : SMap (BitVec 64)) (i sub : Nat) : BitVec 64 :=
  let v := mapGet 0 m (objKey i sub)
  if i = 0x1014 then
    (if v.getLsbD 63 then v &&& 0xFFFFFFFF else 0x80 + (mapGet 0 m (objKey 0x1E10 1) ^^^ objDef 0x1E10 1))
  else v ^^^ objDef i sub

/-- A list of written values with one changed. -/
def objPut (i sub : Nat) (v : BitVec 64) (m : SMap (BitVec 64)) : SMap (BitVec 64) :=
  mapSet 0 m (objKey i sub) (if i = 0x1014 then v ||| 0x8000000000000000 else v ^^^ objDef i sub)

/-- The live value of an object. -/
def objGet (s : State) (i sub : Nat) : BitVec 64 := objOf s.m.objs i sub

/-- Change the management block. -/
def updM (f : Mgmt → Mgmt) (s : State) : State := { s with m := f s.m }

/-! ## Conditions (R673, R674) -/

/-- ALERTMASK and EMCYMASK with their forced bits (R673). -/
def alertMask (s : State) : BitVec 16 := ((objGet s 0x2002 2).setWidth 16 ||| 0x0007) &&& 0x03FF
def emcyMask (s : State) : BitVec 16 := ((objGet s 0x2002 3).setWidth 16 ||| 0x000D) &&& 0x03FF

/-- The ALERT_N pin is asserted (R604). -/
def alertN (s : State) : Bool := decide (s.m.conds &&& alertMask s ≠ 0)

/-- The EMCY code of a condition (R673). -/
def emcyCode (bit : Nat) (variant : Bool) : BitVec 16 :=
  match bit with
  | 0 | 1 | 9 => 0x4200
  | 2 => if variant then 0x3120 else 0x3110
  | 3 => 0xFF01
  | 4 => 0x5000
  | 5 => 0xFF02
  | 6 => 0xFF03
  | 7 => if variant then 0x8140 else 0x8120
  | _ => 0x6100

/-- The additional information of a condition's EMCY (R674): the table's value, or the SEQ of the record of the event just logged. The
events of conditions 3 and 7 have no record, and the spec states no value for them. -/
def emcyInfo (s : State) (bit : Nat) : BitVec 16 :=
  if bit = 0 then 1 else if bit = 1 then 2 else if bit = 9 then 3
  else if bit = 3 ∨ bit = 7 then BitVec.ofNat 16 (Config.freeNat s.fresh)
  else match s.recLast with
    | some n => BitVec.ofNat 16 n
    | none => 0xFFFF

/-- A condition begins: CONDSTAT, and the EMCY that is due (R674). -/
def condSet (bit : Nat) (variant : Bool) (s : State) : State :=
  if s.m.conds.getLsbD bit then s
  else
    let due := (emcyMask s).getLsbD bit
    updM (fun m => { m with
      conds := setBit m.conds bit true
      emcyDue := if due then m.emcyDue ++ [emcyInfo s bit ++ emcyCode bit variant] else m.emcyDue })
      (if bit = 3 ∨ bit = 7 then { s with fresh := s.fresh + 1 } else s)

/-- A condition clears; with the last one the EMCY of code 0 is due (R674). -/
def condClear (bit : Nat) (s : State) : State :=
  if !s.m.conds.getLsbD bit then s
  else
    let c := setBit s.m.conds bit false
    updM (fun m => { m with conds := c, emcyDue := if c = 0 then m.emcyDue ++ [0] else m.emcyDue }) s

/-! ## The CAN port (R597, R598, R672) -/

/-- The 25 MHz reference is present (R598, R628). -/
def refRuns (s : State) : Bool := !s.tbHold || s.tbRet

/-- Send a frame: CAN FD with the data rate switched (R597). -/
def canSend (id : Nat) (data : List (BitVec 8)) (s : State) : State :=
  updM (fun m => { m with canOut := m.canOut ++ [{ id := BitVec.ofNat 11 id, data := data }] }) s

/-- The CAN port starts (R598, R662, R672): Node-ID and data rate take effect, the boot-up message leaves, then pre-operational. Without the reference
it starts when that returns. -/
def canStart (s : State) : State :=
  if (objGet s 0x1E10 3).getLsbD 0 && refRuns s then
    let id := (objGet s 0x1E10 1).setWidth 8
    canSend (0x700 + id.toNat) [0x00] (updM (fun m => { m with
      nmt := .preOp, usdo := [], hbDue := m.clock + 1000000 * (objGet s 0x1017 0).toNat, canNode := id, canRate := (objGet s 0x1E10 2).setWidth 8 }) s)
  else s

end Sys2Proof.Machine
end

