-- ==== Sys2Proof/Machine/Access.lean ====
section
/-! DEFINITION. Access to the parts of the state, and the fabric that requests between them cross. -/

namespace Sys2Proof.Machine

/-! ## Accessors -/

/-- A context. -/
def getCtx (s : State) (c : CtxId) : Ctx := mapGet {} s.ctxs c.toNat

/-- Store a context. -/
def setCtx (s : State) (c : CtxId) (x : Ctx) : State := { s with ctxs := mapSet {} s.ctxs c.toNat x }

/-- Change a context. -/
def updCtx (c : CtxId) (f : Ctx → Ctx) (s : State) : State := setCtx s c (f (getCtx s c))

/-- Change every stored context. -/
def updAllCtx (f : CtxId → Ctx → Ctx) (s : State) : State :=
  { s with ctxs := (s.ctxs.map fun p => (p.1, f (BitVec.ofNat 16 p.1) p.2)).filter fun p => p.2 ≠ {} }

/-- A spindle. -/
def getSp (s : State) (p : SpId) : Spindle := mapGet {} s.spindles p.toNat

/-- Store a spindle. -/
def setSp (s : State) (p : SpId) (x : Spindle) : State := { s with spindles := mapSet {} s.spindles p.toNat x }

/-- Change a spindle. -/
def updSp (p : SpId) (f : Spindle → Spindle) (s : State) : State := setSp s p (f (getSp s p))

/-- A skein. -/
def getSk (s : State) (k : SkId) : Skein := mapGet {} s.skeins k.toNat

/-- Store a skein. -/
def setSk (s : State) (k : SkId) (x : Skein) : State := { s with skeins := mapSet {} s.skeins k.toNat x }

/-- Change a skein. -/
def updSk (k : SkId) (f : Skein → Skein) (s : State) : State := setSk s k (f (getSk s k))

/-- Change every stored skein. -/
def updAllSk (f : Skein → Skein) (s : State) : State :=
  { s with skeins := (s.skeins.map fun p => (p.1, f p.2)).filter fun p => p.2 ≠ {} }

/-- The skein of a spindle (R16). -/
def spSk (p : SpId) : SkId := p.extractLsb' 4 5

/-- The logical number of a spindle in its skein (R16). -/
def spLs (p : SpId) : BitVec 4 := p.extractLsb' 0 4

/-- The spindle a context is assigned to (R267). -/
def ctxSp (x : Ctx) : SpId := x.skein ++ x.lspin

/-- The spindle of a context by number. -/
def spOf (s : State) (c : CtxId) : SpId := ctxSp (getCtx s c)

/-- The home spindle of a context number (R20). -/
def homeSp (c : CtxId) : SpId := c.extractLsb' 7 9

/-- The physical position of a logical spindle (R17). -/
def physPos (k : Skein) (l : BitVec 4) : Nat := if k.spareFor = some l then 16 else l.toNat

/-- A context stands on one of the plies of its spindle (R282). -/
def onPly (s : State) (c : CtxId) : Bool :=
  let p := getSp s (spOf s c)
  p.plyA = some c || p.plyB = some c

/-- Every context number is FREE. -/
def allFree (s : State) : Bool := s.ctxs.all fun p => p.2.st = .free

/-! ## The fabric (R25 to R27, R639, R640) -/

/-- The fabric sector of a skein (R25). -/
def skSector (k : SkId) : BitVec 2 := k.extractLsb' 3 2

/-- The fabric sector of a memory channel (R25). -/
def chanSector (ch : Nat) : BitVec 2 := BitVec.ofNat 2 (ch / 3)

/-- The sector of the host link, and that of the distaff (R25). -/
def hostSector : BitVec 2 := 0
def distaffSector : BitVec 2 := 3

/-- The sectors a request crosses from one sector to another, both ends with it: 0 and 3 are joined through 1, 1 and 2 through 0
(R26). -/
def route (a b : BitVec 2) : BitVec 4 :=
  let ends := setBit (setBit (0 : BitVec 4) a.toNat true) b.toNat true
  if a ^^^ b ≠ 3 then ends else if a = 0 ∨ b = 0 then setBit ends 1 true else setBit ends 0 true

/-- A change of the power state. -/
def setPwr (f : Power → Power) (s : State) : State := { s with m := { s.m with pwr := f s.m.pwr } }

/-- In DROWSE the sectors that a request crosses have carried traffic (R640). -/
def traffic (r : BitVec 4) (s : State) : State :=
  if s.mode = .drowse then
    setPwr (fun p => { p with trafAt := ((upto 4).filter fun i => r.getLsbD i).foldl (fun l i => mapSet 0 l i s.m.clock) p.trafAt }) s
  else s

/-- A request between two sectors wakes the parked sectors it is routed to or through (R640). -/
def fabric (a b : BitVec 2) (s : State) : State :=
  let r := route a b
  if s.m.pwr.sectors = 0 then traffic r s
  else setPwr (fun p => { p with sectors := p.sectors &&& ~~~r }) (traffic r s)

/-- A parked skein wakes, and with it its sector (R639, R640). -/
def wakeSkein (k : SkId) (s : State) : State :=
  if (getSk s k).parked then updSk k (fun x => { x with parked := false }) (fabric (skSector k) (skSector k) s) else s

/-- A request from a sector addressed to a skein: it crosses its route, and wakes the skein (R27). -/
def reach (src : BitVec 2) (k : SkId) (s : State) : State := wakeSkein k (fabric src (skSector k) s)

end Sys2Proof.Machine
end

