-- ==== Sys2Proof/Machine/Cache.lean ====
section
/-! DEFINITION. The caches as tags, states and replacement order (R404 to R443). The cells themselves are in `mem`: hardware keeps
the data caches coherent (R446, R447), so a cached cell is the cell in memory. Instruction-cache lines hold their cells. -/

namespace Sys2Proof.Machine

/-! ## Level-1 data cache (R404, R414) -/

/-- The leaf that the tree's nodes point to: six levels from the node (root 1). -/
def treeVictim (t : BitVec 63) : Nat → Nat → Nat
  | 0, node => node - 64
  | k + 1, node => treeVictim t k (2 * node + b2n (t.getLsbD (node - 1)))

/-- Set the nodes on the path of a leaf to point away from it (R414). -/
def treeTouch (leaf : Nat) : Nat → Nat → BitVec 63 → BitVec 63
  | 0, _, t => t
  | k + 1, node, t =>
    let b := bitN leaf k
    treeTouch leaf k (2 * node + b2n b) (setBit t (node - 1) (!b))

/-- A level-1 line of a spindle. -/
def l1At (p : Spindle) (i : Nat) : L1Line := mapGet {} p.l1 i

/-- The level-1 index that holds a line. -/
def l1Find (p : Spindle) (ln : Nat) : Option Nat :=
  match p.l1.find? fun e => e.2.valid && decide (e.2.ln = ln) with
  | some e => some e.1
  | none => none

/-- A hit or a fill of an index: its path, then the paths of retired lines (R414). -/
def l1Touch (i : Nat) (p : Spindle) : Spindle :=
  let t0 := treeTouch i 6 1 p.l1Tree
  { p with l1Tree := p.l1.foldl (fun t e => if e.2.retired then treeTouch e.1 6 1 t else t) t0 }

/-- The index a level-1 fill takes: the lowest invalid line that is not retired, else the tree's leaf (R414). -/
def l1Victim (p : Spindle) : Nat :=
  match (upto 64).find? fun i => let l := l1At p i; !l.valid && !l.retired with
  | some i => i
  | none => treeVictim p.l1Tree 6 1

/-! ## Skein cache (R404, R409, R416 to R418) -/

/-- The set of a line in the skein cache. -/
def skSet (ln : Nat) : Nat := ln % 4096

/-- A way of the skein cache. -/
def skAt (k : Skein) (set way : Nat) : SkLine := mapGet {} k.cache (set * 16 + way)

/-- The way that holds a line validly. -/
def skFind (k : Skein) (ln : Nat) : Option Nat :=
  (upto 16).find? fun w => let l := skAt k (skSet ln) w; decide (l.st ≠ .inv) && decide (l.ln = ln)

/-- Change the entry of a held line. -/
def skUpd (k : Skein) (ln : Nat) (f : SkLine → SkLine) : Skein :=
  match skFind k ln with
  | some w => { k with cache := mapSet {} k.cache (skSet ln * 16 + w) (f (skAt k (skSet ln) w)) }
  | none => k

/-- A way may be filled for a requester with a way mask (R418). -/
def skEligible (k : Skein) (mask : BitVec 16) (ln w : Nat) : Bool :=
  mask.getLsbD w && !k.pwrOff.getLsbD w && !k.cleaning.getLsbD w && !k.retWays.getLsbD w && !(skAt k (skSet ln) w).retired

/-- A fill into a way of a set is held for its victim (R421). -/
def skHeldWay (k : Skein) (ln w : Nat) : Bool := k.held.any fun h => decide (h.idx = w) && decide (skSet h.ln = skSet ln)

/-- The victim way of a fill and the cache with its ages raised (R416): at most four rounds. -/
def skVictim (mask : BitVec 16) (ln : Nat) : Nat → Skein → Option Nat × Skein
  | 0, k => (none, k)
  | n + 1, k =>
    let ws := (upto 16).filter fun w => skEligible k mask ln w && !skHeldWay k ln w
    let line (w : Nat) := skAt k (skSet ln) w
    match ws.find? fun w => (line w).st = .inv with
    | some w => (some w, k)
    | none => match ws.find? fun w => (line w).age = 3 with
      | some w => (some w, k)
      | none =>
        if ws.isEmpty then (none, k)
        else skVictim mask ln n
          { k with cache := ws.foldl (fun m w => mapSet {} m (skSet ln * 16 + w) { line w with age := (line w).age + 1 }) k.cache }

/-- Remove a line from one spindle's level-1 cache, and from the presence record of its skein-cache line (R406); reservations of that
spindle's contexts on it end (R468). -/
def l1Drop (q : SpId) (ln : Nat) (s : State) : State :=
  match l1Find (getSp s q) ln with
  | none => s
  | some i =>
    let s := updSp q (fun p => { p with l1 := mapSet {} p.l1 i { retired := (l1At p i).retired } }) s
    let pos := physPos (getSk s (spSk q)) (spLs q)
    let s := updSk (spSk q) (fun k => skUpd k ln fun l => { l with holders := setBit l.holders pos false }) s
    updAllCtx (fun _ x => if x.res = some ln ∧ ctxSp x = q then { x with res := none, resHold := false } else x) s

/-! ## The directories (R407, R408) -/

/-- The home channel of a line (R407). -/
def chanOf (ln : Nat) : Nat := ln % 12

/-- The directory entry of a line. -/
def dirFind (s : State) (ln : Nat) : Option DirEnt := (mapGet [] s.dirs (chanOf ln)).find? fun e => e.ln = ln

/-- A message between a skein and the home channel of a line (R26, R407): a snoop, a recall, a write-back, a request. A skein that holds
the line wakes for it (R639). -/
def lineMsg (k : SkId) (ln : Nat) (s : State) : State := reach (chanSector (chanOf ln)) k s

/-- Wrong array bits of the cells of a line disappear with a clean copy: it is not written back (R435). -/
def arrDrop (k : SkId) (ln : Nat) (s : State) : State :=
  if s.arrErr.isEmpty then s
  else { s with arrErr := s.arrErr.filter fun e =>
    !(decide (e.1 / 8 = ln) && decide (e.2.extractLsb' 8 4 ≠ 0) && decide (e.2.extractLsb' 16 5 = k)) }

/-- Remove a line from every data cache of a skein, with its directory presence (R406, R408). Modified data is in `mem`
already. -/
def skDrop (k : SkId) (ln : Nat) (s : State) : State :=
  let s := match skFind (getSk s k) ln with
    | some w => lineMsg k ln (if (skAt (getSk s k) (skSet ln) w).st = .modified then s else arrDrop k ln s)
    | none => s
  let s := (upto 16).foldl (fun s l => l1Drop (k ++ BitVec.ofNat 4 l) ln s) s
  let s := updSk k (fun x => skUpd x ln fun l => { retired := l.retired }) s
  let d := (mapGet [] s.dirs (chanOf ln)).map fun e => if e.ln = ln then { e with holders := setBit e.holders k.toNat false, modified := false } else e
  { s with dirs := mapSet [] s.dirs (chanOf ln) (d.filter fun e => e.holders ≠ 0) }

/-- Record in the home directory that a skein holds a line, recalling the least recently allocated entry of a full set
(R408). -/
def dirNote (k : SkId) (ln : Nat) (modif : Bool) (s : State) : State :=
  let ch := chanOf ln
  match dirFind s ln with
  | some _ =>
    let s := lineMsg k ln s
    let d := (mapGet [] s.dirs ch).map fun e => if e.ln = ln then { e with holders := setBit e.holders k.toNat true, modified := modif } else e
    { s with dirs := mapSet [] s.dirs ch d }
  | none =>
    let s := lineMsg k ln s
    let same := (mapGet [] s.dirs ch).filter fun e => Config.dirSet e.ln % 16384 = Config.dirSet ln % 16384
    let s := if same.length ≥ 16 then
        match same.head? with
        | some v => (upto 32).foldl (fun s j => if v.holders.getLsbD j then skDrop (BitVec.ofNat 5 j) v.ln s else s) s
        | none => s
      else s
    { s with dirs := mapSet [] s.dirs ch (mapGet [] s.dirs ch ++ [{ ln := ln, holders := setBit 0 k.toNat true, modified := modif }]) }

/-! ## Tag entries with wrong copies (R434, R437) -/

/-- Poison a line (R436). -/
def poisonLn (ln : Nat) (s : State) : State := { s with poisoned := (upto 8).foldl (fun m i => mapSet false m (ln * 8 + i) true) s.poisoned }

/-- Array errors are left to be recorded. -/
def addDue (l : List ArrDue) (s : State) : State := { s with arrDue := s.arrDue ++ l }

/-- What the DRAM code makes of the wrong symbols of a burst, each a device and a pair of beats (R595): none, an error of one device (x4) or of one
device within one pair of beats (x8), which is corrected and names the device, or more, which is uncorrectable. -/
def dramEcc (width : Nat) (l : List (BitVec 8 × BitVec 3)) : Option (Option (BitVec 8)) :=
  match l with
  | [] => none
  | x :: r => if r.all fun y => decide (y.1 = x.1 ∧ (width = 4 ∨ y.2 = x.2)) then some (some x.1) else some none

/-- What is wrong with a line in DRAM. -/
def dramAt (s : State) (ln : Nat) : DramBad := mapGet {} s.dramBad ln

/-- The line is written to DRAM again. -/
def dramFix (ln : Nat) (s : State) : State := if (dramAt s ln).syms.isEmpty then s else { s with dramBad := mapSet {} s.dramBad ln {} }

/-- A demand read of a line from DRAM (R595, R707): an error of one device is corrected and rewritten, which ends reservations on the line (R43); an
uncorrectable burst is read once more, and the line is lost where that fails too. -/
def dramRead (ln : Nat) (s : State) : State :=
  let f := dramAt s ln
  match dramEcc s.m.dimms.width f.syms with
  | none => s
  | some (some d) =>
    updAllCtx (fun _ x => if x.res = some ln then { x with res := none, resHold := false } else x)
      (addDue [{ place := .dram ln (f.dev ++ d), event := 0x08, retire := false }] (dramFix ln s))
  | some none =>
    if f.again then addDue [{ place := .dram ln 0, event := 0x0A, retire := false }] (poisonLn ln (dramFix ln s))
    else addDue [{ place := .dram ln 0, event := 0x09, retire := false }] (dramFix ln s)

/-- A demand read of a line that no cache holds. -/
def dramDemand (ln : Nat) (s : State) : State := if (dirFind s ln).isSome then s else dramRead ln s

/-- A tag entry whose primary copy fails parity, in a way of a skein cache: taken from the shadow, rewritten, and retired where it is still wrong; where
both copies fail, the line is recalled by the directory, poisoned if the skein held it modified, and the way of that set is retired (R437). -/
def skTagFix (kid : SkId) (set w : Nat) (s : State) : State :=
  let l := skAt (getSk s kid) set w
  let place : ArrPlace := .unit (.line kid (BitVec.ofNat 12 set) (BitVec.ofNat 4 w))
  let out (s : State) : State :=
    let s := if l.st = .inv then s else skDrop kid l.ln s
    updSk kid (fun k => { k with cache := mapSet {} k.cache (set * 16 + w) { retired := true } }) s
  if l.tag.shad then
    let lost := decide (l.st = .modified)
    addDue [{ place := place, event := if lost then 0x04 else 0, retire := true, inj := l.tag.inj }] (out (if lost then poisonLn l.ln s else s))
  else
    addDue ({ place := place, event := 0x05, retire := false, inj := l.tag.inj } ::
        (if l.tag.hard then [{ place := place, event := 0x03, retire := true, inj := l.tag.inj }] else []))
      (if l.tag.hard then out s else updSk kid (fun k => { k with cache := mapSet {} k.cache (set * 16 + w) { l with tag := {} } }) s)

/-- A lookup in a set of a skein cache reads its tag entries. -/
def skTags (kid : SkId) (set : Nat) (s : State) : State :=
  (getSk s kid).cache.foldl (fun s e => if e.1 / 16 = set ∧ e.2.tag.prim then skTagFix kid set (e.1 % 16) s else s) s

/-- The same for an entry of a level-1 cache: the skein cache recalls the line by its presence record (R437). -/
def l1TagFix (q : SpId) (i : Nat) (s : State) : State :=
  let l := l1At (getSp s q) i
  let place : ArrPlace := .unit (.l1Line q (BitVec.ofNat 6 i))
  let out (s : State) : State :=
    updSp q (fun p => { p with l1 := mapSet {} p.l1 i { retired := true } }) (if l.valid then l1Drop q l.ln s else s)
  if l.tag.shad then
    let lost := l.valid && l.dirty
    addDue [{ place := place, event := if lost then 0x04 else 0, retire := true, inj := l.tag.inj }] (out (if lost then poisonLn l.ln s else s))
  else
    addDue ({ place := place, event := 0x05, retire := false, inj := l.tag.inj } ::
        (if l.tag.hard then [{ place := place, event := 0x03, retire := true, inj := l.tag.inj }] else []))
      (if l.tag.hard then out s else updSp q (fun p => { p with l1 := mapSet {} p.l1 i { l with tag := {} } }) s)

/-- A lookup in a level-1 cache, which is one set, reads its tag entries. -/
def l1Tags (q : SpId) (s : State) : State :=
  (getSp s q).l1.foldl (fun s e => if e.2.tag.prim then l1TagFix q e.1 s else s) s

/-! ## Fills -/

/-- Put a line into a spindle's level-1 cache; the line it replaces leaves (R414, R420). -/
def l1Fill (q : SpId) (ln : Nat) (dirty : Bool) (s : State) : State :=
  match l1Find (getSp s q) ln with
  | some i => updSp q (fun p => l1Touch i { p with l1 := mapSet {} p.l1 i { l1At p i with dirty := (l1At p i).dirty || dirty } }) s
  | none =>
    let i := l1Victim (getSp s q)
    let old := l1At (getSp s q) i
    let s := if old.valid then l1Drop q old.ln s else s
    let s := updSp q (fun p => l1Touch i { p with l1 := mapSet {} p.l1 i { l1At p i with valid := true, ln := ln, dirty := dirty, tag := {} } }) s
    let pos := physPos (getSk s (spSk q)) (spLs q)
    updSk (spSk q) (fun k => skUpd k ln fun l => { l with holders := setBit l.holders pos true }) s

/-- The way mask of a requester: its hank's for HV = 1, else HMASK (R418). -/
def wayMaskFor (k : Skein) (hankMask : BitVec 16) (hv : Bool) : BitVec 16 := if hv then hankMask else k.hmask

/-- The level-1 copies of a line in a skein become clean. -/
def l1Clean (k : SkId) (ln : Nat) (s : State) : State :=
  (upto 16).foldl (fun s l => updSp (k ++ BitVec.ofNat 4 l) (fun p => match l1Find p ln with
    | some i => { p with l1 := mapSet {} p.l1 i { l1At p i with dirty := false } }
    | none => p) s) s

/-- The home directory records a line as held modified by none. -/
def dirClean (ln : Nat) (s : State) : State :=
  { s with dirs := mapSet [] s.dirs (chanOf ln) ((mapGet [] s.dirs (chanOf ln)).map fun e => if e.ln = ln then { e with modified := false } else e) }

/-- A skein's copy of a line becomes shared and clean (R409). -/
def skShare (k : SkId) (ln : Nat) (s : State) : State :=
  dirClean ln (l1Clean k ln (updSk k (fun x => skUpd x ln fun l => { l with st := .shared }) (lineMsg k ln s)))

/-- The skein holds a line modified. -/
def skModified (k : SkId) (ln : Nat) (s : State) : Bool :=
  match skFind (getSk s k) ln with
  | some w => decide ((skAt (getSk s k) (skSet ln) w).st = .modified)
  | none => false

/-- Other skeins give up or share a line: for ownership every copy is invalidated, for a read a modified copy becomes
shared. A skein that holds it modified supplies it (R409), straight to the one that asked (R26). -/
def othersYield (k : SkId) (ln : Nat) (own : Bool) (s : State) : State :=
  match dirFind s ln with
  | none => s
  | some e =>
    (upto 32).foldl (fun s j =>
      let kj : SkId := BitVec.ofNat 5 j
      let s := if kj ≠ k ∧ e.holders.getLsbD j then skTags kj (skSet ln) s else s
      let s := if kj ≠ k ∧ skModified kj ln s then fabric (skSector kj) (skSector k) s else s
      if kj = k ∨ !e.holders.getLsbD j then s
      else if own then skDrop kj ln s
      else skShare kj ln s) s

/-- A line may be installed in a skein's cache for a requester: some way is eligible and the data caches are not disabled
(R419, R442). -/
def canInstall (k : Skein) (mask : BitVec 16) (ln : Nat) : Bool := decide (k.dstate ≠ 2) && (upto 16).any (skEligible k mask ln)

/-- Install a line in a way of the skein cache. -/
def skInstall (kid : SkId) (way ln : Nat) (st : Mesi) (age : BitVec 2) (s : State) : State :=
  let line (k : Skein) : SkLine := { skAt k (skSet ln) way with st := st, ln := ln, age := age, holders := 0, tag := {} }
  let s := updSk kid (fun k => { k with cache := mapSet {} k.cache (skSet ln * 16 + way) (line k) }) s
  dirNote kid ln (decide (st = .modified)) s

/-- A fill of a line is held for its victim in some other skein: the line is promised to it, and requests for it wait in arrival
order (R409, R421, R443). -/
def heldElsewhere (s : State) (kid : SkId) (ln : Nat) : Bool :=
  s.skeins.any fun e => decide (e.1 ≠ kid.toNat) && e.2.held.any fun h => decide (h.ln = ln)

/-- A fill of a line is held for its victim in some skein. -/
def heldAny (s : State) (ln : Nat) : Bool := s.skeins.any fun e => e.2.held.any fun h => decide (h.ln = ln)

/-- The line has arrived for a request that waited for it, and that is now tried again: this is no hit (R421). -/
def freshFor (l : SkLine) (a : Asker) : Bool := l.fresh.contains a

/-- The spindle of a request. -/
def askSp (a : Asker) : Option SpId :=
  match a with
  | .load _ q | .store _ q | .fetch q _ | .pref q | .stream q _ => some q
  | .unit => none

/-- The line that the directory recalls to make room for a line (R408). -/
def dirVictim (s : State) (ln : Nat) : Option DirEnt :=
  if (dirFind s ln).isSome then none
  else
    let same := (mapGet [] s.dirs (chanOf ln)).filter fun e => Config.dirSet e.ln % 16384 = Config.dirSet ln % 16384
    if same.length ≥ 16 then same.head? else none

/-- A spindle other than `q` holds a line for an LR of a context of its own (R473). -/
def lineHeld (q : Option SpId) (ln : Nat) (s : State) : Bool :=
  s.ctxs.any fun e => e.2.resHold && decide (e.2.res = some ln) && decide (some (ctxSp e.2) ≠ q)

/-- Time passes until the holds of lines for an LR have ended (R473). -/
def holdEnd (f : Nat → Bool) (s : State) : State :=
  if s.ctxs.any fun e => e.2.resHold && e.2.res.any f then updAllCtx (fun _ x => if x.res.any f then { x with resHold := false } else x) s else s

/-- The recall that makes room for a line would take a line that is held for an LR: it waits (R473). -/
def recallHeld (q : Option SpId) (ln : Nat) (s : State) : Bool :=
  match dirVictim s ln with
  | some v => lineHeld q v.ln s
  | none => false

/-- A request joins those that wait for a held fill of its skein (R443). -/
def askHeld (kid : SkId) (ln : Nat) (a : Asker) (s : State) : State :=
  updSk kid (fun k => { k with held := k.held.map fun h => if h.ln = ln ∧ !h.asks.contains a then { h with asks := h.asks ++ [a] } else h }) s

/-- Bring a line into a skein's cache for a requester, the tags of its set read (R409, R416 to R421). Answers true when the line is there or the
access is to be made uncached, and false when the line waits: for its modified victim to be accepted, for a fill held in some skein (R443), or for
a line held for an LR that the directory must recall (R473). -/
def skFillIn (kid : SkId) (mask : BitVec 16) (ln : Nat) (own : Bool) (age : BitVec 2) (a : Asker) (s : State) : Bool × State :=
  let k := getSk s kid
  match skFind k ln with
  | some w =>
    let l := skAt k (skSet ln) w
    if own ∧ l.st = .shared ∧ heldElsewhere s kid ln then (false, s)
    else
      let s := if own ∧ l.st = .shared then othersYield kid ln true (lineMsg kid ln s) else s
      let st : Mesi := if own then .modified else l.st
      let s := updSk kid (fun k => skUpd k ln fun l =>
        { l with age := if freshFor l a then l.age else 0, st := st, fresh := l.fresh.filter fun b => b ≠ a }) s
      (true, if own then dirNote kid ln true s else l1Clean kid ln s)
  | none =>
    if k.held.any (fun h => h.ln = ln) then (false, askHeld kid ln a s)
    else if heldElsewhere s kid ln || recallHeld (askSp a) ln s then (false, s)
    else
      let shared := match dirFind s ln with
        | some e => decide (setBit e.holders kid.toNat false ≠ 0)
        | none => false
      let s := othersYield kid ln own (lineMsg kid ln (dramDemand ln s))
      if !canInstall k mask ln then
        (true, (upto 32).foldl (fun s j => skDrop (BitVec.ofNat 5 j) ln s) s)
      else
        let st : Mesi := if own then .modified else if shared then .shared else .excl
        match skVictim mask ln 4 k with
        | (none, _) => (false, s)
        | (some w, k') =>
          let old := skAt k' (skSet ln) w
          let s := updSk kid (fun k => { k with cache := k'.cache }) s
          let s := if old.st = .inv then s else skDrop kid old.ln s
          if old.st = .modified then
            (false, updSk kid (fun k => { k with held := k.held ++ [{ idx := w, ln := ln, victim := old.ln, asks := [a], st := st, age := age }] }) s)
          else (true, skInstall kid w ln st age s)

/-- A fill, the tag entries of the set read first (R437). -/
def skFill (kid : SkId) (mask : BitVec 16) (ln : Nat) (own : Bool) (age : BitVec 2) (a : Asker) (s : State) : Bool × State :=
  skFillIn kid mask ln own age a (skTags kid (skSet ln) s)

/-- The home controller of a victim takes it into its write queue (R413). -/
def wqPush (v : Nat) (s : State) : State := { s with wq := mapSet [] s.wq (chanOf v) (mapGet [] s.wq (chanOf v) ++ [v]) }

/-- The write queue of a line's home controller is full (R413). -/
def wqFull (v : Nat) (s : State) : Bool := decide ((mapGet [] s.wq (chanOf v)).length ≥ 64)

/-- A held fill is installed, its victim accepted (R421). Requests that are tried again find their line fresh. -/
def heldInstall (kid : SkId) (h : HeldFill) (s : State) : State :=
  let s := updSk kid (fun x => { x with held := x.held.filter fun g => g.ln ≠ h.ln }) (wqPush h.victim s)
  updSk kid (fun x => skUpd x h.ln fun l => { l with fresh := h.asks }) (skInstall kid h.idx h.ln h.st h.age s)

/-- A full write queue of a victim's channel has written its oldest line to DRAM (R413). -/
def wqRoom (v : Nat) (s : State) : State :=
  if wqFull v s then { s with wq := mapSet [] s.wq (chanOf v) ((mapGet [] s.wq (chanOf v)).drop 1) } else s

/-- Time passes until the victim of a held fill is accepted, a full queue having written its oldest line to DRAM first (R413). A unit that waited has
its line then. -/
def heldSettle (kid : SkId) (h : HeldFill) (s : State) : State :=
  heldInstall kid { h with asks := h.asks.filter fun a => a ≠ .unit } (wqRoom h.victim s)

/-- Time passes until every held fill that a test names is installed. -/
def heldSettleAll (f : SkId → HeldFill → Bool) (s : State) : State :=
  s.skeins.foldl (fun s e => let k : SkId := BitVec.ofNat 5 e.1
    e.2.held.foldl (fun s h => if f k h then heldSettle k h s else s) s) s

/-- A step that waited is taken back, but for what its requests did to the caches: tags, held fills, directories, write queues, reservations. -/
def keepLines (s t : State) : State :=
  let s := (s.skeins ++ t.skeins).foldl (fun s e => updSk (BitVec.ofNat 5 e.1) (fun x =>
    { x with cache := (getSk t (BitVec.ofNat 5 e.1)).cache, held := (getSk t (BitVec.ofNat 5 e.1)).held }) s) s
  let s := (s.spindles ++ t.spindles).foldl (fun s e => updSp (BitVec.ofNat 9 e.1) (fun x =>
    { x with l1 := (getSp t (BitVec.ofNat 9 e.1)).l1, l1Tree := (getSp t (BitVec.ofNat 9 e.1)).l1Tree }) s) s
  let s := s.ctxs.foldl (fun s e => updCtx (BitVec.ofNat 16 e.1) (fun x =>
    if x.res ≠ none ∧ (getCtx t (BitVec.ofNat 16 e.1)).res = none then { x with res := none, resHold := false } else x) s) s
  { s with
    dirs := t.dirs, wq := t.wq, arrDue := t.arrDue
    arrErr := s.arrErr.filter fun e => decide (mapGet 0 t.arrErr e.1 ≠ 0) || (skFind (getSk t (e.2.extractLsb' 16 5)) (e.1 / 8)).isSome }

/-- Copies of a line in the level-1 caches of a skein other than one spindle's are removed (R409). -/
def l1Others (q : SpId) (ln : Nat) (s : State) : State :=
  (upto 16).foldl (fun s l => let p := spSk q ++ BitVec.ofNat 4 l; if p = q then s else l1Drop p ln s) s

/-- A spindle obtains a line with ownership for a write of a context (R409, R420). False: the fill waits for its victim, or the line is held for an
LR (R473). -/
def ownLine (c : CtxId) (q : SpId) (mask : BitVec 16) (ln : Nat) (s : State) : Bool × State :=
  if lineHeld (some q) ln s then (false, s)
  else match skFill (spSk q) mask ln true 1 (.store c q) s with
  | (false, s) => (false, s)
  | (true, s) =>
    let s := l1Others q ln s
    if (skFind (getSk s (spSk q)) ln).isSome then (true, l1Fill q ln true s) else (true, s)

/-- A unit that owns a line takes it from the level-1 caches of its skein (R409). -/
def unitGot (kid : SkId) (ln : Nat) (own : Bool) (s : State) : State :=
  if own then (upto 16).foldl (fun s l => l1Drop (kid ++ BitVec.ofNat 4 l) ln s) s else s

/-- A twist unit of the skein works for a context and has waited in its present microword. -/
def unitRetry (c : CtxId) (k : Skein) : Bool := k.units.any fun u => u.2.gwait && (match u.2.req with
  | some r => decide (r.ctx = c)
  | none => false)

/-- A unit's access of a line must wait: for a fill of the line held in some skein (R443), or for a line held for an LR (R473). -/
def unitWaits (ln : Nat) (own : Bool) (s : State) : Bool := heldAny s ln || (own && lineHeld none ln s) || recallHeld none ln s

/-- An access of a unit of a skein (twist unit, reel, carder, scheduler) through the skein cache (R280, R417). The time until the fills it waits for
are installed, until a hold for an LR ends (R473), and until its own victim is accepted (R421), passes within the access. With `own` the unit
obtains the line (R409). -/
def unitTouch (kid : SkId) (mask : BitVec 16) (ln : Nat) (own : Bool) (age : BitVec 2) (s : State) : State :=
  let s := heldSettleAll (fun k h => decide (h.ln = ln) || (decide (k = kid) && decide (skSet h.ln = skSet ln))) s
  let s := holdEnd (fun l => (own && decide (l = ln)) || (dirVictim s ln).any fun v => decide (v.ln = l)) s
  let s := (skFill kid mask ln own age .unit s).2
  let s := heldSettleAll (fun k h => decide (k = kid) && decide (h.ln = ln)) s
  unitGot kid ln own s

/-- The home directory recalls the copies of a line for an access from a sector: a write replaces every cached copy, a read only recalls modified
data (R410). -/
def busTouch (src : BitVec 2) (ln : Nat) (write : Bool) (s : State) : State :=
  let s := if write then s else dramDemand ln s
  let s := fabric src (chanSector (chanOf ln)) (if write then holdEnd (fun l => decide (l = ln)) s else s)
  (upto 32).foldl (fun s j =>
    let kj : SkId := BitVec.ofNat 5 j
    let s := skTags kj (skSet ln) s
    if (skFind (getSk s kj) ln).isSome then
      if write then skDrop kj ln s else skShare kj ln s
    else s) s

/-- An access of the host (R410). -/
def hostTouch (ln : Nat) (write : Bool) (s : State) : State := busTouch hostSector ln write s

/-- An access of the distaff, which enters at its own sector (R28). -/
def distaffTouch (ln : Nat) (write : Bool) (s : State) : State := busTouch distaffSector ln write s

/-! ## Instruction cache (R404, R415, R427) -/

/-- The way of an instruction-cache set that holds a line. -/
def icFind (p : Spindle) (ln : Nat) : Option Nat :=
  (upto 4).find? fun w => let l := mapGet {} p.ic (ln % 64 * 4 + w); l.valid && decide (l.ln = ln)

/-- Point the three nodes of a set away from a way (R415). -/
def icTouch (set w : Nat) (p : Spindle) : Spindle :=
  let t := mapGet 0 p.icTree set
  let t := setBit t 0 (decide (w < 2))
  let t := if w < 2 then setBit t 1 (decide (w = 0)) else setBit t 2 (decide (w = 2))
  { p with icTree := mapSet 0 p.icTree set t }

/-- The way an instruction-cache fill takes (R415). -/
def icVictim (p : Spindle) (set : Nat) : Nat :=
  match (upto 4).find? fun w => !(mapGet {} p.ic (set * 4 + w) : ILine).valid with
  | some w => w
  | none =>
    let t := mapGet 0 p.icTree set
    if t.getLsbD 0 then 2 + b2n (t.getLsbD 2) else b2n (t.getLsbD 1)

/-- A fetch request of a spindle that an INVAL meets: its fill will be installed invalid (R427). -/
def fetchInval (q : SpId) (a : Asker) : Asker :=
  match a with
  | .fetch p _ => if p = q then .fetch p true else a
  | _ => a

/-- The instruction-cache fills of a spindle that are in flight when it applies INVAL (R427). -/
def icFlight (q : SpId) (ln : Option Nat) (k : Skein) : Skein :=
  let on (l : Nat) : Bool := ln.all fun n => decide (n = l)
  { k with
    held := k.held.map fun h => if on h.ln then { h with asks := h.asks.map (fetchInval q) } else h
    cache := k.cache.map fun e => if on e.2.ln then (e.1, { e.2 with fresh := e.2.fresh.map (fetchInval q) }) else e }

/-- Remove one line, or every line, from a spindle's instruction cache (R427). -/
def icInval (ln : Option Nat) (p : Spindle) : Spindle :=
  { p with ic := p.ic.filter fun e => match ln with
      | none => false
      | some l => decide (e.2.ln ≠ l) }

/-- A spindle applies INVAL: to its instruction cache, and to the fills of it that are in flight (R427). -/
def icApply (q : SpId) (ln : Option Nat) (s : State) : State := updSk (spSk q) (icFlight q ln) (updSp q (icInval ln) s)

/-- A broadcast of a skein to spindles of the device, over the fabric (R26). -/
def fabricTo (k : SkId) (ts : List SpId) (s : State) : State :=
  (upto 4).foldl (fun s (i : Nat) =>
    let t : BitVec 2 := BitVec.ofNat 2 i
    if ts.any fun p => decide (skSector (spSk p) = t) then fabric (skSector k) t s else s) s

end Sys2Proof.Machine
end

