-- ==== Sys2Proof/Machine/Ops.lean ====
section
/-! DEFINITION. Named operations over the state: memory cells, landings, readiness, interrupts pending,
and the error log. -/

namespace Sys2Proof.Machine

/-- The bodies of instructions: a state, and an error that carries the state it was raised in. -/
abbrev X := EStateM Err State

/-! ## Bodies -/

/-- The context in a body. -/
def xCtx (c : CtxId) : X Ctx := fun s => .ok (getCtx s c) s

/-- Change the state in a body. -/
def xMod (f : State → State) : X Unit := fun s => .ok () (f s)

/-- Raise an exception in a body. -/
def xFault {α : Type} (code : BitVec 8) (info : Datum := 0) : X α := fun s => .error (.exc { code := code, info := info }) s

/-- Wait in a body: the access is not served at once. -/
def xWait {α : Type} : X α := fun s => .error .wait s

/-- Type fault with REASON 2 and the two type codes (R154). -/
def typeFault {α : Type} (a b : BitVec 6) : X α := fun s => .error (.exc { code := 0x11, disp := some (2, a, b) }) s

/-- Dispatch trap with a REASON (R154, R171). -/
def dispTrap {α : Type} (reason : BitVec 2) (a b : BitVec 6) : X α :=
  fun s => .error (.exc { code := 0x12, disp := some (reason, a, b) }) s

/-- Bring a line to the skein cache for a unit of a skein that works for a context (R409, R417). The access waits for a fill of the line that is held in
some skein (R443), for the end of a hold for an LR (R473), and for its own victim to be accepted (R421); a twist unit that has waited in its
present microword has the time of a further victim within the access (DESIGN CHOICE). -/
def xLine (c : CtxId) (kid : SkId) (mask : BitVec 16) (ln : Nat) (own : Bool) (age : BitVec 2) : X Unit := fun s =>
  if unitWaits ln own s then .error .wait s
  else if unitRetry c (getSk s kid) then .ok () (unitTouch kid mask ln own age s)
  else match skFill kid mask ln own age .unit s with
    | (false, s) => .error .wait s
    | (true, s) => .ok () (unitGot kid ln own s)

/-- Run a body that takes the time of every line it waits for: where it waits, the fills that are held are installed, the holds for LRs end, and it is
run again. -/
def xNow {α : Type} (m : X α) : Nat → X α
  | 0 => m
  | n + 1 => fun s =>
    match m s with
    | .error .wait t =>
      if t.skeins.any (fun e => !e.2.held.isEmpty) || t.ctxs.any (fun e => e.2.resHold) then
        xNow m n (holdEnd (fun _ => true) (heldSettleAll (fun _ _ => true) (keepLines s t)))
      else .error .wait t
    | r => r

/-- A fresh free value (the spec states no value there). -/
def freshNat (s : State) : Nat × State := (Config.freeNat s.fresh, { s with fresh := s.fresh + 1 })

/-! ## Memory cells -/

/-- The stored 64 bits of a cell, low byte first (R6). -/
def cellAt (s : State) (a : PAddr) : Cell :=
  let g (i : Nat) : BitVec 8 := mapGet 0 s.mem (a.toNat * 8 + i)
  g 7 ++ g 6 ++ g 5 ++ g 4 ++ g 3 ++ g 2 ++ g 1 ++ g 0

/-- Store 64 bits as they are. -/
def putRaw (a : PAddr) (v : Cell) (s : State) : State :=
  let w (m : SMap (BitVec 8)) (i : Nat) := mapSet 0 m (a.toNat * 8 + i) (v.extractLsb' (8 * i) 8)
  { s with mem := (upto 8).foldl w s.mem }

/-- Clear the reservations that contexts other than `by` hold on a line (R468). -/
def clearRes (ln : Nat) (who : Option CtxId) (s : State) : State :=
  updAllCtx (fun c x => if x.res = some ln ∧ who ≠ some c then { x with res := none, resHold := false } else x) s

/-- Count in a counter of R716 (32 bits, saturating, R664). -/
def bump (n : Nat) (s : State) : State := { s with counters := mapSet 0 s.counters n (min (2 ^ 32 - 1) (mapGet 0 s.counters n + 1)) }

/-! ## Records of the error log (R716 to R718) -/

/-- Accept a record, or coalesce it with a held one of the same EVENT, UNIT and ADDR; a full queue refuses it (R718). The SEQ that the
event belongs to is kept for its EMCY (R674). An error that an injection caused is marked (R719). -/
def acceptRec (r : ErrRec) (s : State) : State :=
  let same (q : ErrRec) := decide (q.event = r.event ∧ q.unit = r.unit ∧ q.addr = r.addr) && decide (q.tb ≤ s.tb ∧ s.tb < q.tb + 1000000000)
  let inj : BitVec 8 := if r.addr.any fun n => s.injMarks.contains n then 8 else 0
  match s.recQ.find? same with
  | some p =>
    { s with recQ := s.recQ.map fun q => if same q then { q with reps := min 255 (q.reps + 1) } else q, recLast := some p.seq }
  | none =>
    if s.recQ.length ≥ 64 then bump 0x21 { s with recLast := none }
    else { s with recQ := s.recQ ++ [{ r with seq := s.recSeq, tb := s.tb, flags := r.flags ||| inj }], recSeq := s.recSeq + 1, recLast := some s.recSeq }

/-- Count an event and record it (R716, R718), without notification. -/
def logOnly (event sev domain unit : Nat) (c : Option CtxId) (addr : Option Nat) (detail : Nat) (s : State) : State :=
  acceptRec { seq := 0, tb := 0, event := event, sev := sev, domain := domain, unit := unit, ctx := c, addr := addr, detail := detail }
    (bump event s)

/-! ## Writes of cells, and injected errors (R719) -/

/-- Number of set bits. -/
def weight (n : Nat) : Nat := ((upto 8).filter fun i => bitN n i).length

/-- The armed injection meets a write of cell `a` by `who`: its target is DRAM, or, for the write of a context, a cache's data or tag at
that address. -/
def injHit (who : Option CtxId) (a : PAddr) (s : State) : Bool :=
  s.injArmed.isSome && decide (bits s.injAddr.toNat 60 4 ≤ 3) && decide (bits s.injAddr.toNat 0 40 = a.toNat) &&
    (who.isSome || decide (bits s.injAddr.toNat 60 4 = 0))

/-- The place of a line in a skein cache as records give it: DOMAIN the skein, UNIT the way, ADDR set and way (R717). -/
def cachePlace (k : SkId) (ln : Nat) (s : State) : Nat × Nat × Nat :=
  let w := (skFind (getSk s k) ln).getD 0
  (k.toNat, 96 + w, 2 ^ 28 * skSet ln + 2 ^ 24 * w)

/-- The place of a line in a level-1 cache as records give it: DOMAIN the skein, UNIT the spindle's position, ADDR the line's index
(DESIGN CHOICE: the cache has one set of 64 ways, and R717 has a set and a 4-bit way). -/
def l1Place (q : SpId) (ln : Nat) (s : State) : Nat × Nat × Nat :=
  ((spSk q).toNat, 32 + physPos (getSk s (spSk q)) (spLs q), 2 ^ 28 * (l1Find (getSp s q) ln).getD 0)

/-- What an injection does beside the stored cell: the primary copy of a tag fails parity (R437), and wrong bits of an array code stay, until the
location is read or written. -/
def injArray (who : Option CtxId) (a : PAddr) (x : Cell) (s : State) : State :=
  let t := bits s.injAddr.toNat 60 4
  let q : SpId := match who with
    | some c => spOf s c
    | none => 0
  if t = 2 then
    if x = 0 then s else updSk (spSk q) (fun k => skUpd k (lineOf a) fun l => { l with tag := { l.tag with prim := true, inj := true } }) s
  else if !bitN s.injAddr.toNat 59 ∨ bits x.toNat 0 8 = 0 then s
  else { s with arrErr := mapSet 0 s.arrErr a.toNat ((0 : BitVec 2) ++ q ++ BitVec.ofNat 4 t ++ x.extractLsb' 0 8) }

/-- A write of a whole cell that becomes visible now: CHECK is computed (R41), an armed injection is applied (R719), poison ends (R436),
and other agents' reservations on the line end (R468). -/
def putCell (who : Option CtxId) (a : PAddr) (v : Cell) (s : State) : State :=
  let hit := injHit who a s
  let x : Cell := s.injArmed.getD 0
  let inCell := hit && decide (bits s.injAddr.toNat 60 4 ≠ 2) && !bitN s.injAddr.toNat 59
  let s := if hit then bump 0x22 { s with injArmed := none, injMarks := a.toNat :: s.injMarks }
    else if s.injMarks.isEmpty then s
    else { s with injMarks := s.injMarks.filter fun n => n ≠ a.toNat }
  let s := putRaw a (if inCell then sealCell v ^^^ x else sealCell v) s
  let s := clearRes (lineOf a) who { s with poisoned := mapSet false s.poisoned a.toNat false, arrErr := mapSet 0 s.arrErr a.toNat 0 }
  if hit && !inCell then injArray who a x s else s

/-! ## Readiness and interrupts -/

/-- Make a context READY behind those that already are (R287); what made it so wakes its skein (R639). -/
def makeReady (c : CtxId) (s : State) : State :=
  wakeSkein (getCtx s c).skein
    { (updCtx c (fun x => { x with st := .ready, readySeq := s.readySeq, readyAt := s.m.clock }) s) with readySeq := s.readySeq + 1 }

/-- An annex register of a context, by annex cell (R279, R332, R363). -/
def axGet (x : Ctx) (k : Nat) : Datum := mapGet 0 x.ax k

/-- Set an annex register in a context record. -/
def axPut (x : Ctx) (k : Nat) (v : Datum) : Ctx := { x with ax := mapSet 0 x.ax k v }

/-- The annex cell of a context (R279). -/
def annexAddr (s : State) (c : CtxId) (k : Nat) : PAddr := paOf (s.annexBase.toNat + 32 * c.toNat + k)

/-- An access of a context's annex in memory passes through the skein cache of the context (R280, R418). -/
def annexTouch (c : CtxId) (k : Nat) (own : Bool) (s : State) : State :=
  let kid := (getCtx s c).skein
  unitTouch kid (getSk s kid).hmask (lineOf (annexAddr s c k)) own 1 s

/-- Write an annex cell of a context in memory (R280). -/
def annexPut (c : CtxId) (k : Nat) (v : Cell) (s : State) : State := putCell none (annexAddr s c k) v (annexTouch c k true s)

/-- Set an annex register; the annex in memory follows unless the context stands on a ply (R280). -/
def setAx (c : CtxId) (k : Nat) (v : Datum) (s : State) : State :=
  let s' := updCtx c (fun x => axPut x k v) s
  if s.annexEn && !onPly s c && decide ((getCtx s c).st ≠ .free) then annexPut c k (rawCell v) s' else s'

/-- The bits of an annex register that are no RSV or WO field: only they are held (R7, R154, R187, R189, R198, R310, R314, R326, R328, R329, R331, R363,
R388, R518). -/
def annexMask (k : Nat) : Datum :=
  match k with
  | 0 => 0xFFFFFFFFFFF8
  | 3 => 0x01FFFFFFFFFF
  | 4 => 0xFFFFFFFFF000
  | 5 => 0x00FFFFFFFFE0
  | 6 => 0x000000000003
  | 7 => 0xFFFFFFFFFFFE
  | 9 => 0xFE1FF000FFFF
  | 10 => 0xFC00FFFF0FFF
  | 16 | 19 | 22 => 0xBF80000000FF
  | 25 => 0x000002FFFFFF
  | 26 => 0x00000000007F
  | 27 => 0xF800000000FF
  | 28 => 0xFFF07FFFFFFF
  | 29 => 0x0000FFFFFFFF
  | 30 => 0xFFFFFFF00000
  | _ => 0xFFFFFFFFFFFF

/-- An annex register as it stands: in the ply, or in the annex in memory while the context stands on none, where software may have written it
(R280, R281). A cell that cannot be read gives the value last known. -/
def axPeek (s : State) (c : CtxId) (k : Nat) : Datum :=
  let x := getCtx s c
  if !s.annexEn || onPly s c || decide (x.st = .free) then axGet x k
  else match verify (cellAt s (annexAddr s c k)) with
    | some (v, _) => cDat v &&& annexMask k
    | none => axGet x k

/-- Bit 47, the ACTIVE bit of a cause register (R326, R331). -/
def activeBit (d : Datum) : Bool := d.getLsbD 47

/-- The annex cell of SVn_CAUSE (R332). -/
def svCell (n : Nat) : Nat := 13 + 3 * n

/-- The level-n frame of a context holds an exception not yet returned from (R326). -/
def svActive (x : Ctx) (n : Nat) : Bool := activeBit (axGet x (svCell n))

/-- ROUTE of a source, 0 acting as 1 (R328). -/
def routeOf (x : Ctx) (i : Nat) : Nat := max 1 (bits (axGet x 25).toNat (8 + 2 * i) 2)

/-- The frame table of a level (1 to 3) or of the double fault (4) (R321). -/
def frameTab (s : State) (n : Nat) : Bool × PAddr := mapGet (false, 0) s.frames n

/-- Source `i` is eligible at the context's level (R335, R356). -/
def eligible (s : State) (x : Ctx) (i : Nat) : Bool :=
  let r := routeOf x i
  let l := x.level.toNat
  bitN (axGet x 26).toNat i && !bitN (axGet x 25).toNat i && (frameTab s r).1 && !activeBit (axGet x 27) &&
    (decide (r > l) || (decide (r = l) && !svActive x l))

/-- The eligible source with the highest ROUTE, the lowest source among those (R336). -/
def bestSource (s : State) (x : Ctx) : Option Nat :=
  let pick (r : Nat) := (upto 7).find? fun i => eligible s x i && decide (routeOf x i = r)
  match pick 3 with
  | some i => some i
  | none => match pick 2 with
    | some i => some i
    | none => pick 1

/-- Hold an item for a context that is MOVING (R269). -/
def holdItem (c : CtxId) (i : HeldItem) (s : State) : State := updCtx c (fun x => { x with heldItems := x.heldItems ++ [i] }) s

/-- The context is MOVING, and waits for an event (R266, R269). -/
def movingWait (x : Ctx) : Bool :=
  decide (x.st = .moving) && (decide (x.movedFrom = .waiting) || (decide (x.movedFrom = .suspended) && decide (x.suspFrom = .waiting)))

/-- Wake a waiting context with a reason (R296, R297); a suspended one records it (R266), and for a moving one the event is held (R269). -/
def wakeCtx (c : CtxId) (reason : BitVec 3) (s : State) : State :=
  let x := getCtx s c
  if x.st = .waiting then makeReady c (updCtx c (fun x => { x with wait := none, wake := reason }) s)
  else if x.st = .suspended ∧ x.suspFrom = .waiting ∧ x.wakeRec = false then
    updCtx c (fun x => { x with wait := none, wake := reason, wakeRec := true }) s
  else if movingWait x then holdItem c (.wake reason) s
  else s

/-- An event for a context comes to its home skein, and from there to the skein where it is; both wake (R27, R269, R639). One for a moving context
stays at the home skein. -/
def heard (c : CtxId) (s : State) : State :=
  let home := spSk (homeSp c)
  let s := reach (skSector home) home s
  if (getCtx s c).st = .moving then s else reach (skSector home) (getCtx s c).skein s

/-- An event, message, doorbell or command for a context comes from a sector (R26, R269). -/
def hear (src : BitVec 2) (c : CtxId) (s : State) : State := heard c (fabric src (skSector (spSk (homeSp c))) s)

/-- Set a pending interrupt bit of a context (R329), which hears of it (R269, R639); a waiting context with an eligible source wakes (R296).
A FREE number is left alone, and for a moving context the interrupt is held (R269). -/
def raiseIrq (c : CtxId) (i : Nat) (s : State) : State :=
  let x := getCtx s c
  if x.st = .free then s
  else if x.st = .moving then holdItem c (.irq i) (heard c s)
  else
  let s := setAx c 26 (axPeek s c 26 ||| dat (2 ^ i)) (heard c s)
  if (bestSource s (getCtx s c)).isSome then wakeCtx c 5 s else s

/-! ## The error log (R704 to R718) -/

/-- Notify software of an event: source 3 at context 0 and at the affected context (R713). -/
def notify (c : Option CtxId) (s : State) : State :=
  let z := getCtx s 0
  let ok0 := decide (z.st ≠ .free) && !z.hv
  let okc : Bool := match c with
    | some c => let x := getCtx s c; decide (x.st ≠ .free) && decide (x.st ≠ .suspended)
    | none => false
  let s := if ok0 then raiseIrq 0 3 s else s
  let s := match c with
    | some c => if okc then raiseIrq c 3 s else s
    | none => s
  if ok0 || okc then s else { (logOnly 0x1E 4 39 0 c none 0 s) with recLast := s.recLast }

/-- Count, record and, for severities 2 and 3, notify (R713, R734). Lost memory data begins condition 4 (R673). -/
def logEvent (event sev domain unit : Nat) (c : Option CtxId) (addr : Option Nat) (detail : Nat) (s : State) : State :=
  let s := logOnly event sev domain unit c addr detail s
  let s := if event = 0x0A ∨ event = 0x0C ∨ event = 0x0F ∨ event = 0x23 then condSet 4 false s else s
  if sev = 2 ∨ sev = 3 then notify c s else s

/-! ## Verified reads -/

/-- Wrong bits of the array code of a cell (R434). -/
def arrBits (s : State) (a : PAddr) : Nat := bits (mapGet 0 s.arrErr a.toNat : BitVec 23).toNat 0 8

/-- The array that holds the wrong bits: 0 DRAM, 1 the skein cache, 3 the level-1 cache; and the spindle that wrote them. -/
def arrTarget (s : State) (a : PAddr) : Nat := bits (mapGet 0 s.arrErr a.toNat : BitVec 23).toNat 8 4
def arrSpindle (s : State) (a : PAddr) : SpId := (mapGet 0 s.arrErr a.toNat : BitVec 23).extractLsb' 12 9

/-- The error is gone on a re-read (R435, Transient), and it is still there after the location was rewritten (Hard). -/
def arrTransient (s : State) (a : PAddr) : Bool := (mapGet 0 s.arrErr a.toNat : BitVec 23).extractLsb' 21 2 = 1
def arrHard (s : State) (a : PAddr) : Bool := (mapGet 0 s.arrErr a.toNat : BitVec 23).extractLsb' 21 2 = 2

/-- The cached copy with wrong bits is clean, so that the line can be fetched again (R435). -/
def arrClean (s : State) (a : PAddr) : Bool :=
  let k := getSk s (spSk (arrSpindle s a))
  decide (arrTarget s a ≠ 0) && (match skFind k (lineOf a) with
    | some w => decide ((skAt k (skSet (lineOf a)) w).st ≠ .modified)
    | none => false)

/-- The cell has an array-code error that its code cannot correct in its only copy, or is poisoned (R435, R436, R707). -/
def cellBad (s : State) (a : PAddr) : Bool :=
  mapGet false s.poisoned a.toNat || ((decide (1 < weight (arrBits s a)) || (arrHard s a && decide (arrTarget s a ≠ 0))) && !arrTransient s a && !arrClean s a)

/-- An event at a place, with FLAGS bit 3 where an injection made it (R717, R719). -/
def logInj (inj : Bool) (event sev domain unit : Nat) (c : Option CtxId) (addr : Nat) (detail : Nat) (s : State) : State :=
  let t := logEvent event sev domain unit c (some addr) detail (if inj then { s with injMarks := addr :: s.injMarks } else s)
  if inj then { t with injMarks := s.injMarks } else t

/-- A line whose cell shows an error after the rewrite leaves its cache, and its place is to be retired (R435, R438). -/
def arrRetire (q : SpId) (t ln : Nat) (s : State) : State :=
  let k := spSk q
  if t = 3 then match l1Find (getSp s q) ln with
    | some i => addDue [{ place := .unit (.l1Line q (BitVec.ofNat 6 i)), event := 0, retire := true }]
        (updSp q (fun p => { p with l1 := mapSet {} p.l1 i { retired := true } }) (l1Drop q ln s))
    | none => s
  else match skFind (getSk s k) ln with
    | some w => addDue [{ place := .unit (.line k (BitVec.ofNat 12 (skSet ln)) (BitVec.ofNat 4 w)), event := 0, retire := true }]
        (updSk k (fun x => { x with cache := mapSet {} x.cache (skSet ln * 16 + w) { retired := true } }) (skDrop k ln s))
    | none => s

/-- A cell whose location is wrong again after the rewrite: the record, and its line retired (R435, Hard). -/
def arrHardFix (hard inj : Bool) (q : SpId) (t ln : Nat) (p : Nat × Nat × Nat) (c : Option CtxId) (n : Nat) (s : State) : State :=
  if hard then logInj inj 0x03 2 p.1 p.2.1 c p.2.2 n (arrRetire q t ln s) else s

/-- The array code of a cell as it is read (R435, R436, R707): one wrong bit is corrected and rewritten; more are gone on the re-read of a transient
error, are fetched again where the copy is a clean cached one, which the consumer does not see, and lose the line otherwise, which then is poisoned and
leaves the caches: true. A hard error of a cache retires the line, and the cell counts as uncorrectable. -/
def arrCheck (c : Option CtxId) (a : PAddr) (s : State) : Bool × State :=
  let n := arrBits s a
  let t := arrTarget s a
  let q := arrSpindle s a
  let ln := lineOf a
  if mapGet 0 s.arrErr a.toNat = 0 then (false, s)
  else
    let clean := arrClean s a
    let p : Nat × Nat × Nat := if t = 0 then (36, 192 + chanOf ln, a.toNat) else if t = 3 then l1Place q ln s else cachePlace (spSk q) ln s
    let inj := s.injMarks.contains a.toNat
    let gone := arrTransient s a
    let hard := arrHard s a && decide (t ≠ 0)
    let s := { s with arrErr := mapSet 0 s.arrErr a.toNat 0 }
    let s := arrHardFix hard inj q t ln p c n s
    if weight n = 1 ∧ !hard then (false, logInj inj (if t = 0 then 0x08 else 0x01) 0 p.1 p.2.1 c p.2.2 n (clearRes ln none s))
    else if gone then (false, logInj inj (if t = 0 then 0x09 else 0x02) 1 p.1 p.2.1 c p.2.2 n s)
    else if clean then (false, s)
    else (true, logInj inj (if t = 0 then 0x0A else 0x04) 3 p.1 p.2.1 c p.2.2 n (poisonLn ln (if t = 0 then s else skDrop (spSk q) ln s)))

/-- Read and verify a cell (R40, R42): the delivered cell, or none when it is uncorrectable. A correction is written back
and ends every reservation on the line (R43); both outcomes are counted and logged (R716). -/
def readCell (c : Option CtxId) (a : PAddr) (s : State) : Option Cell × State :=
  let v := cellAt s a
  if mapGet false s.poisoned a.toNat then (none, logEvent 0x0F 3 36 0 c (some a.toNat) 0 s)
  else match arrCheck c a s with
  | (true, s) => (none, s)
  | (false, s) => match verify v with
    | some (v', false) => (some v', s)
    | some (v', true) =>
      (some v', logEvent 0x0E 0 36 0 c (some a.toNat) (syndrome v).toNat (clearRes (lineOf a) none (putRaw a v' s)))
    | none => (none, logEvent 0x0F 3 36 0 c (some a.toNat) (syndrome v).toNat s)

/-- Read a cell for a context at a virtual address; an uncorrectable cell raises the cell check fault (R44). -/
def xRead (c : CtxId) (va : VAddr) (a : PAddr) : X Cell := fun s =>
  match readCell (some c) a s with
  | (some v, s) => .ok v s
  | (none, s) => .error (.exc { code := 0x01, info := va }) s

/-! ## Registers and landings -/

/-- A word register as stored; w0 is nil (R75). -/
def wGet (x : Ctx) (r : BitVec 5) : Cell := if r = 0 then nilCell else mapGet 0 x.w r.toNat

/-- A word register written now; w0 discards (R75), and CHECK is recomputed (R77). -/
def wSet (x : Ctx) (r : BitVec 5) (v : Cell) : Ctx := if r = 0 then x else { x with w := mapSet 0 x.w r.toNat (sealCell v) }

/-- Verify a cell that was read from a word register: a corrected cell rewritten while the register still holds it, an uncorrectable one the cell
check fault with INFO 0 (R43, R77, R333). -/
def wCheck (c : CtxId) (r : BitVec 5) (v : Cell) : X Cell := fun s =>
  let unit := 32 + physPos (getSk s (spSk (spOf s c))) (spLs (spOf s c))
  let dom := (spSk (spOf s c)).toNat
  match verify v with
  | some (v', false) => .ok v' s
  | some (v', true) =>
    .ok v' (logEvent 0x0E 0 dom unit (some c) none (syndrome v).toNat (if wGet (getCtx s c) r = v then updCtx c (fun x => wSet x r v') s else s))
  | none => .error (.exc { code := 0x01 }) (logEvent 0x0F 3 dom unit (some c) none (syndrome v).toNat s)

/-- An operand read from a word register, verified. -/
def wRead (c : CtxId) (r : BitVec 5) : X Cell := fun s => wCheck c r (wGet (getCtx s c) r) s

/-- A predicate; p0 is 1 (R78). -/
def pGet (x : Ctx) (n : BitVec 3) : Bool := n = 0 || x.preds.getLsbD n.toNat

/-- A predicate written now; p0 discards (R78). -/
def pSet (x : Ctx) (n : BitVec 3) (v : Bool) : Ctx := if n = 0 then x else { x with preds := setBit x.preds n.toNat v }

/-- Land a value in a target `d` slots after the context's slot (R96). w0 and p0 make no landing (R99). -/
def land (c : CtxId) (d : Nat) (t : Tgt) (v : BitVec 64) : X Unit := xMod fun s =>
  if t = .word 0 ∨ t = .pred 0 then s
  else updCtx c (fun x => { x with land := x.land ++ [{ slot := x.flow.slot + d, tgt := t, val := v }] }) s

/-- Land a cell in a word register. -/
def landW (c : CtxId) (d : Nat) (r : BitVec 5) (v : Cell) : X Unit := land c d (.word r) v

/-- Land a bit in a predicate. -/
def landP (c : CtxId) (d : Nat) (n : BitVec 3) (v : Bool) : X Unit := land c d (.pred n) ((b1 v).setWidth 64)

/-- Land STATUS at distance 3 (R95). -/
def landS (c : CtxId) (f : BitVec 5) : X Unit := land c 3 .status (f.setWidth 64)

/-! ## Instruction cache -/

/-- Fill an instruction-cache line with its eight cells, as its arrays and poison let them be read (R404, R435, R436): the way it takes. A fill that was in
flight when the spindle applied an INVAL is installed invalid (R427). -/
def icFill (c : CtxId) (q : SpId) (ln : Nat) (inv : Bool) (s : State) : Nat × State :=
  let s := (upto 8).foldl (fun s i => (arrCheck (some c) (paOf (ln * 8 + i)) s).2) s
  let cells := (upto 8).map fun i => cellAt s (paOf (ln * 8 + i))
  let bad := (upto 8).map fun i => mapGet false s.poisoned (ln * 8 + i)
  let w := icVictim (getSp s q) (ln % 64)
  (w, updSp q (fun p =>
    icTouch (ln % 64) w { p with ic := mapSet {} p.ic (ln % 64 * 4 + w) { valid := !inv, ln := ln, cells := cells, bad := bad } }) s)

/-! ## Flags -/

/-- The STATUS flags Z N C V U (R90). -/
def flagsOf (z n c v u : Bool) : BitVec 5 := b1 u ++ b1 v ++ b1 c ++ b1 n ++ b1 z

end Sys2Proof.Machine
end

