-- ==== Sys2Proof/Machine/Translate.lean ====
section
/-! DEFINITION. Physical regions, hank grants, segment descriptors, page entries, the probe and the order of checks (R359 to R403). -/

namespace Sys2Proof.Machine

/-- The kinds of access (R370, R388): their codes are XLSTAT.ACC. -/
inductive Acc where
  | read | write | fetch | rw
deriving DecidableEq, Repr

/-- XLSTAT.ACC of an access kind (R388). -/
def accCode (k : Acc) : BitVec 2 :=
  match k with
  | .read => 0
  | .write => 1
  | .fetch => 2
  | .rw => 3

/-- The access reads. -/
def accReads (k : Acc) : Bool := k = .read || k = .rw

/-- The access writes. -/
def accWrites (k : Acc) : Bool := k = .write || k = .rw

/-- The regions of the physical address map (R360, R361). -/
inductive Region where
  | dram | absent | host | device
deriving DecidableEq, Repr

/-- The region of a physical cell address; DRAM above the installed capacity is absent (R361). -/
def regionOf (s : State) (a : PAddr) : Region :=
  let n := a.toNat
  if n < 0x6000000000 then (if n < s.dram then .dram else .absent)
  else if n < 0x8000000000 then .absent
  else if n < 0xC000000000 then .host
  else if n < 0xC100000000 then .device
  else .absent

/-- A hank. -/
def getHank (s : State) (h : BitVec 6) : Hank := mapGet {} s.hanks h.toNat

/-- Store a hank. -/
def setHank (s : State) (h : BitVec 6) (x : Hank) : State := { s with hanks := mapSet {} s.hanks h.toNat x }

/-- Change a hank. -/
def updHank (h : BitVec 6) (f : Hank → Hank) (s : State) : State := setHank s h (f (getHank s h))

/-- A hank owns a spindle (R551). -/
def hankOwns (g : HankCfg) (p : SpId) : Bool := g.spmask.getLsbD p.toNat

/-- How far cells are covered without a gap from `p` on, by a list of ranges: at most `k` of them are joined. -/
def coverTo (rs : List (Nat × Nat)) : Nat → Nat → Nat
  | 0, p => p
  | k + 1, p => match rs.find? fun r => decide (r.1 ≤ p ∧ p < r.2) with
    | some r => coverTo rs k r.2
    | none => p

/-- The cells lo to lo + n - 1 lie in the union of a list of ranges. -/
def covered (rs : List (Nat × Nat)) (lo n : Nat) : Bool := decide (lo + n ≤ coverTo rs rs.length lo)

/-- The DRAM ranges of a hank that are not disabled (R552). -/
def dramRanges (g : HankCfg) : List (Nat × Nat) :=
  ((upto 4).map fun k => ((mapGet 0 g.dbase k).toNat, (mapGet 0 g.dlim k).toNat)).filter fun r => decide (r.1 < r.2)

/-- The cells lo to lo + n - 1 lie in the hank's DRAM ranges (R552). -/
def inDramGrant (g : HankCfg) (lo n : Nat) : Bool := covered (dramRanges g) lo n

/-- The L1 frame pages of a hank's spindles (R552). -/
def frameRanges (s : State) (g : HankCfg) : List (Nat × Nat) :=
  if (frameTab s 1).1 then
    ((upto 512).filter fun p => hankOwns g (BitVec.ofNat 9 p)).map fun p =>
      ((frameTab s 1).2.toNat + 4096 * p, (frameTab s 1).2.toNat + 4096 * p + 4096)
  else []

/-- The cells lo to lo + n - 1 lie in the hank's memory grant, each in some part of it (R552). -/
def inGrant (s : State) (h : BitVec 6) (lo n : Nat) : Bool :=
  let g := (getHank s h).cur
  inDramGrant g lo n || covered (dramRanges g ++ [(g.hwbase.toNat, g.hwlim.toNat)] ++ frameRanges s g) lo n

/-- The context may reach the cells: contexts with HV = 0 are not checked (R555). -/
def ctxGrant (s : State) (x : Ctx) (lo n : Nat) : Bool := !x.hv || inGrant s x.hank lo n

/-- The space tag of a context (R364). -/
def spaceTag (x : Ctx) : BitVec 12 := (axGet x 28).extractLsb' 36 12

/-- Raise a translation fault and record it in XLSTAT (R388). -/
def xlFault {α : Type} (c : CtxId) (code : BitVec 8) (info : Datum) (kind : Nat) (phys ps : Bool) (va : VAddr) (k : Acc) : X α :=
  fun s =>
    let x := getCtx s c
    let busy := (axGet x 30).extractLsb' 47 1
    let v : Datum := busy ++ spaceTag x ++ accCode k ++ BitVec.ofNat 3 kind ++ b1 phys ++ b1 ps ++ vSeg va ++ (0 : BitVec 20)
    .error (.exc { code := code, info := info }) (setAx c 30 v s)

/-- The limit fault of an effective address outside its segment's offsets (R130, R385 order 1), and the address otherwise. -/
def xEa (c : CtxId) (base : VAddr) (d : Int) (k : Acc) : X VAddr :=
  match vAdd base d with
  | some a => pure a
  | none => xlFault c 0x50 (vAddW base d) 0 false false base k

/-- The kind of walk fault of a table line of 8 cells (R387), 0 when it can be read. -/
def walkKind (s : State) (x : Ctx) (line : PAddr) : Nat :=
  match regionOf s line with
  | .absent => 1
  | .device => 2
  | .host => 3
  | .dram => if ctxGrant s x line.toNat 8 then 0 else 5

/-- Read a table line for a walk: its cells, or the walk fault (R372, R381, R387). -/
def xWalkLine (c : CtxId) (at_ : PAddr) (va : VAddr) (k : Acc) : X (List Cell) := fun s =>
  let line := paOf (at_.toNat / 8 * 8)
  let x := getCtx s c
  let kd := walkKind s x line
  if kd ≠ 0 then xlFault c 0x59 (at_.setWidth 48) kd false false va k s
  else match xLine c x.skein (wayMaskFor (getSk s x.skein) (getHank s x.hank).cur.waymask x.hv) (line.toNat / 8) false 1 s with
  | .error e s => .error e s
  | .ok _ s =>
    let r := (upto 8).foldl (fun (acc : (List Cell × Option PAddr) × State) i =>
      let a := paOf (line.toNat + i)
      match readCell (some c) a acc.2 with
      | (some v, s) => ((acc.1.1 ++ [v], acc.1.2), s)
      | (none, s) => ((acc.1.1 ++ [0], if acc.1.2.isNone then some a else acc.1.2), s)) (([], none), s)
    match r.1.2 with
    | some bad => xlFault c 0x59 (bad.setWidth 48) 4 false false va k r.2
    | none => .ok r.1.1 r.2

/-! ## Segment descriptors (R366 to R372) -/

/-- A descriptor with V = 1 is malformed (R366, R369). -/
def descBad (d : DescEnt) : Bool :=
  let d0 := d.d0.toNat
  let d1 := d.d1.toNat
  let mt := bits d1 45 2
  let phys := bitN d1 44
  let lim := bits d1 0 35
  let base := d0 / 64 * 64
  !d.raw || decide (mt = 3) || bitN d0 0 || decide (bits d1 35 2 ≠ 0) || decide (lim > 2 ^ 34) ||
    decide (base + 64 * lim > (if phys then 2 ^ 40 else 2 ^ 48)) || (bitN d0 1 && decide (mt ≠ 0)) ||
    (phys && (decide (bits d0 4 2 = 0) || decide (bits d1 37 2 = 0) || decide (bits d0 2 2 = 0)))

/-- D1 as the walk keeps it. A D1 cell that is not RAW has no fields: it makes the descriptor malformed (R366), which V = 0 would
hide (R369), so V is kept as 1 and every other field as 0. -/
def descD1 (b : Cell) : Datum := if cTyp b = tRAW then cDat b else BitVec.ofNat 48 (2 ^ 47)

/-- The descriptor of a segment: the cached one, moved to the front, or the one the walk reads and caches. Without `arr` a
miss waits (R372, R389). -/
def xDesc (c : CtxId) (arr : Bool) (va : VAddr) (k : Acc) : X DescEnt := fun s =>
  let x := getCtx s c
  let q := ctxSp x
  let t := spaceTag x
  let sg := vSeg va
  let hit (d : DescEnt) : Bool := decide (d.tag = t) && decide (d.seg = sg)
  match (getSp s q).desc.find? hit with
  | some d => .ok d (updSp q (fun p => { p with desc := d :: p.desc.filter fun e => !hit e }) s)
  | none =>
    if !arr then .error .wait s
    else
      let cell := paOf (512 * bits (axGet x 28).toNat 0 31 + 2 * sg.toNat)
      match xWalkLine c cell va k s with
      | .error e s => .error e s
      | .ok cs s =>
        let a := cs.getD (cell.toNat % 8) 0
        let b := cs.getD (cell.toNat % 8 + 1) 0
        let d : DescEnt := { tag := t, seg := sg, d0 := cDat a, d1 := descD1 b, raw := decide (cTyp a = tRAW) && decide (cTyp b = tRAW) }
        .ok d (updSp q (fun p => { p with desc := (d :: p.desc).take 64 }) s)

/-! ## Page entries (R376 to R383) -/

/-- The page size of an entry in cells. -/
def pageSize (e1 : Datum) : Nat := if e1.getLsbD 45 then 2097152 else 4096

/-- An entry matches an access of a space tag at a linear address (R378). -/
def entMatch (e0 e1 : Datum) (t : BitVec 12) (lin : Nat) : Bool :=
  let sh := if e1.getLsbD 45 then 9 else 0
  e1.getLsbD 47 && (e1.getLsbD 46 || decide (bits e0.toNat 36 12 = t.toNat)) &&
    decide (bits e0.toNat 0 36 / 2 ^ sh = lin / 4096 / 2 ^ sh)

/-- The entry of a TLB that matches, if any. -/
def tlbFind (tlb : SMap TlbEnt) (t : BitVec 12) (lin : Nat) : Option TlbEnt :=
  match tlb.find? fun e => entMatch e.2.e0 e.2.e1 t lin with
  | some e => some e.2
  | none => none

/-- The slot an install takes and the victim pointer after it (R379). -/
def tlbSlot (tlb : SMap TlbEnt) (size vict : Nat) : Nat × Nat :=
  let ent (i : Nat) : TlbEnt := mapGet {} tlb i
  match (upto size).find? fun i => !(ent i).locked && !(ent i).e1.getLsbD 47 with
  | some i => (i, vict)
  | none =>
    match (upto size).find? fun j => !(ent ((vict + j) % size)).locked with
    | some j => ((vict + j) % size, ((vict + j) % size + 1) % size)
    | none => (0, vict)

/-- Install an entry in the DTLB. -/
def dtlbIns (e : TlbEnt) (p : Spindle) : Spindle :=
  let r := tlbSlot p.dtlb 128 p.dVict
  { p with dtlb := mapSet {} p.dtlb r.1 e, dVict := r.2 }

/-- Install an entry in the ITLB. -/
def itlbIns (e : TlbEnt) (p : Spindle) : Spindle :=
  let r := tlbSlot p.itlb 32 p.iVict
  { p with itlb := mapSet {} p.itlb r.1 e, iVict := r.2 }

/-- The bucket index of the probe (R381). -/
def probeIndex (pg size tag k : Nat) : Nat := ((pg ^^^ (pg / 2 ^ size)) ^^^ (tag ^^^ k)) % 2 ^ size

/-- E1 as probed for a context: G is forced to 0 for HV = 1 (R378). -/
def forceG (hv : Bool) (e1 : Datum) : Datum := if hv then setBit e1 46 false else e1

/-- The first entry of a bucket that matches with the wanted page size (R381). -/
def bucketFind (cs : List Cell) (hv : Bool) (t : BitVec 12) (lin : Nat) (large : Bool) : Option TlbEnt :=
  match (upto 4).find? fun j =>
      let a := cs.getD (2 * j) 0
      let b := cs.getD (2 * j + 1) 0
      decide (cTyp a = tRAW) && decide (cTyp b = tRAW) && decide ((cDat b).getLsbD 45 = large) &&
        entMatch (cDat a) (forceG hv (cDat b)) t lin with
  | some j => some { e0 := cDat (cs.getD (2 * j) 0), e1 := forceG hv (cDat (cs.getD (2 * j + 1) 0)) }
  | none => none

/-- The probe of the hashed page table (R380, R381): the entry, or none. -/
def xProbe (c : CtxId) (va : VAddr) (lin : Nat) (k : Acc) : X (Option TlbEnt) := do
  let x ← xCtx c
  let cfg := (axGet x 31).toNat
  if !bitN cfg 47 then return none
  let size := bits cfg 40 5
  let base := bits cfg 0 40
  let t := spaceTag x
  let b1 ← xWalkLine c (paOf (base + 8 * probeIndex (lin / 2 ^ 12) size t.toNat 0)) va k
  match bucketFind b1 x.hv t lin false with
  | some e => return some e
  | none =>
    let b2 ← xWalkLine c (paOf (base + 8 * probeIndex (lin / 2 ^ 21) size t.toNat 0x5A5)) va k
    match bucketFind b2 x.hv t lin true with
    | some e => return some e
    | none => return none

/-- The page entry of an access (R379, R381): from a TLB, or found by the probe and installed. -/
def xPage (c : CtxId) (arr : Bool) (va : VAddr) (lin : Nat) (k : Acc) : X TlbEnt := fun s =>
  let x := getCtx s c
  let q := ctxSp x
  let t := spaceTag x
  let p := getSp s q
  let dhit := tlbFind p.dtlb t lin
  match (if k = .fetch then tlbFind p.itlb t lin else dhit) with
  | some e => .ok e s
  | none =>
    if k = .fetch ∧ (match dhit with
        | some e => e.e1.getLsbD 41
        | none => false) = true then
      match dhit with
      | some e => .ok e (updSp q (itlbIns { e with locked := false }) s)
      | none => .error .wait s
    else if !arr then .error .wait s
    else match xProbe c va lin k s with
      | .error e s => .error e s
      | .ok none s => xlFault c 0x55 va 0 false false va k s
      | .ok (some e) s =>
        let size := pageSize e.e1
        let pp := 4096 * bits e.e1.toNat 0 28 / size * size
        if !ctxGrant s x pp size then .ok e s
        else .ok e (updSp q (if k = .fetch ∧ e.e1.getLsbD 41 then itlbIns e else dtlbIns e) s)

/-- Translation of one access at a level: its physical address and memory type, or the first failing check of R385. -/
def xlate (c : CtxId) (lvl : BitVec 2) (arr : Bool) (va : VAddr) (k : Acc) : X (PAddr × Nat) := do
  let x ← xCtx c
  let d ← xDesc c arr va k
  let d0 := d.d0.toNat
  let d1 := d.d1.toNat
  let phys := bitN d1 44
  if !bitN d1 47 then xlFault c 0x52 va 6 phys false va k
  if descBad d then xlFault c 0x52 va 7 phys false va k
  let l := lvl.toNat
  if (accReads k && decide (l < bits d0 4 2)) || (accWrites k && (!bitN d1 39 || decide (l < bits d1 37 2))) ||
      (decide (k = .fetch) && (!bitN d0 1 || decide (l < bits d0 2 2))) then
    xlFault c 0x53 va 0 phys false va k
  if vOff va ≥ 64 * bits d1 0 35 then xlFault c 0x50 va 0 phys false va k
  let key := bits d1 40 4
  let kr := (axGet x 29).toNat
  if l < 2 ∧ k ≠ .fetch ∧ (bitN kr (2 * key) ∨ (accWrites k ∧ bitN kr (2 * key + 1))) then
    xlFault c 0x54 va 0 phys false va k
  let lin := d0 / 64 * 64 + vOff va
  let mt := bits d1 45 2
  let pg : PAddr × Nat × Nat ← (do
    if phys then pure (paOf lin, (paOf lin).toNat, 1)
    else
      let e ← xPage c arr va lin k
      let e1 := e.e1.toNat
      let ps := bitN e1 45
      if (accWrites k && !bitN e1 42) || (decide (k = .fetch) && !bitN e1 41) || (decide (l = 0) && !bitN e1 40) then
        xlFault c 0x56 va 0 false ps va k
      let cfg := (axGet x 31).toNat
      if !bitN e1 44 && !bitN cfg 46 then xlFault c 0x57 va 0 false ps va k
      if accWrites k && !bitN e1 43 && !bitN cfg 45 then xlFault c 0x58 va 0 false ps va k
      let size := pageSize e.e1
      pure (paOf (4096 * bits e1 0 28 / size * size + lin % size), 4096 * bits e1 0 28 / size * size, size))
  let pa := pg.1
  let s ← get
  if !ctxGrant s x pg.2.1 pg.2.2 then xlFault c 0x5C (pa.setWidth 48) 0 phys false va k
  match regionOf s pa with
  | .absent => xlFault c 0x5A (pa.setWidth 48) 0 phys false va k
  | .dram => if mt = 0 then pure (pa, mt) else xlFault c 0x51 va 0 phys false va k
  | .device => if mt = 1 then pure (pa, mt) else xlFault c 0x51 va 0 phys false va k
  | .host => if mt = 2 then pure (pa, mt) else xlFault c 0x51 va 0 phys false va k

/-- Translation that requires memory of type NORMAL (R385 order 12). -/
def xlateNormal (c : CtxId) (lvl : BitVec 2) (arr : Bool) (va : VAddr) (k : Acc) : X PAddr := do
  let r ← xlate c lvl arr va k
  if r.2 ≠ 0 then do
    let d ← xDesc c arr va k
    xlFault c 0x51 va 0 (bitN d.d1.toNat 44) false va k
  pure r.1

/-- Translation for PREF: never faults, and a check that fails leaves everything as it was (R403). -/
def prefXlate (c : CtxId) (lvl : BitVec 2) (va : VAddr) (s : State) : Option PAddr × State :=
  match xNow (xlate c lvl true va .read) 8 s with
  | .ok r s' => (if r.2 = 0 then some r.1 else none, s')
  | .error _ _ => (none, s)

/-! ## Invalidation (R391 to R402) -/

/-- The first linear address and the size of the page an E0, E1 pair names. -/
def pageSpan (e0 e1 : Datum) : Nat × Nat :=
  let sz := pageSize e1
  (4096 * bits e0.toNat 0 36 / sz * sz, sz)

/-- An entry would match an access somewhere in a page under a tag (R391, R392). -/
def entOverlap (e : TlbEnt) (t : Nat) (lo size : Nat) : Bool :=
  let sp := pageSpan e.e0 e.e1
  e.e1.getLsbD 47 && (e.e1.getLsbD 46 || decide (bits e.e0.toNat 36 12 = t)) && decide (sp.1 < lo + size ∧ lo < sp.1 + sp.2)

/-- Remove the entries of both TLBs that a test names; locked ones only when asked. -/
def tlbRemove (f : TlbEnt → Bool) (locked : Bool) (p : Spindle) : Spindle :=
  let keep (e : Nat × TlbEnt) : Bool := !(f e.2 && (locked || !e.2.locked))
  { p with dtlb := p.dtlb.filter keep, itlb := p.itlb.filter keep }

/-- Apply an invalidation on one spindle. `space (lo, hi)` names tags lo to hi; with `all`, global entries too. -/
def invApply (o : InvOp) (p : Spindle) : Spindle :=
  match o with
  | .page e0 lk => tlbRemove (fun e => entOverlap e (bits e0.toNat 36 12) (4096 * bits e0.toNat 0 36) 4096) lk p
  | .seg t sg => { p with desc := p.desc.filter fun d => !(decide (d.tag = t) && decide (d.seg = sg)) }
  | .space (lo, hi) all lk =>
    let inr (t : Nat) : Bool := decide (lo ≤ t ∧ t ≤ hi)
    let p := tlbRemove (fun e => inr (bits e.e0.toNat 36 12) && (all || !e.e1.getLsbD 46)) lk p
    { p with desc := p.desc.filter fun d => !inr d.tag.toNat }

/-- Remove every unlocked entry and every cached descriptor (R402). -/
def tlbFlush (p : Spindle) : Spindle :=
  { p with dtlb := p.dtlb.filter fun e => e.2.locked, itlb := p.itlb.filter fun e => e.2.locked, desc := [] }

end Sys2Proof.Machine
end

