-- ==== Sys2Proof/Machine/Barrier.lean ====
section
/-! DEFINITION. The collector's barriers: collector blocks, regions, relocation, granule copies, heals, the mark queue and cards
(R483 to R508). -/

namespace Sys2Proof.Machine

/-- A skein's copy of the collector block of a tag; empty while COLBASE.EN = 0 (R485, R487). -/
def blockAt (s : State) (k : SkId) (tag : BitVec 12) : ColBlock :=
  if s.colEn then mapGet {} (getSk s k).blocks tag.toNat else {}

/-- The cell address of SC0 of a tag (R486). -/
def cbAddr (s : State) (tag : BitVec 12) (i : Nat) : PAddr := paOf (s.colBase.toNat + 16 * tag.toNat + i)

/-- The collector block a context sees. -/
def blockOf (s : State) (c : CtxId) : ColBlock := blockAt s (getCtx s c).skein (spaceTag (getCtx s c))

/-- SC0 and SC1 fields (R486). -/
def cbEn (b : ColBlock) : Bool := b.sc0.getLsbD 47
def cbMark (b : ColBlock) : Bool := b.sc0.getLsbD 46
def cbCard (b : ColBlock) : Bool := b.sc0.getLsbD 45
def cbGood (b : ColBlock) : BitVec 2 := b.sc0.extractLsb' 40 2
def cbRact (b : ColBlock) (q : Nat) : Bool := b.sc0.getLsbD (36 + q)
def cbLo (b : ColBlock) : Nat := bits b.sc1.toNat 40 8
def cbHi (b : ColBlock) : Nat := bits b.sc1.toNat 32 8
def cbRsh (b : ColBlock) : Nat := bits b.sc1.toNat 27 5
def cbRps (b : ColBlock) : Nat := bits b.sc1.toNat 22 5
def cbGsh (b : ColBlock) : Nat := bits b.sc1.toNat 18 4
def cbCsh (b : ColBlock) : Nat := bits b.sc1.toNat 14 4
def cbRtab (b : ColBlock) : Nat := bits b.sc2.toNat 0 40
def cbCtab (b : ColBlock) : Nat := bits b.sc3.toNat 0 40
def cbMqs (b : ColBlock) : Nat := bits b.sc4.toNat 44 4
def cbMqb (b : ColBlock) : Nat := bits b.sc4.toNat 0 40

/-- The good colour of a context's space, 0 while COLBASE.EN = 0 (R516). -/
def goodOf (s : State) (c : CtxId) : BitVec 2 := cbGood (blockOf s c)

/-- A cell is subject to the barriers of a block (R484). -/
def subjectTo (b : ColBlock) (v : Cell) : Bool :=
  isPtr (cTyp v) && decide (cTyp v ≠ tFWD) && decide (cCol v ≠ 3) && cbEn b

/-- A cell is bad: subject to the barriers and not of the good colour (R484, R55). -/
def isBad (b : ColBlock) (v : Cell) : Bool := subjectTo b v && decide (cCol v ≠ cbGood b)

/-- The region number of an address in the heap (R488). -/
def heapRegion (b : ColBlock) (a : VAddr) : Option Nat :=
  let sg := (vSeg a).toNat
  let r := vOff a / 2 ^ cbRsh b
  if cbLo b ≤ sg ∧ sg ≤ cbHi b ∧ r < 2 ^ cbRps b then some ((sg - cbLo b) * 2 ^ cbRps b + r) else none

/-- A collector table cell: its datum, or the kind of collector-table error (R498, R499). -/
def tableCell (s : State) (x : Ctx) (a : PAddr) : Nat × Datum × State :=
  if regionOf s a ≠ .dram then (1, 0, s)
  else if !ctxGrant s x a.toNat 1 then (4, 0, s)
  else match readCell none a s with
    | (none, s) => (2, 0, s)
    | (some v, s) => if cTyp v = tRAW then (0, cDat v, s) else (3, 0, s)

/-- The collector-table fault with its kind and cell address (R498). -/
def tableFault {α : Type} (kind : Nat) (a : PAddr) : X α := xFault 0x45 (BitVec.ofNat 3 kind ++ (0 : BitVec 5) ++ a)

/-- Bring the line of a cell to the skein cache for a unit that works for a context, under the mask of its owner (R409, R416 to R418). -/
def xUnitLine (c : CtxId) (k : SkId) (a : PAddr) (own : Bool) (age : BitVec 2) : X Unit := fun s =>
  let x := getCtx s c
  xLine c k (wayMaskFor (getSk s k) (getHank s x.hank).cur.waymask x.hv) (lineOf a) own age s

/-- Read a collector table cell for a context, through the skein cache at an age (R417), or raise the collector-table fault. -/
def xTable (c : CtxId) (k : SkId) (age : BitVec 2) (a : PAddr) : X Datum := fun s =>
  if regionOf s a ≠ .dram ∨ !ctxGrant s (getCtx s c) a.toNat 1 then tableFault (if regionOf s a ≠ .dram then 1 else 4) a s
  else match xUnitLine c k a false age s with
    | .error e s => .error e s
    | .ok _ s => match tableCell s (getCtx s c) a with
      | (0, d, s) => .ok d s
      | (k, _, s) => tableFault k a s

/-- STATE, RSEQ, AGE and RTB of a region entry (R488). -/
def reState (e : Datum) : Nat := bits e.toNat 46 2
def reSeq (e : Datum) : Nat := bits e.toNat 44 2
def reAge (e : Datum) : Nat := bits e.toNat 41 3
def reRtb (e : Datum) : Nat := bits e.toNat 0 40

/-- A region entry has a set bit that must be zero, or a table address that is no multiple of 8. -/
def reBad (e : Datum) : Bool := e.getLsbD 40 || decide (reRtb e % 8 ≠ 0)

/-- A region is evacuating (R489). -/
def evacuating (b : ColBlock) (e : Datum) : Bool := decide (reState e = 1) && cbRact b (reSeq e)

/-- A region entry through a skein's cache of 64 (R492). -/
def xRegion (c : CtxId) (k : SkId) (age : BitVec 2) (b : ColBlock) (tag : BitVec 12) (r : Nat) : X Datum := fun s =>
  match (getSk s k).regs.find? fun e => decide (e.tag = tag) && decide (e.reg = r) with
  | some e => .ok e.ent s
  | none =>
    let a := paOf (cbRtab b + r)
    match xTable c k age a s with
    | .error e s => .error e s
    | .ok d s =>
      if reBad d then tableFault 3 a s
      else .ok d (updSk k (fun x => { x with regs := ({ tag := tag, reg := r, ent := d } :: x.regs).take 64 }) s)

/-- DEST and ST of a relocation entry (R489). -/
def rlDest (t : Datum) : VAddr := t &&& ~~~7#48
def rlSt (t : Datum) : Nat := bits t.toNat 1 2

/-- A relocation entry with another ST. -/
def rlWith (t : Datum) (st : Nat) : Datum := rlDest t ||| dat (2 * st)

/-- A relocation entry is malformed (R489, R490). -/
def rlBad (b : ColBlock) (t : Datum) : Bool :=
  t.getLsbD 0 || decide (vOff (rlDest t) % 2 ^ cbGsh b ≠ 0) || (heapRegion b (rlDest t)).isNone

/-- The relocation fault of a pointer (R498). -/
def relocFault {α : Type} (x : Cell) : X α := xFault 0x44 (cDat x)

/-! ## Cards (R504 to R507) -/

/-- A dropped card mark (R507). -/
def cardErr (k : SkId) (c : CtxId) (s : State) : State :=
  logEvent 0x15 4 k.toNat 0 (some c) none 0 (updSk k (fun x => { x with cbErr := true, cbCtx := c }) s)

/-- A region entry through a spindle's cache of 32 (R492), none on a table error, a malformed entry of STATE 3 among them (R488, R507). -/
def spRegion (c : CtxId) (q : SpId) (b : ColBlock) (tag : BitVec 12) (r : Nat) (s : State) : Option Datum × State :=
  match (getSp s q).regs.find? fun e => decide (e.tag = tag) && decide (e.reg = r) with
  | some e => (some e.ent, s)
  | none =>
    let a := paOf (cbRtab b + r)
    let x := getCtx s c
    let s := if regionOf s a = .dram ∧ ctxGrant s x a.toNat 1 then
        unitTouch (spSk q) (wayMaskFor (getSk s (spSk q)) (getHank s x.hank).cur.waymask x.hv) (lineOf a) false 1 s
      else s
    match tableCell s x a with
    | (0, d, s) =>
      if reBad d ∨ reState d = 3 then (none, s)
      else (some d, updSp q (fun x => { x with regs := ({ tag := tag, reg := r, ent := d } :: x.regs).take 32 }) s)
    | (_, _, s) => (none, s)

/-- The card rule may mark for a store of `v` at `a`: both lie in the heap and CARD = 1 (R504). -/
def cardWanted (b : ColBlock) (a : VAddr) (v : Cell) : Bool :=
  subjectTo b v && cbCard b && (heapRegion b a).isSome && (heapRegion b (cDat v)).isSome

/-- Determine a card mark (R504, R505): the region entries are read now. The card cell and bit, none where the store marks none. -/
def cardDue (c : CtxId) (q : SpId) (tag : BitVec 12) (a : VAddr) (v : Cell) (s : State) : Option (PAddr × Nat) × State :=
  let b := blockAt s (spSk q) tag
  if !cardWanted b a v then (none, s) else
  match heapRegion b a, heapRegion b (cDat v) with
  | some ra, some rv =>
    match spRegion c q b tag ra s with
    | (none, s) => (none, cardErr (spSk q) c s)
    | (some ea, s) => match spRegion c q b tag rv s with
      | (none, s) => (none, cardErr (spSk q) c s)
      | (some ev, s) =>
        if reAge ea ≤ reAge ev then (none, s)
        else
          let card := ra * 2 ^ (cbRsh b - cbCsh b) + vOff a % 2 ^ cbRsh b / 2 ^ cbCsh b
          let pa := paOf (cbCtab b + card / 48)
          if regionOf s pa ≠ .dram ∨ !ctxGrant s (getCtx s c) pa.toNat 1 then (none, cardErr (spSk q) c s)
          else (some (pa, card % 48), s)
  | _, _ => (none, s)

/-- Make a card mark in a line that is owned (R505, R507). -/
def cardSet (c : CtxId) (k : SkId) (p : PAddr × Nat) (s : State) : State :=
  match readCell none p.1 s with
  | (some w, s) =>
    if cTyp w = tRAW ∨ cTyp w = tUNSET then putCell (some c) p.1 (rawCell (setBit (if cTyp w = tRAW then cDat w else 0) p.2 true)) s
    else cardErr k c s
  | (none, s) => cardErr k c s

/-! ## Store-buffer entries (R451, R506) -/

/-- Entries a context holds. -/
def sbCount (p : Spindle) (c : CtxId) : Nat := (p.sb.filter fun e => e.ctx = c).length

/-- The card index of an address in a block (R505). -/
def cardIndex (b : ColBlock) (a : VAddr) : Option Nat :=
  match heapRegion b a with
  | some r => some (r * 2 ^ (cbRsh b - cbCsh b) + vOff a % 2 ^ cbRsh b / 2 ^ cbCsh b)
  | none => none

/-- Merge a list of stored cells into those of a line entry, later stores replacing earlier ones (R451). -/
def mergeCells (old new : SMap Cell) : SMap Cell := new.foldl (fun m e => mapIns e.1 e.2 (mapDel e.1 m)) old

/-- The context's youngest entry takes a store of the same line when no SBAR lies between (R451). -/
def sbMergeLine (c : CtxId) (sbar ln : Nat) (cells : SMap Cell) (sb : List SbEntry) : Option (List SbEntry) :=
  match sb.reverse.find? fun e => e.ctx = c with
  | some y =>
    match y.kind with
    | .line l old =>
      if l = ln ∧ y.sbar = sbar then
        let y' : SbEntry := { y with kind := .line ln (mergeCells old cells) }
        let r := sb.reverse
        let pre := r.takeWhile fun e => e.ctx ≠ c
        some ((pre ++ y' :: r.drop (pre.length + 1)).reverse)
      else none
    | _ => none
  | none => none

/-- A DEVICE entry of a context. -/
def isDevOf (c : CtxId) (e : SbEntry) : Bool :=
  decide (e.ctx = c) && (match e.kind with
    | .device _ _ => true
    | _ => false)

/-- The context's entry for the same card bit takes a further mark and stands after the store that caused it (R506). An entry before an
SBAR or a DEVICE store takes no mark of a store after it, since that store waits for the entry (R452, R457). -/
def sbMergeCard (c : CtxId) (sbar : Nat) (b : ColBlock) (tag : BitVec 12) (m : PAddr × VAddr × Cell) (sb : List SbEntry) :
    Option (List SbEntry) :=
  let same (e : SbEntry) : Bool :=
    decide (e.ctx = c) && decide (e.sbar = sbar) && !(sb.dropWhile fun f => f ≠ e).any (isDevOf c) && (match e.kind with
      | .card t ms => decide (t = tag) && ms.any (fun k => cardIndex b k.2.1 = cardIndex b m.2.1)
      | _ => false)
  match sb.find? same with
  | some e => (match e.kind with
    | .card _ ms => some (sb.filter (fun f => !same f) ++ [{ e with kind := .card tag (ms ++ [m]) }])
    | _ => none)
  | none => none

/-- Put one entry into the buffer of the context's spindle, merging where R451 and R506 merge; none when the context may
take no entry (R453). -/
def sbPut (c : CtxId) (e : SbEntry) (s : State) : Option State :=
  let q := spOf s c
  let p := getSp s q
  let merged := match e.kind with
    | .line ln cells => sbMergeLine c e.sbar ln cells p.sb
    | .card tag [m] => sbMergeCard c e.sbar (blockAt s (spSk q) tag) tag m p.sb
    | _ => none
  match merged with
  | some sb => some (setSp s q { p with sb := sb })
  | none => if p.sb.length ≥ 16 ∨ sbCount p c ≥ 8 then none else some (setSp s q { p with sb := p.sb ++ [e] })

/-- An entry of a context. -/
def sbEnt (c : CtxId) (n : Nat) (via : Option Via) (k : SbKind) : SbEntry := { ctx := c, sbar := n, kind := k, via := via }

/-! ## Copies, heals and the mark queue -/

/-- An access of a twist routine, a walk or the carder for a context through the skein cache of the skein where it runs (R409, R416, R418):
with `own` for a heal or a granule copy (R732). -/
def unitAcc (c : CtxId) (k : SkId) (a : PAddr) (own : Bool) (s : State) : State :=
  let x := getCtx s c
  unitTouch k (wayMaskFor (getSk s k) (getHank s x.hank).cur.waymask x.hv) (lineOf a) own 1 s

/-- A card mark made at once. -/
def cardNow (c : CtxId) (k : SkId) (tag : BitVec 12) (a : VAddr) (v : Cell) (s : State) : State :=
  match cardDue c (spOf s c) tag a v s with
  | (some p, s) => cardSet c k p (unitAcc c k p.1 true s)
  | (none, s) => s

/-- The card mark of a store by a unit of skein `k` for a context, a twist routine or the carder: it takes an entry of the context's store buffer, and
becomes visible after the store (R504, R506). A unit that stores waits for the entry before (R453); a store without one, as a reel's, is marked at
once (DESIGN CHOICE: a reel has no store buffer), with the card line owned (R409). -/
def cardMark (c : CtxId) (k : SkId) (tag : BitVec 12) (pa : PAddr) (a : VAddr) (v : Cell) (s : State) : State :=
  if !cardWanted (blockAt s k tag) a v then s
  else match sbPut c (sbEnt c (getCtx s c).sbars none (.card tag [(pa, a, v)])) s with
    | some s => s
    | none => cardNow c k tag a v s

/-- A unit that may mark a card waits while the context can take no entry (R453, R506). -/
def xCardRoom (c : CtxId) (k : SkId) (tag : BitVec 12) : X Unit := fun s =>
  let p := getSp s (spOf s c)
  if cbCard (blockAt s k tag) && (decide (p.sb.length ≥ 16) || decide (sbCount p c ≥ 8)) then .error .wait s else .ok () s

/-- A cell of a unit of the skein that verifies (R42): corrected where it can be; an uncorrectable one is recorded, and none. -/
def unitCell (c : CtxId) (k : SkId) (a : PAddr) (s : State) : Option Cell × State := readCell (some c) a (unitAcc c k a false s)

/-- Copy a claimed granule to DEST (R495), for the slow path or a reel, its lines at hand; `mark` makes the card mark of a cell written. An uncorrectable source cell writes ST := dead, and is logged
for the unit that met it (R500, R717). Answers the index of a cell that could not be read; none when the copy is complete. -/
def copyGranule (c : CtxId) (k : SkId) (unit : Nat) (mark : PAddr → VAddr → Cell → State → State) (n : Nat) (src : VAddr) (srcP : PAddr) (t : Datum) (dstP : PAddr)
    (entP : PAddr) (s : State) : Option Nat × State :=
  let r := (upto n).foldl (fun (acc : Option Nat × State) i =>
    if acc.1.isSome then acc
    else match readCell (some c) (paOf (srcP.toNat + i)) acc.2 with
      | (none, s) => (some i, s)
      | (some v, s) =>
        let a := paOf (dstP.toNat + i)
        (none, mark a (vAddW (rlDest t) i) v (putCell (some c) a v s))) (none, s)
  match r.1 with
  | none => (none, putCell (some c) entP (rawCell (rlWith t 3)) r.2)
  | some i => (some i,
      logEvent 0x14 3 k.toNat unit (some c) (some (srcP.toNat + i)) src.toNat (putCell (some c) entP (rawCell (rlWith t 0)) r.2))

/-- The lines of a granule copy in the skein cache: the source read at an age, the destination and the relocation entry owned (R409, R417, R732). -/
def xGranule (c : CtxId) (k : SkId) (age : BitVec 2) (n : Nat) (srcP dstP entP : PAddr) : X Unit := do
  let ls := upto ((n + 7) / 8)
  ls.forM fun i => xUnitLine c k (paOf (srcP.toNat + 8 * i)) false age
  ls.forM fun i => xUnitLine c k (paOf (dstP.toNat + 8 * i)) true 1
  xUnitLine c k entP true 1

/-- UNIT of a twist unit in a record: the unit of the skein that works for the context (R717). -/
def twUnitNo (c : CtxId) (k : Skein) : Nat :=
  match k.units.find? fun u => u.2.req.any fun r => decide (r.ctx = c) with
  | some u => 64 + u.1
  | none => 64

/-- Push a healed pointer on the mark queue of its space in a skein, or set OVF (R502). TAIL and HEAD are verified (R42); where one
cannot be read, the push is not made. -/
def markPush (b : ColBlock) (c : CtxId) (k : SkId) (y : Cell) (s : State) : State :=
  let n := 2 ^ cbMqs b
  let q := cbMqb b + k.toNat * (n + 8)
  let ovf (s : State) : State := putCell none (paOf (q + 2)) (rawCell 1) (unitAcc c k (paOf (q + 2)) true s)
  match unitCell c k (paOf q) s with
  | (none, s) => ovf s
  | (some t, s) => match unitCell c k (paOf (q + 1)) s with
    | (none, s) => ovf s
    | (some h, s) =>
      let tail := (cDat t).toNat
      let head := (cDat h).toNat
      if (tail + 2 ^ 48 - head) % 2 ^ 48 = n then ovf s
      else putCell none (paOf q) (rawCell (dat (tail + 1))) (unitAcc c k (paOf q) true
        (putCell none (paOf (q + 8 + tail % n)) y (unitAcc c k (paOf (q + 8 + tail % n)) true s)))

/-- Heal a field from x to y only if it still holds exactly x (R496), its line owned (R732); the heal passes the card rule. -/
def healField (c : CtxId) (k : SkId) (tag : BitVec 12) (fv : VAddr) (f : PAddr) (x y : Cell) (s : State) : State :=
  if cellAt s f = sealCell x then cardMark c k tag f fv y (putCell (some c) f y s) else s

/-- What the forwarding of a bad pointer finds (R494): its new datum, or a pending granule to claim and copy. -/
inductive Fwd where
  | to (d : Datum)
  | claim (src : VAddr) (srcP entP dstP : PAddr) (t : Datum)
deriving DecidableEq, Repr

/-- Forward a bad pointer (R494): region and relocation entries, translations before a claim (R495). A granule that another
agent copies makes the routine wait. -/
def xForward (c : CtxId) (k : SkId) (lvl : BitVec 2) (b : ColBlock) (tag : BitVec 12) (x : Cell) : X Fwd := do
  match heapRegion b (cDat x) with
  | none => pure (.to (cDat x))
  | some r =>
    let e ← xRegion c k 1 b tag r
    if reState e = 2 ∨ reState e = 3 then relocFault x
    else if !evacuating b e then pure (.to (cDat x))
    else
      let o := vOff (cDat x)
      let entP := paOf (reRtb e + o % 2 ^ cbRsh b / 2 ^ cbGsh b)
      let t ← xTable c k 1 entP
      if rlSt t = 0 then relocFault x
      else if rlBad b t then tableFault 3 entP
      else if rlSt t = 3 then pure (.to (rlDest t + dat (o % 2 ^ cbGsh b)))
      else if rlSt t = 2 then xWait
      else
        let src := vMk (vSeg (cDat x)) (o / 2 ^ cbGsh b * 2 ^ cbGsh b)
        let sp ← xlateNormal c lvl true src .read
        let dp ← xlateNormal c lvl true (rlDest t) .write
        pure (.claim src sp entP dp t)

/-- The forwarded, recoloured pointer, pushed on the mark queue while MARK = 1 and it lies in the heap (R494, R502). -/
def recolour (b : ColBlock) (c : CtxId) (k : SkId) (x : Cell) (d : Datum) (s : State) : Cell × State :=
  let y := mkCell (cbGood b) (cTyp x) d
  (y, if cbMark b && (heapRegion b (cDat x)).isSome then markPush b c k y s else s)

/-- The block of a context's space lies where R499 has it: in installed DRAM, and in the memory grant of the context's hank. -/
def xBlockAt (c : CtxId) (tag : BitVec 12) : X Unit := fun s =>
  let a := cbAddr s tag 0
  if regionOf s a ≠ .dram then tableFault 1 a s
  else if !ctxGrant s (getCtx s c) a.toNat 16 then tableFault 4 a s
  else .ok () s

/-- The field that a slow path may heal, translated for the heal (R494). -/
def xFieldPa (c : CtxId) (lvl : BitVec 2) (fv : Option VAddr) : X (Option PAddr) :=
  match fv with
  | some v => some <$> xlateNormal c lvl true v .rw
  | none => pure none

/-- The end of the slow path: recolour, push, heal (R494). -/
def xRecolour (c : CtxId) (k : SkId) (tag : BitVec 12) (x : Cell) (fv : Option VAddr) (fp : Option PAddr) (d : Datum) : X Cell := do
  match fp with
  | some p => do
    xUnitLine c k p true 1
    xCardRoom c k tag
  | none => pure ()
  let s ← get
  let r := recolour (blockAt s k tag) c k x d s
  set (match fv, fp with
    | some v, some p => healField c k tag v p x r.1 r.2
    | _, _ => r.2)
  pure r.1

/-- Copy a granule that this routine has claimed, and give the forwarded datum (R495, R500). -/
def xCopy (c : CtxId) (k : SkId) (tag : BitVec 12) (x : Cell) (src : VAddr) (srcP entP dstP : PAddr) (t : Datum) : X Datum := do
  let s ← get
  let n := 2 ^ cbGsh (blockAt s k tag)
  xGranule c k 1 n srcP dstP entP
  xCardRoom c k tag
  fun s => match copyGranule c k (twUnitNo c (getSk s k)) (cardMark c k tag) n src srcP t dstP entP (putCell (some c) entP (rawCell (rlWith t 2)) s) with
    | (none, s) => .ok (rlDest t + dat (vOff (cDat x) % n)) s
    | (some i, s) => .error (.exc { code := 0x01, info := vAddW src i }) s

/-- The slow path as one step: forward, with the claim and the copy, recolour, push, heal (R494). `fv` is the field's address
when the cell came from NORMAL memory. -/
def xSlow (c : CtxId) (k : SkId) (lvl : BitVec 2) (tag : BitVec 12) (x : Cell) (fv : Option VAddr) : X Cell := do
  xBlockAt c tag
  let s ← get
  let fp ← xFieldPa c lvl fv
  let w ← xForward c k lvl (blockAt s k tag) tag x
  let d ← (match w with
    | .to d => pure d
    | .claim src sp entP dp t => xCopy c k tag x src sp entP dp t)
  xRecolour c k tag x fv fp d

/-- A cell loaded by a twist routine, a walk or the carder: a bad one takes the slow path now (R232, R493). -/
def xBarrier (c : CtxId) (k : SkId) (lvl : BitVec 2) (v : Cell) (fv : Option VAddr) : X Cell := fun s =>
  let tag := spaceTag (getCtx s c)
  if isBad (blockAt s k tag) v then xSlow c k lvl tag v fv s else .ok v s

end Sys2Proof.Machine
end

