-- ==== Sys2Proof/Machine/StoreBuf.lean ====
section
/-! DEFINITION. The store buffer (R451 to R455), bits of tiers 2 and 3, and the skein-cache registers of the device region. -/

namespace Sys2Proof.Machine

/-! ## Entries -/

/-- A store of the context waits for an entry (R453). -/
def sbWaits (x : Ctx) : Bool :=
  match x.park with
  | some (.stores _) => true
  | _ => false

/-- Every store of the context is visible: it has no entry, and no store waits for one. -/
def sbEmpty (s : State) (c : CtxId) : Bool := decide (sbCount (getSp s (spOf s c)) c = 0) && !sbWaits (getCtx s c)

/-- Put as many of a list of entries as fit, in order; answer the rest. -/
def sbPutAll (c : CtxId) : List SbEntry → State → List SbEntry × State
  | [], s => ([], s)
  | e :: es, s =>
    match sbPut c e s with
    | some s => sbPutAll c es s
    | none => (e :: es, s)

/-- How a context translates an address now. -/
def viaOf (x : Ctx) (va : VAddr) : Option Via := some { va := va, level := x.level, space := axGet x 28 }

/-- What a context still waits for when its entries stand in the buffer: a write of a tier-2 bit of another skein parks it until the bit is
written (R101, R110). -/
def tripOf (k : SkId) (es : List SbEntry) : Option (SkId × BitVec 16) :=
  match es.getLast? with
  | some e => (match e.kind with
    | .bit2 sk b _ => if sk = k then none else some (sk, b)
    | _ => none)
  | none => none

/-- Emit entries: those that find no place park the context (R453). -/
def xEntries (c : CtxId) (es : List SbEntry) : X Unit := xMod fun s =>
  let r := sbPutAll c es s
  if r.1.isEmpty then
    match tripOf (getCtx s c).skein es with
    | some t => updCtx c (fun x => { x with park := some (.bitTrip t.1 t.2) }) r.2
    | none => r.2
  else updCtx c (fun x => { x with park := some (.stores r.1) }) r.2

/-- Emit the stores of an instruction, of an address as its context translates it. -/
def xStores (c : CtxId) (via : Option Via) (ks : List SbKind) : X Unit := fun s =>
  xEntries c (ks.map (sbEnt c (getCtx s c).sbars via)) s

/-- The card entry that the store barrier may mark for a store of any memory type (R504, R506). -/
def cardKinds (s : State) (c : CtxId) (va : VAddr) (pa : PAddr) (v : Cell) : List SbKind :=
  if cardWanted (blockOf s c) va v then [.card (spaceTag (getCtx s c)) [(pa, va, v)]] else []

/-- The entries of one NORMAL store: the line entry, and the card entry. -/
def storeKinds (s : State) (c : CtxId) (va : VAddr) (pa : PAddr) (v : Cell) : List SbKind :=
  .line (lineOf pa) [(pa.toNat, sealCell v)] :: cardKinds s c va pa v

/-- The youngest cell that the context's own buffered stores and ZLINEs hold for an address (R454). -/
def sbForward (p : Spindle) (c : CtxId) (pa : PAddr) : Option Cell :=
  p.sb.foldl (fun r e =>
    if e.ctx ≠ c then r
    else match e.kind with
      | .line ln cells => if ln = lineOf pa ∧ cells.any (fun k => k.1 = pa.toNat) then some (mapGet 0 cells pa.toNat) else r
      | .zline ln => if ln = lineOf pa then some 0 else r
      | _ => r) none

/-- The context has a buffered tier-3 bit write to a cell (R455). -/
def sbHasBit3 (p : Spindle) (c : CtxId) (pa : PAddr) : Bool :=
  p.sb.any fun e => decide (e.ctx = c) && (match e.kind with
    | .bit3 a _ _ => decide (a = pa)
    | _ => false)

/-- The context has a buffered DEVICE store (R462). -/
def sbHasDev (p : Spindle) (c : CtxId) : Bool := p.sb.any (isDevOf c)

/-- The cell and datum bit of a card mark (R505). -/
def cardBit (b : ColBlock) (m : PAddr × VAddr × Cell) : Option (PAddr × Nat) :=
  match cardIndex b m.2.1 with
  | some n => some (paOf (cbCtab b + n / 48), n % 48)
  | none => none

/-- The line an entry writes; a card entry writes the line of its card cell (R505). -/
def sbLine (s : State) (q : SpId) (k : SbKind) : Option Nat :=
  match k with
  | .line ln _ => some ln
  | .zline ln => some ln
  | .bit3 a _ _ => some (lineOf a)
  | .card tag (m :: _) => match cardBit (blockAt s (spSk q) tag) m with
    | some r => some (lineOf r.1)
    | none => none
  | _ => none

/-- The order of R452, R457 and R506: entry `i` of a spindle's store buffer may become visible now. -/
def sbMayDrain (s : State) (q : SpId) (i : Nat) : Bool :=
  let p := getSp s q
  match p.sb[i]? with
  | none => false
  | some e =>
    let older := (p.sb.take i).filter fun f => f.ctx = e.ctx
    let sameLine (a b : SbKind) : Bool := (sbLine s q a).isSome && decide (sbLine s q a = sbLine s q b)
    let sameBit (a b : SbKind) : Bool := match a, b with
      | .bit2 k n _, .bit2 k' n' _ => decide (k = k' ∧ n = n')
      | _, _ => false
    let isHost (k : SbKind) : Bool := match k with
      | .host _ _ _ => true
      | _ => false
    let isDev (k : SbKind) : Bool := match k with
      | .device _ _ => true
      | _ => false
    let cardAfter : Bool := match e.kind with
      | .card _ ms => older.any fun f => (match f.kind with
          | .line _ cells => ms.any fun m => cells.any fun k => k.1 = m.1.toNat
          | _ => false)
      | _ => false
    older.all (fun f => decide (f.sbar ≥ e.sbar) && !sameLine f.kind e.kind && !sameBit f.kind e.kind && !isDev f.kind &&
        !(isHost f.kind && isHost e.kind)) &&
      (!isDev e.kind || older.isEmpty) && !cardAfter

/-- An entry of the context keeps a unit's access to some lines waiting: it writes one of them (R448), or precedes the access by an SBAR or as a
DEVICE store (R452, R457). -/
def sbBlocks (s : State) (c : CtxId) (lns : List Nat) : Bool :=
  let q := spOf s c
  let n := (getCtx s c).sbars
  (getSp s q).sb.any fun e => decide (e.ctx = c) && (decide (e.sbar < n) || isDevOf c e || (match sbLine s q e.kind with
    | some l => lns.contains l
    | none => false))

/-! ## Bits (R109 to R120) -/

/-- TIER of a BITREF datum. -/
def brTier (d : Datum) : Nat := bits d.toNat 46 2

/-- The skein a tier-2 BITREF names, on a spindle (R109). -/
def brSkein (d : Datum) (q : SpId) : SkId := if d.getLsbD 21 then spSk q else d.extractLsb' 16 5

/-- The bits of a skein's store that a context may reach (R120). -/
def bitGrant (s : State) (x : Ctx) (b : Nat) : Bool :=
  !x.hv || (let g := (getHank s x.hank).cur
    decide (g.bitlo.toNat ≤ b ∧ b ≤ g.bithi.toNat))

/-- A bit of a skein's bit store. -/
def bit2Get (s : State) (k : SkId) (b : BitVec 16) : Bool := mapGet false (getSk s k).bits b.toNat

/-- Wake every context that waits on a bit (R293), with reason 1; the wake comes from a sector by way of its home skein (R269, R292). -/
def wakeBit (src : BitVec 2) (key : BitKey) (s : State) : State :=
  (s.ctxs.filter fun e => match e.2.wait with
    | some w => decide (w.bit = some key)
    | none => false).foldl (fun s e => wakeCtx (BitVec.ofNat 16 e.1) 1 (hear src (BitVec.ofNat 16 e.1) s)) s

/-- Tier-2 reads of a context that are still to be performed are performed now, those that a test names (R459). -/
def bitsRead (c : CtxId) (f : Landing → Bool) (s : State) : State :=
  if (getCtx s c).land.any fun l => l.bit.isSome && f l then
    updCtx c (fun x => { x with land := x.land.map fun l => match l.bit with
      | some (k, b) => if f l then { l with val := (b1 (bit2Get s k b)).setWidth 64, bit := none } else l
      | none => l }) s
  else s

/-- A tier-2 bit write takes effect; a change from 0 to 1 is an event (R115). -/
def bit2Put (k : SkId) (b : BitVec 16) (v : Bool) (s : State) : State :=
  let old := bit2Get s k b
  let s := wakeSkein k s
  let s := updSk k (fun x => { x with bits := mapSet false x.bits b.toNat v }) s
  if v && !old then wakeBit (skSector k) (.t2 k b) s else s

/-- The value of a tier-3 bit in a cell: 0 in an UNSET cell, none when the type is neither RAW nor UNSET (R113). -/
def bit3Val (v : Cell) (b : Nat) : Option Bool :=
  if cTyp v = tRAW then some ((cDat v).getLsbD b) else if cTyp v = tUNSET then some false else none

/-- A tier-3 bit write at the moment it drains (R455): changed, created from UNSET, or dropped and logged. -/
def bit3Put (c : CtxId) (pa : PAddr) (b : Nat) (v : Bool) (s : State) : State :=
  let ok := if cellBad s pa then none else verify (cellAt s pa)
  match ok with
  | none => notify (some c) (logOnly 0x2B 3 36 0 (some c) (some pa.toNat) 0 s)
  | some (w, _) =>
    let s := (readCell (some c) pa s).2
    match bit3Val w b with
    | none => logOnly 0x2B 4 36 0 (some c) (some pa.toNat) 0 s
    | some old =>
      let d := if cTyp w = tRAW then cDat w else 0
      let s := putCell (some c) pa (rawCell (setBit d b v)) s
      if v && !old then wakeBit (chanSector (chanOf (lineOf pa))) (.t3 pa b) s else s

/-! ## The skein-cache registers (R439 to R442) -/

/-- Drop every line of a skein's data caches; modified data is in `mem` (R440, R442). -/
def skCleanAll (k : SkId) (s : State) : State :=
  (getSk s k).cache.foldl (fun s e => if e.2.st = .inv then s else skDrop k e.2.ln s) s

/-- Write DIS (R442): disabling and enabling begin, and go on as time passes; a write in the middle of either is ignored. -/
def skDis (k : SkId) (v : Bool) (s : State) : State :=
  let x := getSk s k
  if v ∧ x.dstate = 0 then updSk k (fun x => { x with dis := true, dstate := 1 }) s
  else if !v ∧ x.dstate = 2 then updSk k (fun x => { x with dis := false, dstate := 3, pwrOff := 0xFFFF }) s
  else s

/-- Disabling ends when no fill is in flight and every line is cleaned: the power of the arrays is removed. Enabling ends with every way
powered, its lines invalid (R442, R443). -/
def skPhase (k : SkId) (s : State) : State :=
  let x := getSk s k
  if x.dstate = 1 ∧ x.held.isEmpty then updSk k (fun x => { x with dstate := 2, pwrOff := 0xFFFF }) (skCleanAll k s)
  else if x.dstate = 3 then updSk k (fun x => { x with dstate := 0, pwrOff := 0 }) s
  else s

/-- Retired lines in ways that are not retired (R439). -/
def retLines (x : Skein) : Nat :=
  (x.cache.filter fun e => e.2.retired && !x.retWays.getLsbD (e.1 % 16)).length

/-- Read SCCTL, SCSTAT or SCRET of a skein (R439). -/
def scRead (x : Skein) (r : Nat) : Datum :=
  if r = 0 then b1 x.dis ++ (0 : BitVec 31) ++ x.hmask
  else if r = 1 then x.dstate ++ (0 : BitVec 14) ++ (~~~x.pwrOff) ++ x.retWays
  else dat (retLines x % 1024)

/-- Write SCCTL of a skein; SCSTAT and SCRET are read-only (R439, R441, R442). -/
def scWrite (k : SkId) (r : Nat) (v : Datum) (s : State) : State :=
  if r = 0 then skDis k (v.getLsbD 47) (updSk k (fun x => { x with hmask := v.extractLsb' 0 16 }) s) else s

/-- The skein and register that a device-region address names (R439). -/
def deviceReg (a : PAddr) : Option (SkId × Nat) :=
  let n := a.toNat - 0xC000001000
  if 0xC000001000 ≤ a.toNat ∧ n < 128 ∧ n % 4 < 3 then some (BitVec.ofNat 5 (n / 4), n % 4) else none

/-- Record an event in MOSTAT of a spindle (R481). -/
def moNote (q : SpId) (c : CtxId) (bit : Nat) (s : State) : State :=
  updSp q (fun p => { p with moCtx := c, moFlags := setBit p.moFlags bit true }) s

/-- A DEVICE load (R477): the register, or RAW 0 with DEVERR. -/
def deviceLoad (c : CtxId) (a : PAddr) (s : State) : Cell × State :=
  match deviceReg a with
  | some (k, r) => (rawCell (scRead (getSk s k) r), reach (skSector (getCtx s c).skein) k s)
  | none => (rawCell 0, logEvent 0x1A 4 39 0 (some c) (some a.toNat) 0 (moNote (spOf s c) c 3 s))

/-- A DEVICE store (R477). -/
def deviceStore (c : CtxId) (a : PAddr) (v : Cell) (s : State) : State :=
  match deviceReg a with
  | some (k, r) => scWrite k r (cDat v) (reach (skSector (getCtx s c).skein) k s)
  | none => logEvent 0x1A 4 39 0 (some c) (some a.toNat) 0 (moNote (spOf s c) c 3 s)

end Sys2Proof.Machine
end

