-- ==== Sys2Proof/Machine/Sched.lean ====
section
/-! DEFINITION. Parking, the twist queue, plies, readiness, messages and context commands (R231, R264 to R318). -/

namespace Sys2Proof.Machine

/-! ## Modes and holds -/

/-- The device issues instructions: RUN or DROWSE, and not while SLEEP is entered (R643, R647). -/
def issuing (s : State) : Bool := (s.mode = .run || s.mode = .drowse) && !s.m.entering

/-- A FLIP of the context's space holds it (R522). -/
def heldByFlip (s : State) (x : Ctx) : Bool := s.flips.any fun f => f.tag = spaceTag x

/-- An enabled FP exception waits with a landing of the context (R348). -/
def fpPending (x : Ctx) : Bool := x.land.any fun l => l.fpx.isSome

/-! ## The twist queue (R230, R231) -/

/-- Admit a request: to the queue, or to the overflow list with its contents in the micro-state record (KIND 4) or in the
deferred slot. -/
def twAdmit (k : SkId) (r : TwReq) (s : State) : State :=
  let x := getSk s k
  if x.twq.length < 64 ∧ x.twOvf.isEmpty then updSk k (fun x => { x with twq := x.twq ++ [r] }) s
  else
    let s := updSk k (fun x => { x with twOvf := x.twOvf ++ [r.ctx] }) s
    updCtx r.ctx (fun c =>
      if c.ms.mv then { c with deferred := some r }
      else { c with ms := { c.ms with mv := true, kind := 4, level := r.level, major := r.major, minor := r.minor, addr := r.addr, req := some r } }) s

/-- Hand a request to the skein's queue once every earlier store of the context is visible (R456). -/
def twSubmit (r : TwReq) (s : State) : State :=
  if sbEmpty s r.ctx then twAdmit (getCtx s r.ctx).skein r s else updCtx r.ctx (fun x => { x with twWait := some r }) s

/-- Remove every request of a context that has not started: queued, overflowed, waiting or taken but not begun (R231, R246,
R251), in whatever skein it stood when it asked. -/
def twDiscard (c : CtxId) (s : State) : State :=
  let s := updAllSk (fun x => { x with
    twq := x.twq.filter fun r => r.ctx ≠ c
    twOvf := x.twOvf.filter fun d => d ≠ c
    units := (x.units.map fun u => match u.2.req with
      | some r => if r.ctx = c ∧ !u.2.started then (u.1, { ({} : TUnit) with off := u.2.off, faults := u.2.faults }) else u
      | none => u).filter fun u => u.2 ≠ {} }) s
  updCtx c (fun x => { x with twWait := none, deferred := none, ms := if x.ms.kind = 4 then {} else x.ms }) s

/-- A unit becomes free. -/
def unitFree (u : TUnit) : TUnit := { ({} : TUnit) with off := u.off, faults := u.faults }

/-- Release a granule that a unit or reel of a skein has claimed, under the way mask of its party: its ST returns to pending (R418, R491, R495). An
entry that cannot be read stays as it is (R42). -/
def releaseClaim (k : SkId) (hv : Bool) (h : BitVec 6) (p : Option Claim) (s : State) : State :=
  match p with
  | none => s
  | some cl =>
    let a := cl.ent
    match readCell none a s with
    | (some v, s) =>
      if cTyp v = tRAW ∧ rlSt (cDat v) = 2 then
        putCell none a (rawCell (rlWith (cDat v) 1)) (unitTouch k (wayMaskFor (getSk s k) (getHank s h).cur.waymask hv) (lineOf a) true 1 s)
      else s
    | (none, s) => s

/-- The unit serves a context. -/
def unitOf (u : TUnit) (c : CtxId) : Bool :=
  match u.req with
  | some r => decide (r.ctx = c)
  | none => false

/-- A routine of the context is queued, waiting, started or overflowed, in the skein where it asked. -/
def twBusy (s : State) (c : CtxId) : Bool :=
  let x := getCtx s c
  x.twWait.isSome || x.deferred.isSome || s.skeins.any fun k =>
    k.2.twq.any (fun r => r.ctx = c) || k.2.twOvf.any (fun d => d = c) || k.2.units.any fun u => unitOf u.2 c

/-- Abandon a running routine of a context (R253, R317), in whatever skein it runs: its claim is released, its unit free. -/
def twAbandon (c : CtxId) (s : State) : State :=
  let x := getCtx s c
  let s := twDiscard c s
  let claims := (s.skeins.map fun k => (k.2.units.filter fun u => unitOf u.2 c).map fun u => (k.1, u.2.claim)).flatten
  let s := updAllSk (fun x => { x with
    units := (x.units.map fun u => if unitOf u.2 c then (u.1, unitFree u.2) else u).filter fun u => u.2 ≠ {} }) s
  claims.foldl (fun s p => releaseClaim (BitVec.ofNat 5 p.1) x.hv x.hank p.2 s) s

/-! ## Plies and the annex (R279 to R288) -/

/-- The annex cells that hold a register (R279). -/
def annexCells : List Nat := upto 11 ++ (upto 16).map (· + 16)

/-- Write the changed annex cells of a context back to memory (R280). -/
def annexSave (c : CtxId) (s : State) : State :=
  if !s.annexEn then s else
  annexCells.foldl (fun s k =>
    let v := rawCell (axGet (getCtx s c) k)
    if cellAt s (annexAddr s c k) = v then s else annexPut c k v s) s

/-- Read a context's annex from memory (R280): four lines, verified. -/
def annexLoad (c : CtxId) (s : State) : State :=
  if !s.annexEn then s else
  annexCells.foldl (fun s k =>
    match readCell (some c) (annexAddr s c k) s with
    | (some v, s) => updCtx c (fun x => axPut x k (cDat v &&& annexMask k)) s
    | (none, s) => s) ((upto 4).foldl (fun s j => annexTouch c (8 * j) false s) s)

/-- An annex register of a context as it stands: in its ply, and in memory while it stands on none (R280). -/
def axNow (c : CtxId) (k : Nat) (s : State) : Datum × State :=
  if !s.annexEn || onPly s c then (axGet (getCtx s c) k, s)
  else match readCell (some c) (annexAddr s c k) (annexTouch c k false s) with
    | (some v, s) => (cDat v &&& annexMask k, s)
    | (none, s) => (axGet (getCtx s c) k, s)

/-- The context is parked on its own SC, whose reservation it keeps (R468). -/
def parksForSc (x : Ctx) : Bool :=
  match x.park with
  | some (.mem (.sc _ _ _) _ _) => true
  | _ => false

/-- A context leaves its ply: annex saved, reservation lost, reads of tier-2 bits performed (R280, R459, R468). -/
def offPly (c : CtxId) (s : State) : State :=
  if !onPly s c then s else
  let q := spOf s c
  let s := annexSave c (bitsRead c (fun _ => true) s)
  let s := updSp q (fun p => { p with
    plyA := if p.plyA = some c then none else p.plyA
    plyB := if p.plyB = some c then none else p.plyB
    prepared := p.prepared && !(if p.issB then p.plyA = some c else p.plyB = some c) }) s
  updCtx c (fun x => { x with res := if parksForSc x then x.res else none, resHold := parksForSc x && x.resHold, boost := false }) s

/-- The context on the issuing ply. -/
def issuingCtx (p : Spindle) : Option CtxId := if p.issB then p.plyB else p.plyA

/-- The context on the other ply. -/
def idleCtx (p : Spindle) : Option CtxId := if p.issB then p.plyA else p.plyB

/-- The effective priority of a READY context: 8 when starved, 7 with an eligible interrupt (R287, R290, R335). -/
def effPrio (s : State) (x : Ctx) : Nat := if x.boost then 8 else if (bestSource s x).isSome then 7 else x.prio.toNat

/-- The READY contexts assigned to a spindle, those apart that have commanded their own move and wait for it to begin (R313). -/
def readyOn (s : State) (q : SpId) : List (Nat × Ctx) :=
  s.ctxs.filter fun e => decide (e.2.st = .ready) && decide (ctxSp e.2 = q) && !e.2.migHold

/-- Selection prefers one READY context to another (R287). -/
def outranks (s : State) (x y : Ctx) : Bool :=
  decide (effPrio s x > effPrio s y) || (decide (effPrio s x = effPrio s y) && decide (x.readySeq < y.readySeq))

/-- The READY context selection prefers: highest priority, then earliest READY (R287). -/
def bestReady (s : State) (l : List (Nat × Ctx)) : Option (Nat × Ctx) :=
  l.foldl (fun r e => match r with
    | none => some e
    | some m => if effPrio s e.2 > effPrio s m.2 ∨ (effPrio s e.2 = effPrio s m.2 ∧ e.2.readySeq < m.2.readySeq) then some e else r) none

/-- Another READY context of equal or higher priority exists for the running context's spindle (R289, R298). -/
def peerReady (s : State) (q : SpId) (x : Ctx) : Bool := (readyOn s q).any fun e => decide (effPrio s e.2 ≥ x.prio.toNat)

/-! ## Parking results -/

/-- The result of a parking producer has arrived (R265, R266, R276). -/
def resumeParked (c : CtxId) (s : State) : State :=
  let x := getCtx s c
  let s := updCtx c (fun x => { x with park := none }) s
  if x.st = .parked then makeReady c s
  else if x.st = .suspended ∨ (x.st = .moving ∧ x.movedFrom = .suspended) then updCtx c (fun x => { x with resArrived := true }) s
  else if x.st = .moving ∧ x.movedFrom = .parked then updCtx c (fun x => { x with movedFrom := .ready }) s
  else s

/-- Deliver the value of the parking producer to its landing (R276). -/
def deliverVal (c : CtxId) (v : BitVec 64) (s : State) : State :=
  updCtx c (fun x => { x with land := x.land.map fun l => if l.arrived then l else { l with arrived := true, val := v } }) s

/-- A fault of the parking producer: its slot is undone and the fault is taken when the context runs (R346). -/
def parkFault (c : CtxId) (back : Flow) (e : Exc) (s : State) : State :=
  resumeParked c (updCtx c (fun x => { x with
    flow := back
    pendExc := some e
    land := x.land.filter fun l => l.arrived }) s)

/-! ## The f register file (R198 to R201) -/

/-- Save-area cell address of f_n for a value of FPSA, low half first (R201). -/
def fpCellOf (d : Datum) (i : Nat) : PAddr := paOf (d.toNat / 32 % 2 ^ 35 * 32 + i)

/-- Save-area cell address of f_n, low half first (R201). -/
def fpCell (x : Ctx) (i : Nat) : PAddr := fpCellOf (axGet x 5) i

/-- FPSA.BASE is 0. -/
def fpsaZero (x : Ctx) : Bool := (axGet x 5).toNat / 32 % 2 ^ 35 = 0

/-- The 32 cells of an f file in the layout of F64 payloads (R64, R201). -/
def fpImage (p : Spindle) : List Cell :=
  (upto 32).map fun i =>
    let v : BitVec 64 := mapGet 0 p.fp (i / 2)
    rawCell ((if i % 2 = 0 then v.extractLsb' 0 32 else v.extractLsb' 32 32).setWidth 48)

/-- The store-buffer entries of a context after a later store of its own to some cells has become visible: what they held of those cells is older, and
a cell keeps the order of its stores (R448). -/
def sbOlder (c : CtxId) (cells : SMap Cell) (sb : List SbEntry) : List SbEntry :=
  sb.map fun e => if e.ctx ≠ c then e else match e.kind with
    | .line ln old => { e with kind := .line ln (old.map fun o => match cells.find? fun n => n.1 = o.1 with
        | some n => n
        | none => o) }
    | .zline ln =>
      let old : SMap Cell := (upto 8).map fun i => (8 * ln + i, unsetCell)
      if cells.any fun n => lineOf (paOf n.1) = ln then
        { e with kind := .line ln (old.map fun o => match cells.find? fun n => n.1 = o.1 with
          | some n => n
          | none => o) }
      else e
    | _ => e

/-- Save a spindle's f file to its owner's area, if it was written and the owner has one (R199, R200); the owner's FPSA is read where it
stands. The lines are owned as they are written (R409), under the way mask of the owner. A line of an earlier SPILL that is still in the store
buffer drains with the cells saved here, which are later stores of the context (R201, R448). -/
def fpSave (q : SpId) (s : State) : State :=
  let p := getSp s q
  match p.fpOwner with
  | none => s
  | some o =>
    if !p.fpWritten then s
    else
      let r := axNow o 5 s
      if r.1.toNat / 32 % 2 ^ 35 = 0 then r.2
      else
        let x := getCtx r.2 o
        let mask := wayMaskFor (getSk r.2 (spSk q)) (getHank r.2 x.hank).cur.waymask x.hv
        let cells : SMap Cell := (fpImage p).zipIdx.map fun e => ((fpCellOf r.1 e.2).toNat, sealCell e.1)
        let s := (upto 4).foldl (fun s j => unitTouch (spSk q) mask (lineOf (fpCellOf r.1 (8 * j))) true 1 s) r.2
        let s := cells.foldl (fun s e => putCell (some o) (paOf e.1) e.2 s) s
        updSp q (fun p => { p with fpWritten := false, sb := sbOlder o cells p.sb }) (updCtx o (fun x => { x with fpSaved := true }) s)

/-- A context gives up its spindle's f file, saved when asked (R198, R200). -/
def fpRelease (c : CtxId) (save : Bool) (s : State) : State :=
  let q := spOf s c
  if (getSp s q).fpOwner ≠ some c then s
  else
    let s := if save then fpSave q s else s
    updSp q (fun p => { p with fpOwner := none, fpWritten := false }) s

/-! ## Numbers, hanks and spindles -/

/-- The hank that owns a spindle, if one does (R551). -/
def hankOfSp (s : State) (p : SpId) : Option (BitVec 6) :=
  match s.hanks.find? fun h => decide (h.2.state ≠ 0) && hankOwns h.2.cur p with
  | some h => some (BitVec.ofNat 6 h.1)
  | none => none

/-- The hank that owns a context number (R551). -/
def hankOfNum (s : State) (c : CtxId) : Option (BitVec 6) := hankOfSp s (homeSp c)

/-- A spindle may run contexts of an owner (R553). -/
def spAllowed (s : State) (hv : Bool) (h : BitVec 6) (p : SpId) : Bool :=
  hankOfSp s p = (if hv then some h else none)

/-- A logical spindle is out of service (R19, R712). -/
def outOfService (s : State) (p : SpId) : Bool := (getSk s (spSk p)).outOf.getLsbD (spLs p).toNat

/-- Images held by a skein, with those reserved by a move to it (R268, R307). -/
def slotsUsed (s : State) (k : SkId) : Nat :=
  (s.ctxs.filter fun e => decide (e.2.st ≠ .free) && (decide (e.2.skein = k) || (decide (e.2.st = .moving) && decide (e.2.toSkein = k)))).length

/-- The lowest image slot of a skein that holds no image and that no move has reserved (R267, R268; DESIGN CHOICE: no rule says which). -/
def freeSlot (s : State) (k : SkId) : Nat :=
  let used (n : Nat) : Bool := s.ctxs.any fun e => decide (e.2.st ≠ .free) &&
    ((decide (e.2.skein = k) && decide (e.2.img = n)) || (decide (e.2.st = .moving) && decide (e.2.toSkein = k) && decide (e.2.imgTo = n)))
  ((upto 2048).find? fun n => !used n).getD 0

/-- Contexts of a hank that exist (R557). -/
def hankCount (s : State) (h : BitVec 6) : Nat :=
  (s.ctxs.filter fun e => decide (e.2.st ≠ .free) && e.2.hv && decide (e.2.hank = h)).length

/-! ## Messages (R300 to R303) -/

/-- An inbox index as a cell address (R301). -/
def inbAddr (x : Ctx) (i : Nat) : PAddr := paOf (bits x.inbBase.toNat 0 40 + i)

/-- The inbox size, 0 when disabled or when the ring lies outside its memory (R312, R560). -/
def inbSize (s : State) (x : Ctx) : Nat :=
  let sz := bits x.inbBase.toNat 44 4
  let b := bits x.inbBase.toNat 0 40
  if sz = 0 then 0
  else if b + 2 ^ (sz + 1) > s.dram then 0
  else if x.hv && !inDramGrant (getHank s x.hank).cur b (2 ^ (sz + 1)) then 0
  else 2 ^ sz

/-- Write a message of a sender and its owner to its destination's inbox, or reject it; the result code (R301, R302). The home skein of the
destination owns the lines (R409). -/
def postMessage (sender : CtxId) (hv : Bool) (hank : BitVec 6) (dst : CtxId) (v : Cell) (s : State) : BitVec 3 × State :=
  let x := getCtx s dst
  let n := inbSize s x
  if x.st = .free then (1, s)
  else if x.hv ≠ hv ∨ (x.hv ∧ x.hank ≠ hank) then (2, s)
  else if n = 0 then (3, s)
  else if (x.inbTail.toNat + 1) % n = x.inbHead.toNat then (4, s)
  else
    let t := x.inbTail.toNat
    let head : Datum := sender ++ b1 hv ++ (if hv then hank else 0) ++ (0 : BitVec 25)
    let k := spSk (homeSp dst)
    let s := unitTouch k (wayMaskFor (getSk s k) (getHank s x.hank).cur.waymask x.hv) (lineOf (inbAddr x (2 * t))) true 1 s
    let s := putCell none (inbAddr x (2 * t)) (rawCell head) s
    let s := putCell none (inbAddr x (2 * t + 1)) v s
    let s := updCtx dst (fun x => { x with inbTail := BitVec.ofNat 12 ((t + 1) % n) }) s
    (0, if (axGet x 6).getLsbD 0 then wakeCtx dst 3 s else s)

/-- Post a SEND: at once, or held while its destination is MOVING (R269, R300). -/
def sendPost (c dst : CtxId) (v : Cell) (s : State) : State :=
  let s := hear (skSector (getCtx s c).skein) dst s
  let x := getCtx s c
  if (getCtx s dst).st = .moving then
    updCtx c (fun x => { x with sendOut := some none })
      (updCtx dst (fun y => { y with heldItems := y.heldItems ++ [.msg c x.gen x.hv x.hank v] }) s)
  else
    let r := postMessage c x.hv x.hank dst v s
    updCtx c (fun x => { x with sendOut := some (some r.1) }) r.2

/-- Ring a context's doorbell (R303), from the host; held while it is MOVING (R269). -/
def ringDoorbell (c : CtxId) (s : State) : State :=
  let x := getCtx s c
  if x.st = .free then s
  else if x.st = .moving then holdItem c .door s
  else
    let s := updCtx c (fun x => { x with db := true }) s
    if (axGet x 6).getLsbD 1 then wakeCtx c 4 s else s

/-! ## Results of context commands (R314) -/

/-- The code of a state (R264). -/
def stCode (t : CtxState) : Nat :=
  match t with
  | .free => 0
  | .ready => 1
  | .running => 2
  | .parked => 3
  | .waiting => 4
  | .suspended => 5
  | .moving => 6

/-- The value of CTXRES for a status and a target (R314). -/
def ctxRes (s : State) (stat : Nat) (t : CtxId) : Datum :=
  let x := getCtx s t
  let sp : SpId := if x.st = .free then homeSp t else ctxSp x
  BitVec.ofNat 4 stat ++ BitVec.ofNat 3 (stCode x.st) ++ (0 : BitVec 4) ++ spSk sp ++ spLs sp ++ (0 : BitVec 12) ++ t

/-- Report a result to the issuer: CTXRES, or HCTXRES (R314, R318). -/
def putRes (src : Src) (v : Datum) (s : State) : State :=
  match src with
  | .ctx c => if (getCtx s c).st = .free then s else setAx c 9 v s
  | .host => { s with hctxres := v }
  | .hank h => updHank h (fun k => { k with res := v }) s

/-- The incarnation of an issuer: an answer to one that is gone is discarded (R317). -/
def srcGen (s : State) (src : Src) : Nat :=
  match src with
  | .ctx c => (getCtx s c).gen
  | .host => 0
  | .hank h => (getHank s h).gen.toNat

/-- Answer an issuer that waits for the end of its command. -/
def answer (o : Option (Src × Nat)) (v : Datum) (s : State) : State :=
  match o with
  | some (src, g) => if srcGen s src = g then putRes src v s else s
  | none => s

/-! ## Migration (R304 to R307) -/

/-- The context may change spindle now: not running, no FP exception pending, nothing in the store buffer, no broadcast INVAL of its own incomplete
(R286, R306, R348, R428, R456). One whose ply was kept leaves it as the move begins (R284). `within`: the move stays in its skein, where a parked
context's result follows it (R233, R269); across skeins a parked context moves only after a KIND 3 micro-trap. -/
def canMove (s : State) (c : CtxId) (within : Bool) : Bool :=
  let x := getCtx s c
  let p := getSp s (ctxSp x)
  let trapped : Bool := x.ms.mv && decide (x.ms.kind = 3)
  (decide (x.st = .ready) || decide (x.st = .waiting) || decide (x.st = .suspended) || (decide (x.st = .parked) && (within || trapped))) &&
    !fpPending x && sbEmpty s c && (p.ibusy.isEmpty || decide (p.ibCtx ≠ some c))

/-- The prefetch streams of a context that leaves its spindle end (R433). -/
def endStreams (c : CtxId) (s : State) : State :=
  updSp (spOf s c) (fun p => { p with trackers := p.trackers.filter fun t => t.ctx ≠ c }) s

/-- PIN forbids a move to a skein (R286). -/
def pinForbids (x : Ctx) (k : SkId) : Bool := decide (x.pin = 2) || (decide (x.pin = 1) && decide (k ≠ x.skein))

/-- A pending move has begun, ended or been given up: its issuer is told the status (R314, R315). -/
def endMig (c : CtxId) (stat : Nat) (s : State) : State :=
  let src := (getCtx s c).migSrc
  let s := updCtx c (fun x => { x with mig := none, migSrc := none, migHold := false }) s
  answer src (ctxRes s stat c) s

/-- A routine that stopped for a move which does not come about is queued again where its context is (R247). -/
def requeueTrap (c : CtxId) (s : State) : State :=
  let x := getCtx s c
  match x.ms.req with
  | some r => if x.st = .parked ∧ x.mig = none ∧ x.ms.mv ∧ x.ms.kind = 3 ∧ !twBusy s c then twAdmit x.skein r s else s
  | none => s

/-- Begin a pending move when it may begin: within a skein at once, across skeins by way of MOVING, with a slot reserved in the target
(R268, R291, R306, R307). One that PIN has come to forbid, whose target is no longer the owner's or has gone out of service, or that finds no slot,
fails (R268, R286, R304, R553). -/
def startMove (c : CtxId) (s : State) : State :=
  let x := getCtx s c
  match x.mig with
  | none => s
  | some (k, l) =>
    if pinForbids x k ∨ !spAllowed s x.hv x.hank (k ++ l) ∨ outOfService s (k ++ l) then requeueTrap c (endMig c 3 s)
    else if !canMove s c (decide (k = x.skein)) then s
    else if k ≠ x.skein ∧ slotsUsed s k ≥ 2048 then requeueTrap c (endMig c 4 s)
    else
      let s := offPly c (fpRelease c true (endStreams c s))
      if k = x.skein then requeueTrap c (endMig c 0 (updCtx c (fun x => { x with lspin := l }) s))
      else
        let n := freeSlot s k
        updCtx c (fun x => { x with st := .moving, movedFrom := x.st, toSkein := k, toLspin := l, imgTo := n, mig := none, migHold := false }) s

/-- The lowest-numbered in-service spindle of a skein that an owner may use. -/
def anySpindle (s : State) (k : SkId) (hv : Bool) (h : BitVec 6) : Option (BitVec 4) :=
  match (upto 16).find? fun l =>
      let p : SpId := k ++ BitVec.ofNat 4 l
      !outOfService s p && spAllowed s hv h p with
  | some l => some (BitVec.ofNat 4 l)
  | none => none

/-! ## Context commands (R313 to R317) -/

/-- The issuer may command a number (R315, R318). -/
def mayCommand (s : State) (src : Src) (t : CtxId) : Bool :=
  match src with
  | .ctx c => let x := getCtx s c; hankOfNum s t = (if x.hv then some x.hank else none)
  | .host => (hankOfNum s t).isNone
  | .hank h => decide (hankOfNum s t = some h)

/-- The level a command is issued at: the context's, L3 for the host, L1 for a hank's entry (R564). -/
def cmdLevel (s : State) (src : Src) : Nat :=
  match src with
  | .ctx c => (getCtx s c).level.toNat
  | .host => 3
  | .hank _ => 1

/-- A new context's annex registers (R279, R316, R332, R363, R554). -/
def newAnnex (s : State) (src : Src) (hv : Bool) (t : CtxId) : SMap Datum :=
  let base := mapSet 0 (mapSet 0 [] 3 (16777216 : Datum)) 25 (0x5555FF : Datum)
  let m := match src with
    | .ctx c => let x := getCtx s c; mapSet 0 (mapSet 0 (mapSet 0 base 28 (axGet x 28)) 29 (axGet x 29)) 31 (axGet x 31)
    | .host => base
    | .hank _ => base
  if hv ∧ s.hfpEn then mapSet 0 m 5 ((paOf (s.hfpBase.toNat + 32 * t.toNat)).setWidth 48) else m

/-- CREATE (R316): build the image and make the context READY on its home spindle. -/
def doCreate (m : CtxCmd) (s : State) : Nat × State :=
  let t := m.ctx
  let hv : Bool := match m.src with
    | .ctx c => (getCtx s c).hv
    | .host => false
    | .hank _ => true
  let h : BitVec 6 := match m.src with
    | .ctx c => (getCtx s c).hank
    | .host => 0
    | .hank h => h
  let start : Datum := match m.src with
    | .ctx c => axGet (getCtx s c) 8
    | .host => s.hctxarg
    | .hank h => (getHank s h).arg
  let home := homeSp t
  let k := spSk home
  let place : Option (BitVec 4) := if outOfService s home then anySpindle s k hv h else some (spLs home)
  if (getCtx s t).st ≠ .free then (2, s)
  else if b2n m.lvl > cmdLevel s m.src then (3, s)
  else if !s.annexEn || decide (slotsUsed s k ≥ 2048) ||
      (hv && decide ((getHank s h).cur.ctxmax ≠ 0) && decide (hankCount s h ≥ (getHank s h).cur.ctxmax.toNat)) then (4, s)
  else match place with
    | none => (4, s)
    | some l =>
      let x : Ctx :=
        { gen := (getCtx s t).gen + 1, issuedAt := s.m.clock, hv := hv, hank := if hv then h else 0, level := if m.lvl then 1 else 0
          prio := m.prio, pin := if m.pin = 3 then 0 else m.pin, skein := k, lspin := l
          img := freeSlot s k, flow := { pc := start }, genctl := 0x0005, ax := newAnnex s m.src hv t }
      let s := makeReady t (setCtx s t x)
      (0, (upto 32).foldl (fun s i => annexPut t i (rawCell (axGet x i)) s) s)

/-- Those whose commands a context still has to obey are told that it is gone: NOEXIST (DESIGN CHOICE: no rule says how they end). -/
def endCmds (t : CtxId) (src : Option (Src × Nat) × Option (Src × Nat)) (s : State) : State :=
  let tell (o : Option (Src × Nat)) (s : State) : State := answer o (ctxRes s 1 t) s
  tell src.2 (tell src.1 s)

/-- DESTROY (R317): waits, routines, requests, FP ownership and extension messages end; stores already issued drain, those that wait for an
entry with them, and broadcasts already sent are applied. -/
def destroyCtx (t : CtxId) (s : State) : State :=
  let src := ((getCtx s t).migSrc, (getCtx s t).stopSrc)
  let late : List SbEntry := match (getCtx s t).park with
    | some (.stores es) => es
    | _ => []
  let q := spOf s t
  let s := twAbandon t (endStreams t s)
  let s := fpRelease t false s
  let s := offPly t s
  let gone := (s.extOut.filter fun m => m.hv && decide (m.ctx = t)).map fun m => (m.seq, m.gen, m.hank)
  let s := { s with extOut := s.extOut.filter fun m => m.ctx ≠ t, extGone := s.extGone ++ gone }
  let s := if late.isEmpty then s else updSp q (fun p => { p with sb := p.sb ++ late }) s
  let g := (getCtx s t).gen
  let pend := (getCtx s t).skein
  let lsp := (getCtx s t).lspin
  endCmds t src (setCtx s t { gen := g, skein := pend, lspin := lsp })

/-- A context is suspended now (R265, R266); the issuer of a SUSPEND that it still had to obey is told (R314). -/
def haltCtx (t : CtxId) (s : State) : State :=
  let src := (getCtx s t).stopSrc
  let s := updCtx t (fun x =>
    { x with st := .suspended, suspFrom := if x.st = .running then .ready else x.st, resArrived := false
             wakeRec := false, stopReq := false, stopSrc := none, invHold := false }) (offPly t s)
  answer src (ctxRes s 0 t) s

/-- SUSPEND (R265, R266). A context with an enabled FP exception pending does not leave its ply: it stops once that is reported (R336, R348); its
issuer is told then (R314). One whose broadcast INVAL waits in its slot stops after that (R428). -/
def suspendCtx (t : CtxId) (s : State) : State :=
  let x := getCtx s t
  if fpPending x ∨ (x.st = .running ∧ x.invHold) then updCtx t (fun x => { x with stopReq := true }) s else haltCtx t s

/-- RESUME of a SUSPENDED context (R266). -/
def resumeCtx (t : CtxId) (s : State) : State :=
  let x := getCtx s t
  let s := updCtx t (fun x => { x with resArrived := false, wakeRec := false }) s
  if x.resArrived ∨ x.wakeRec ∨ x.suspFrom = .ready then makeReady t s
  else
    let s := updCtx t (fun x => { x with st := x.suspFrom }) s
    if x.suspFrom = .waiting ∧ (bestSource s (getCtx s t)).isSome then wakeCtx t 5 s else s

/-- The target of a MIGRATE and the status that stops it (R304, R315, R553). -/
def migrateTo (m : CtxCmd) (s : State) : Nat × Option (SkId × BitVec 4) :=
  let x := getCtx s m.ctx
  let l := if m.any then anySpindle s m.tskein x.hv x.hank else some m.tlspin
  match l with
  | none => (3, none)
  | some l =>
    let p : SpId := m.tskein ++ l
    if m.any ∧ m.tskein = x.skein then (2, none)
    else if p = ctxSp x then (2, none)
    else if x.pin = 2 ∨ (x.pin = 1 ∧ m.tskein ≠ x.skein) ∨ !spAllowed s x.hv x.hank p ∨ outOfService s p then (3, none)
    else if m.tskein ≠ x.skein ∧ slotsUsed s m.tskein ≥ 2048 then (4, none)
    else (0, some (m.tskein, l))

/-- A running context leaves its ply for its own move, and issues nothing until that begins (R313). -/
def leaveToMove (c : CtxId) (s : State) : State :=
  let x := getCtx s c
  if x.st = .running ∧ x.migHold then startMove c (makeReady c (offPly c s)) else s

/-- MIGRATE (R304, R313): the move begins when it may. One that the context still had to make is given up, and its issuer told DENIED (DESIGN CHOICE:
no rule says how that command ends). A RUNNING context that moves itself leaves its ply before its next slot, once a pending FP
exception is reported (R348), and issues nothing until the move begins. -/
def migrateCtx (m : CtxCmd) (d : SkId × BitVec 4) (s : State) : State :=
  let t := m.ctx
  let x := getCtx s t
  let s := updCtx t (fun x => { x with mig := some d, migSrc := none }) (if x.mig.isSome then endMig t 3 s else s)
  let s := if m.src ≠ .ctx t ∨ x.st ≠ .running then s else updCtx t (fun x => { x with migHold := true, fpDue := x.fpDue || fpPending x }) s
  startMove t (if fpPending x then s else leaveToMove t s)

/-- A context command other than CREATE on a number that is neither FREE nor MOVING; its status. A SUSPEND of a context that has yet to obey an
earlier one is BUSY (DESIGN CHOICE: R315 names the requested state only). -/
def doCommand (op : Nat) (m : CtxCmd) (s : State) : Nat × State :=
  let t := m.ctx
  let x := getCtx s t
  if op = 2 then (0, destroyCtx t s)
  else if op = 3 then (if x.st = .suspended ∨ x.stopSrc.isSome then (2, s) else (0, suspendCtx t s))
  else if op = 4 then
    (if x.st = .suspended then (if (axPeek s t 27).getLsbD 46 then (3, s) else (0, resumeCtx t s))
     else if x.st = .waiting then (0, wakeCtx t 6 s)
     else (2, s))
  else if op = 5 then
    (match migrateTo m s with
     | (n, none) => (n, s)
     | (_, some d) => (0, migrateCtx m d s))
  else if op = 6 then (if x.prio = m.prio then (2, s) else (0, updCtx t (fun x => { x with prio := m.prio }) s))
  else if op = 7 then
    (if x.st = .waiting ∨ (x.st = .suspended ∧ x.suspFrom = .waiting) then (0, wakeCtx t 6 s) else (2, s))
  else (0, s)

/-- An upset cell of an image is verified as the scheduler reads it (R40, R265, R706): `m` the stored bits that changed. An uncorrectable cell
of w1 to w31 is loaded as stored; any other suspends the context with TRIPLE = 1. -/
def imageUpset (k : SkId) (c : CtxId) (n : BitVec 6) (m : Cell) (s : State) : State :=
  match verify (nilCell ^^^ m) with
  | some (_, false) => s
  | some (_, true) => logEvent 0x0E 0 k.toNat 0 (some c) none (syndrome (nilCell ^^^ m)).toNat s
  | none =>
    let s := if n.toNat > 32 then
        updCtx c (fun x => { x with w := mapSet 0 x.w (n.toNat - 32) (wGet x (BitVec.ofNat 5 (n.toNat - 32)) ^^^ m) }) s
      else haltCtx c (setAx c 27 (setBit (axPeek s c 27) 46 true) s)
    logEvent 0x20 3 k.toNat 0 (some c) none n.toNat s

/-- The sector a command comes from: that of its context's skein, or the host link's. -/
def srcSector (s : State) (src : Src) : BitVec 2 :=
  match src with
  | .ctx c => skSector (getCtx s c).skein
  | .host => hostSector
  | .hank _ => hostSector

/-- MIGRATE and SETPRIO read the image of their target, unless it runs; an upset cell of it is found then (R265, R706). -/
def cmdImage (op : Nat) (m : CtxCmd) (s : State) : State :=
  let x := getCtx s m.ctx
  match m.up with
  | some (n, u) => if (op = 5 ∨ op = 6) ∧ x.st ≠ .running ∧ x.st ≠ .free then imageUpset x.skein m.ctx n u s else s
  | none => s

/-- A checked context command takes effect (R313 to R317): performed, and reported to its issuer's incarnation `g`. A CREATE whose issuer is gone
makes nothing (DESIGN CHOICE: what it copies is gone with it). -/
def cmdGo (op : Nat) (m : CtxCmd) (g : Nat) (s : State) : State :=
  let t := m.ctx
  let whom : Option (Src × Nat) := some (m.src, g)
  if op = 1 then
    if srcGen s m.src ≠ g then s
    else
      let r := doCreate m s
      answer whom (ctxRes r.2 r.1 t) r.2
  else if (getCtx s t).st = .free then answer whom (ctxRes s (if op = 2 ∨ op = 8 then 1 else 2) t) s
  else
    let r := doCommand op m (cmdImage op m s)
    let y := getCtx r.2 t
    if op = 5 ∧ r.1 = 0 ∧ (y.st = .moving ∨ y.mig.isSome) then answer whom (ctxRes r.2 0xF t) (updCtx t (fun y => { y with migSrc := whom }) r.2)
    else if op = 3 ∧ r.1 = 0 ∧ y.stopReq then answer whom (ctxRes r.2 0xF t) (updCtx t (fun y => { y with stopSrc := whom }) r.2)
    else answer whom (ctxRes r.2 r.1 t) r.2

/-- A context command by OP (R313 to R317): checked and performed; held while its target is MOVING (R269). -/
def ctxCommand (op : Nat) (m : CtxCmd) (s : State) : State :=
  let t := m.ctx
  if op = 0 ∨ op > 8 then putRes m.src (ctxRes s 5 t) s
  else if !mayCommand s m.src t then putRes m.src (ctxRes s 3 t) s
  else
    let g := srcGen s m.src
    let s := hear (srcSector s m.src) t s
    if (getCtx s t).st = .moving then putRes m.src (ctxRes s 0xF t) (holdItem t (.cmd op m g) s) else cmdGo op m g s

/-- An item held for a context is delivered (R269). -/
def giveItem (c : CtxId) (i : HeldItem) (s : State) : State :=
  match i with
  | .cmd op m g => cmdGo op m g s
  | .door => ringDoorbell c s
  | .irq n => raiseIrq c n s
  | .wake r => wakeCtx c r s
  | .msg f g hv h v =>
    let r := postMessage f hv h c v s
    if (getCtx s f).gen = g then updCtx f (fun y => { y with sendOut := some (some r.1) }) r.2 else r.2

/-- The spindle a moving context comes to: the one of its move, or where that has ceased to be its owner's or to be in service, another of the
skein (R553). -/
def landSpin (s : State) (x : Ctx) : BitVec 4 :=
  if spAllowed s x.hv x.hank (x.toSkein ++ x.toLspin) && !outOfService s (x.toSkein ++ x.toLspin) then x.toLspin
  else (anySpindle s x.toSkein x.hv x.hank).getD x.toLspin

/-- Install a moved image (R307) in the slot reserved for it: home entry updated, held items released in arrival order, a KIND 3 routine
queued again. The bobbin crosses the fabric (R26). -/
def installMove (c : CtxId) (s : State) : State :=
  let x := getCtx s c
  if x.st ≠ .moving then s
  else
    let items := x.heldItems
    let s := reach (skSector x.skein) x.toSkein s
    let s := updCtx c (fun x => { x with
      st := x.movedFrom, skein := x.toSkein, lspin := landSpin s x, img := x.imgTo, heldItems := [], migSrc := none }) s
    let s := if x.movedFrom = .ready then makeReady c s else s
    let s := answer x.migSrc (ctxRes s 0 c) s
    let s := if x.movedFrom = .parked ∧ x.ms.mv ∧ x.ms.kind = 3 then
        (match x.ms.req with
         | some r => twAdmit x.toSkein r s
         | none => s)
      else s
    let s := items.foldl (fun s i => giveItem c i s) s
    if (getCtx s c).st = .waiting ∧ (bestSource s (getCtx s c)).isSome then wakeCtx c 5 s else s

end Sys2Proof.Machine
end

