-- ==== Sys2Proof/Machine/Collector.lean ====
section
/-! DEFINITION. Collector commands: reading a block, UPDATE, FLIP, the root pass and the release (R485 to R487, R515 to R525). -/

namespace Sys2Proof.Machine

/-- The block of a tag as it stands in memory, and whether every cell is RAW and SC5 to SC15 are zero (R486, R487). -/
def cbRead (s : State) (tag : BitVec 12) : ColBlock × Bool :=
  let g (i : Nat) : Cell := cellAt s (cbAddr s tag i)
  let d (i : Nat) : Datum := cDat (g i)
  ({ sc0 := d 0, sc1 := d 1, sc2 := d 2, sc3 := d 3, sc4 := d 4 },
   (upto 16).all fun i => decide (cTyp (g i) = tRAW) && decide (syndrome (g i) = 0) && !cellBad s (cbAddr s tag i) &&
      (decide (i < 5) || decide (d i = 0)))

/-- The 16 cells of a block are verified as the device reads them (R42): a correctable one is corrected, recorded and written back (R40, R43),
an uncorrectable one recorded. -/
def cbScrub (tag : BitVec 12) (s : State) : State := (upto 16).foldl (fun s i => (readCell none (cbAddr s tag i) s).2) s

/-- A block with EN = 1 is malformed (R487); an uncorrectable cell makes it so too (DESIGN CHOICE: no status is given for it). -/
def cbBad (s : State) (b : ColBlock) (raw : Bool) : Bool :=
  let n0 := b.sc0.toNat
  let tabOk (a : Nat) : Bool := decide (a % 8 = 0) && decide (regionOf s (paOf a) = .dram)
  !raw || decide (bits n0 42 3 ≠ 0) || decide (bits n0 40 2 = 3) || decide (bits n0 0 36 ≠ 0) || decide (cbHi b < cbLo b) ||
    decide (cbRsh b < 12) || decide (cbRsh b > 24) || decide (cbRsh b + cbRps b > 40) || decide (cbGsh b < 3) || decide (cbGsh b > 6) ||
    decide (cbCsh b < 6) || decide (cbCsh b > 12) || decide (cbCsh b > cbRsh b) || decide (bits b.sc1.toNat 0 14 ≠ 0) ||
    decide (bits b.sc2.toNat 40 8 ≠ 0) || decide (bits b.sc3.toNat 40 8 ≠ 0) || decide (cbMqs b < 6) || decide (bits b.sc4.toNat 40 4 ≠ 0) ||
    !tabOk (cbRtab b) || !tabOk (cbCtab b) || !tabOk (cbMqb b)

/-- SC0 with GOOD, MARK and RACT replaced (R487). -/
def sc0With (d : Datum) (good : BitVec 2) (mark : Bool) (ract : BitVec 4) : Datum :=
  d.extractLsb' 47 1 ++ b1 mark ++ d.extractLsb' 45 1 ++ (0 : BitVec 3) ++ good ++ ract ++ (0 : BitVec 36)

/-- Wake every parked skein (R27, R522 step 4). -/
def wakeSkeins (s : State) : State := (upto 32).foldl (fun s k => wakeSkein (BitVec.ofNat 5 k) s) s

/-- Install a block in every skein, removing the tag's cached entries everywhere, and write SC0 in memory (R487, R492). -/
def cbInstall (tag : BitVec 12) (b : ColBlock) (s : State) : State :=
  let s := (upto 32).foldl (fun s k => updSk (BitVec.ofNat 5 k) (fun x => { x with
    blocks := mapSet {} x.blocks tag.toNat b
    regs := x.regs.filter fun e => e.tag ≠ tag }) s) s
  let s := { s with spindles := (s.spindles.map fun p => (p.1, { p.2 with regs := p.2.regs.filter fun e => e.tag ≠ tag })).filter fun p => p.2 ≠ {} }
  putCell none (cbAddr s tag 0) (rawCell b.sc0) s

/-- COLRES or HCOLRES (R518). -/
def putColRes (src : Src) (stat : Nat) (good : BitVec 2) (dur : Nat) (tag : BitVec 12) (s : State) : State :=
  let v : Datum := BitVec.ofNat 4 stat ++ good ++ (0 : BitVec 10) ++ BitVec.ofNat 16 dur ++ (0 : BitVec 4) ++ tag
  match src with
  | .ctx c => if (getCtx s c).st = .free then s else setAx c 10 v s
  | .host => { s with hcolres := v }
  | .hank _ => s

/-- DUR of the issuer's COLRES (R518). -/
def colDur (s : State) (src : Src) : Nat :=
  match src with
  | .ctx c => bits (axPeek s c 10).toNat 16 16
  | .host => bits s.hcolres.toNat 16 16
  | .hank _ => 0

/-- The issuer's COLRES as it stands. -/
def colRes (s : State) (src : Src) : Datum :=
  match src with
  | .ctx c => axPeek s c 10
  | .host => s.hcolres
  | .hank _ => 0

/-- What a FLIP reports at its end: STAT 0, GOOD and DUR, or DUR alone when its issuer has sent another command meanwhile (R518). -/
def flipReport (f : Flip) (s : State) : State :=
  let dur := min 65535 ((s.tb - f.start) / 1000)
  let old := colRes s f.src
  if srcGen s f.src ≠ f.gen then s
  else if bits old.toNat 44 4 = 0xF ∧ old.extractLsb' 0 12 = f.tag then
    putColRes f.src 0 (cbGood (mapGet {} (getSk s 0).blocks f.tag.toNat)) dur f.tag s
  else putColRes f.src (bits old.toNat 44 4) (old.extractLsb' 42 2) dur (old.extractLsb' 0 12) s

/-- A tag lies in a hank's range (R557). -/
def tagIn (g : HankCfg) (tag : BitVec 12) : Bool := decide (g.taglo.toNat ≤ tag.toNat ∧ tag.toNat ≤ g.taghi.toNat)

/-- The issuer may command a tag (R520). -/
def mayTag (s : State) (src : Src) (tag : BitVec 12) : Bool :=
  let outside : Bool := s.hanks.all fun h => decide (h.2.state = 0) || !tagIn h.2.cur tag
  match src with
  | .ctx c => let x := getCtx s c; if x.hv then tagIn (getHank s x.hank).cur tag else outside
  | .host => outside
  | .hank h => tagIn (getHank s h).cur tag

/-- The block a command works on: EN, CARD and the geometry from memory; GOOD, MARK and RACT from the device's copy once it
has one (R487). -/
def cbWork (s : State) (tag : BitVec 12) : ColBlock × Bool :=
  let r := cbRead s tag
  let old : ColBlock := mapGet {} (getSk s 0).blocks tag.toNat
  if old = {} then r
  else ({ r.1 with sc0 := sc0With r.1.sc0 (cbGood old) (cbMark old) (old.sc0.extractLsb' 36 4) }, r.2)

/-- The checks of a collector command that come before its block is read (R520): BADOP, DENIED, BUSY. -/
def colEarly (op : Nat) (m : ColCmd) (s : State) : Nat :=
  if op = 0 ∨ op > 2 ∨ m.rset &&& m.rclr ≠ 0 then 3
  else if !mayTag s m.src m.tag then 2
  else if s.flips.any (fun f => f.tag = m.tag) then 1
  else 0

/-- The status of the first failing check of a collector command (R520), 0 when none fails. -/
def colCheck (op : Nat) (m : ColCmd) (s : State) : Nat :=
  let r := cbRead s m.tag
  if colEarly op m s ≠ 0 then colEarly op m s
  else if !s.colEn || !cbEn r.1 then 4
  else if cbBad s r.1 r.2 then 5
  else 0

/-- The block after SETMK, RSET and RCLR, with a good colour (R517, R521, R522). -/
def cbApply (m : ColCmd) (good : BitVec 2) (b : ColBlock) : ColBlock :=
  let ract := (b.sc0.extractLsb' 36 4 ||| m.rset) &&& ~~~m.rclr
  { b with sc0 := sc0With b.sc0 good (if m.setmk then m.mark else cbMark b) ract }

/-! ## The root pass (R522) -/

/-- One root cell: the healed cell, whether it must be tried again, and the state. A root whose slow path faults stays as
it is. -/
def rootCell (c : CtxId) (v : Cell) (s : State) : Cell × Bool × State :=
  let x := getCtx s c
  if !isBad (blockOf s c) v then (v, false, s)
  else match xSlow c x.skein x.level (spaceTag x) v none s with
    | .ok y s => (y, false, s)
    | .error .wait s => (v, true, s)
    | .error _ s => (v, false, s)

/-- The root pass over w1 to w31 of a context. The twist slow path verifies each as it reads it (R42): a corrected one is rewritten and recorded, an
uncorrectable one recorded and left to the instruction that will consume it (R44). -/
def rootWords (c : CtxId) (s : State) : Bool × State :=
  (upto 31).foldl (fun (acc : Bool × State) i =>
    match wRead c (BitVec.ofNat 5 (i + 1)) acc.2 with
    | .error _ s => (acc.1, s)
    | .ok v s => match rootCell c v s with
      | (y, again, s) => (acc.1 || again, if y = v then s else updCtx c (fun x => wSet x (BitVec.ofNat 5 (i + 1)) y) s)) (false, s)

/-- The root pass over the pending landing values of word kind. -/
def rootLands (c : CtxId) (s : State) : Bool × State :=
  let r := (getCtx s c).land.foldl (fun (acc : List Landing × Bool × State) l =>
    match l.tgt with
    | .word _ =>
      if !l.arrived then (acc.1 ++ [l], acc.2)
      else match rootCell c l.val acc.2.2 with
        | (y, again, s) => (acc.1 ++ [{ l with val := y }], acc.2.1 || again, s)
    | _ => (acc.1 ++ [l], acc.2)) ([], false, s)
  (r.2.1, updCtx c (fun x => { x with land := r.1 }) r.2.2)

/-- A frame cell of a context, for the table of a level (R322). -/
def frameAddr (s : State) (n : Nat) (c : CtxId) (i : Nat) : PAddr := paOf ((frameTab s n).2.toNat + 32 * c.toNat + i)

/-- The record at index k of a frame's landing descriptors (R323, R274); none in a cell that cannot be read. -/
def frameRec (s : State) (n : Nat) (c : CtxId) (k : Nat) : Nat :=
  let a := frameAddr s n c (if k < 9 then 12 + k / 3 else 27)
  match (if cellBad s a then none else verify (cellAt s a)) with
  | some (v, _) => bits (cDat v).toNat (16 * (k % 3)) 16
  | none => 0

/-- The root pass over one active frame: the LVAL cells of word records and cells 23 to 26. Every cell is verified as it is read (R42); one that
cannot be read stays as it is. -/
def rootFrame (c : CtxId) (n : Nat) (s : State) : Bool × State :=
  let s := [12, 13].foldl (fun s i => (readCell (some c) (frameAddr s n c i) s).2) s
  let recs := (upto 6).filter fun k => bitN (frameRec s n c k) 15 && decide (bits (frameRec s n c k) 12 3 ≠ 0) && decide (bits (frameRec s n c k) 9 3 = 0)
  ((recs.map (· + 15)) ++ [23, 24, 25, 26]).foldl (fun (acc : Bool × State) i =>
    let a := frameAddr acc.2 n c i
    match readCell (some c) a acc.2 with
    | (none, s) => (acc.1, s)
    | (some v, s) => match rootCell c v s with
      | (y, again, s) => (acc.1 || again, if y = v then s else putCell none a y s)) (false, s)

/-- The root pass over one context: registers, landings, active frames. -/
def rootCtx (c : CtxId) (s : State) : Bool × State :=
  let r := rootWords c s
  let r2 := rootLands c r.2
  let x := getCtx r2.2 c
  let act := ((upto 3).filter fun n => svActive x (n + 1)).map (· + 1) ++ (if activeBit (axGet x 27) then [4] else [])
  act.foldl (fun (acc : Bool × State) n =>
    let q := rootFrame c n acc.2
    (acc.1 || q.1, q.2)) (r.1 || r2.1, r2.2)

/-- The root pass over every context of a tag; true when some root must be tried again, or a context is MOVING, which is processed after its
installation. -/
def rootPass (tag : BitVec 12) (s : State) : Bool × State :=
  let cs := s.ctxs.filter fun e => decide (e.2.st ≠ .free) && decide (spaceTag e.2 = tag)
  (cs.filter fun e => e.2.st ≠ .moving).foldl (fun (acc : Bool × State) e =>
    let q := rootCtx (BitVec.ofNat 16 e.1) acc.2
    (acc.1 || q.1, q.2)) (cs.any fun e => e.2.st = .moving, s)

/-- A collector command (R517, R520 to R522): checked and performed. FLIP holds the space until FLIP_RELEASE. -/
def colCommand (op : Nat) (m : ColCmd) (s : State) : State :=
  let s := if s.colEn ∧ colEarly op m s = 0 then cbScrub m.tag s else s
  let st := colCheck op m s
  let b := (cbWork s m.tag).1
  let cur := cbGood (mapGet {} (getSk s 0).blocks m.tag.toNat)
  if st ≠ 0 then putColRes m.src st cur (colDur s m.src) m.tag s
  else if op = 2 then
    putColRes m.src 0 (cbGood b) (colDur s m.src) m.tag (cbInstall m.tag (cbApply m (cbGood b) b) (wakeSkeins s))
  else
    let good := BitVec.ofNat 2 ((cbGood b).toNat + 1) % 3
    let s := putColRes m.src 0xF (cbGood b) (colDur s m.src) m.tag s
    let s := { s with flips := s.flips ++ [{ tag := m.tag, gen := srcGen s m.src, src := m.src, start := s.tb }] }
    let s := cbInstall m.tag (cbApply m good b) (wakeSkeins s)
    (rootPass m.tag s).2

/-- The release of a FLIP's contexts once every root is done (R522 step 5). -/
def flipRelease (tag : BitVec 12) (s : State) : State :=
  match s.flips.find? fun f => f.tag = tag with
  | none => s
  | some f =>
    match rootPass tag s with
    | (true, s) => s
    | (false, s) => flipReport f { s with flips := s.flips.filter fun g => g.tag ≠ tag }

end Sys2Proof.Machine
end

