-- ==== Sys2Proof/Machine/CtrlRegs.lean ====
section
/-! DEFINITION. Control registers: numbers, levels, what a read delivers, what a write does when it lands (R81 to R92, R150 to
R154, R187 to R210, R223, R254 to R257, R308 to R312, R324 to R331, R363, R430, R479, R515, R532, R614). -/

namespace Sys2Proof.Machine

/-! ## Numbers and levels (R81, R84) -/

/-- The read and write levels of a register, 4 for "none"; none when the number is unassigned. -/
def crLevels (n : Nat) : Option (Nat × Nat) :=
  match n with
  | 0x000 | 0x001 | 0x002 => some (0, 4)
  | 0x003 | 0x004 | 0x040 | 0x041 | 0x049 | 0x050 | 0x051 | 0x058 | 0x080 | 0x081 | 0x082 | 0x0C1 | 0x0C2 | 0x0C5 | 0x100 => some (0, 0)
  | 0x042 | 0x0C6 | 0x103 | 0x300 | 0x380 | 0x3C0 | 0x3C1 | 0x400 | 0x440 => some (0, 4)
  | 0x048 | 0x084 | 0x085 | 0x0C0 | 0x0C4 | 0x200 | 0x201 | 0x301 | 0x340 | 0x341 | 0x401 => some (0, 1)
  | 0x0C8 | 0x0C9 | 0x101 | 0x203 | 0x383 => some (1, 1)
  | 0x0CA | 0x110 | 0x111 | 0x112 | 0x202 | 0x382 | 0x402 => some (1, 4)
  | 0x102 | 0x381 => some (4, 1)
  | 0x120 | 0x121 | 0x122 => some (2, 4)
  | 0x130 | 0x131 | 0x132 | 0x140 => some (3, 4)
  | 0x3C2 => some (0, 2)
  | 0x3C3 => some (2, 2)
  | _ =>
    if 0x010 ≤ n ∧ n ≤ 0x02F then some (0, 1)
    else if 0x3D0 ≤ n ∧ n ≤ 0x3E7 then some (2, 2)
    else if 0x3E8 ≤ n ∧ n ≤ 0x3F7 then some (2, 4)
    else if 0x3F8 ≤ n ∧ n ≤ 0x3FF then some (2, 2)
    else none

/-! ## Values (R82) -/

/-- LEVEL (R325). -/
def levelReg (x : Ctx) : Datum :=
  dat (b2n (svActive x 3) * 64 + b2n (svActive x 2) * 32 + b2n (svActive x 1) * 16 + b2n (activeBit (axGet x 27)) * 8 + x.level.toNat)

/-- EVSTAT (R311). -/
def evstat (x : Ctx) : Datum :=
  (0 : BitVec 39) ++ x.sendst ++ x.wake ++ b1 x.senderr ++ b1 (decide (x.inbHead ≠ x.inbTail)) ++ b1 x.db

/-- MSSTAT (R256). -/
def msstat (m : MicroRec) : Datum :=
  (0 : BitVec 15) ++ b1 m.mv ++ m.kind ++ m.level ++ (0 : BitVec 3) ++ m.major ++ m.minor ++ (0 : BitVec 8)

/-- TWQSTAT (R257). -/
def twqstat (k : Skein) : Datum :=
  let busy := (upto 4).foldl (fun n u => n + b2n (mapGet {} k.units u : TUnit).req.isSome * 2 ^ u) 0
  dat (2 ^ 16 * k.twOvf.length + 2 ^ 8 * busy + k.twq.length)

/-- UCODEID (R255). -/
def ucodeid (s : State) : Datum :=
  let nm := (s.matchRegs.filter fun e => e.2.getLsbD 31).length
  (0x0003 : BitVec 16) ++ s.pgen ++ BitVec.ofNat 8 nm ++ (0 : BitVec 7) ++ BitVec.ofNat 9 s.nwords

/-- GOOD_COLOR (R516). -/
def goodColor (b : ColBlock) : Datum :=
  (0 : BitVec 39) ++ b1 (cbEn b) ++ b.sc0.extractLsb' 36 4 ++ b1 (cbCard b) ++ b1 (cbMark b) ++ cbGood b

/-- META fields of a carder entry (R528). -/
def metaV (e : CEnt) : Bool := e.meta_.getLsbD 47
def metaOwner (e : CEnt) : BitVec 7 := e.meta_.extractLsb' 37 7

/-- The owner of a carder operation as META holds it: HV and HANK (R529). -/
def ownerBits (hv : Bool) (h : BitVec 6) : BitVec 7 := b1 hv ++ (if hv then h else 0)

/-- Entries an owner holds in a skein. -/
def cardHeldBy (k : Skein) (o : BitVec 7) : Nat := (k.card.filter fun e => metaV e.2 && decide (metaOwner e.2 = o)).length

/-- Entries with V = 0 in a skein. -/
def cardFree (k : Skein) : Nat := 16384 - (k.card.filter fun e => metaV e.2).length

/-- Replacement mode and quota of an owner in a skein (R530). -/
def cardMode (s : State) (k : Skein) (hv : Bool) (h : BitVec 6) : Bool × Nat :=
  if hv then let g := (getHank s h).cur; (g.crepl, g.cquota.toNat) else (k.cRepl, k.cQuota.toNat)

/-- CRINFO (R532). -/
def crinfo (s : State) (x : Ctx) : Datum :=
  let k := getSk s x.skein
  let m := cardMode s k x.hv x.hank
  (0 : BitVec 2) ++ b1 m.1 ++ BitVec.ofNat 15 m.2 ++ BitVec.ofNat 15 (cardHeldBy k (ownerBits x.hv x.hank)) ++ BitVec.ofNat 15 (cardFree k)

/-- A compare, a capture input. -/
def getCmp (s : State) (n : Nat) : Cmp := mapGet {} s.cmps n
def setCmp (s : State) (n : Nat) (c : Cmp) : State := { s with cmps := mapSet {} s.cmps n c }
def getCap (s : State) (n : Nat) : Cap := mapGet {} s.caps n
def setCap (s : State) (n : Nat) (c : Cap) : State := { s with caps := mapSet {} s.caps n c }

/-- CMPn_CTL (R618). -/
def cmpCtl (c : Cmp) : Datum :=
  b1 c.en ++ b1 c.fired ++ b1 c.lateF ++ b1 c.miss ++ c.pinact ++ b1 c.irq ++ b1 c.bite ++ (0 : BitVec 3) ++ c.bskein ++ c.period

/-- CAPn_ST (R622). -/
def capSt (c : Cap) : Datum :=
  c.rise.extractLsb' 48 16 ++ c.fall.extractLsb' 48 16 ++ c.rseq ++ c.fseq ++ b1 c.rv ++ b1 c.fv ++ b1 c.rovr ++ b1 c.fovr ++
    b1 c.pair ++ b1 c.lvl ++ (0 : BitVec 2)

/-- The value of a register of chapter 17 other than TB_LO and TB_HI (R617 to R622). -/
def tbRegRead (s : State) (n : Nat) : Datum :=
  let i := n % 8
  if n = 0x3C2 then b1 s.tbHold ++ b1 s.tbRecon ++ (0 : BitVec 14) ++ s.tbUnc
  else if n = 0x3C3 then s.capctl.setWidth 48
  else if n ≤ 0x3D7 then (getCmp s i).v.setWidth 48
  else if n ≤ 0x3DF then (getCmp s i).bind ++ (getCmp s i).bit ++ (getCmp s i).v.extractLsb' 48 16
  else if n ≤ 0x3E7 then cmpCtl (getCmp s i)
  else if n ≤ 0x3EF then (getCap s i).rise.setWidth 48
  else if n ≤ 0x3F7 then (getCap s i).fall.setWidth 48
  else capSt (getCap s i)

/-- TB_HI (R616). -/
def tbHi (s : State) (c : CtxId) : Datum :=
  let x := getCtx s c
  match (getSp s (ctxSp x)).tbLatch with
  | some (d, g, hi) => if d = c ∧ g = x.gen then (0x80000000 : BitVec 32) ++ hi else dat (s.tb / 2 ^ 48 % 2 ^ 16)
  | none => dat (s.tb / 2 ^ 48 % 2 ^ 16)

/-- The value CRD delivers from an assigned register (R82). -/
def crRead (s : State) (c : CtxId) (n : Nat) : Datum :=
  let x := getCtx s c
  let p := getSp s (ctxSp x)
  let k := getSk s x.skein
  match n with
  | 0x000 => (ctxSp x).setWidth 48
  | 0x001 => (0 : BitVec 25) ++ b1 x.hv ++ (if x.hv then x.hank else 0) ++ c
  | 0x002 => x.flow.pc
  | 0x003 => x.status.setWidth 48
  | 0x004 => (x.preds ||| 1).setWidth 48
  | 0x040 => x.genctl.setWidth 48
  | 0x041 => x.fpflags.setWidth 48
  | 0x042 => axGet x 4
  | 0x048 => axGet x 5
  | 0x049 => dat (b2n x.fpSaved * 4 + b2n (decide (p.fpOwner = some c)))
  | 0x050 => axGet x 7
  | 0x051 => axGet x 0
  | 0x058 => axGet x 3
  | 0x080 => x.flow.lpStart
  | 0x081 => x.flow.lpEnd
  | 0x082 => x.flow.lpCnt
  | 0x084 => axGet x 1
  | 0x085 => axGet x 2
  | 0x0C0 => dat (x.pin.toNat * 8 + x.prio.toNat)
  | 0x0C1 => axGet x 6
  | 0x0C2 => evstat x
  | 0x0C4 => x.inbBase
  | 0x0C5 => x.inbHead.setWidth 48
  | 0x0C6 => x.inbTail.setWidth 48
  | 0x0C9 => axGet x 8
  | 0x0CA => axGet x 9
  | 0x100 => axGet x 25
  | 0x101 => axGet x 26
  | 0x103 => levelReg x
  | 0x110 => axGet x 16
  | 0x111 => axGet x 17
  | 0x112 => axGet x 18
  | 0x120 => axGet x 19
  | 0x121 => axGet x 20
  | 0x122 => axGet x 21
  | 0x130 => axGet x 22
  | 0x131 => axGet x 23
  | 0x132 => axGet x 24
  | 0x140 => axGet x 27
  | 0x200 => axGet x 28
  | 0x201 => axGet x 29
  | 0x202 => axGet x 30
  | 0x203 => axGet x 31
  | 0x300 => dat (b2n (!p.ibusy.isEmpty))
  | 0x301 => dat (b2n p.pfL1f * 16 + p.pfDepth.toNat * 2 + b2n p.pfEn)
  | 0x340 => p.moctl.setWidth 48
  | 0x341 => p.moCtx ++ (0 : BitVec 20) ++ BitVec.ofNat 4 (sbCount p c) ++ (0 : BitVec 4) ++ p.moFlags
  | 0x380 => goodColor (blockOf s c)
  | 0x382 => axGet x 10
  | 0x383 => k.cbCtx ++ (0 : BitVec 31) ++ b1 k.cbErr
  | 0x3C0 => dat s.tb
  | 0x3C1 => tbHi s c
  | 0x400 => ucodeid s
  | 0x401 => msstat x.ms
  | 0x402 => twqstat k
  | 0x440 => crinfo s x
  | _ =>
    if 0x010 ≤ n ∧ n ≤ 0x02F then mapGet 0 (if n % 2 = 0 then p.bsegBase else p.bsegLim) ((n - 0x010) / 2)
    else if 0x3C2 ≤ n ∧ n ≤ 0x3FF then tbRegRead s n
    else 0

/-- The side effect of a CRD: TB_LO writes the spindle's latch (R615). -/
def crReadEffect (c : CtxId) (n : Nat) (s : State) : State :=
  if n = 0x3C0 then
    let x := getCtx s c
    updSp (ctxSp x) (fun p => { p with tbLatch := some (c, x.gen, BitVec.ofNat 16 (s.tb / 2 ^ 48)) }) s
  else s

/-! ## Writes that land (R95, R83) -/

/-- XCTL (R328): PREC at every level; MASK and ROUTE only of sources routed no higher than the writer, to no higher level. -/
def xctlWrite (old v : Datum) (lvl : Nat) : Datum :=
  let src (d : Datum) (i : Nat) : Datum :=
    let r := bits old.toNat (8 + 2 * i) 2
    if lvl = 0 ∨ max 1 r > lvl then d
    else
      let d := setBit d i (v.getLsbD i)
      let nr := bits v.toNat (8 + 2 * i) 2
      if nr > lvl then d else setBit (setBit d (8 + 2 * i) (bitN nr 0)) (9 + 2 * i) (bitN nr 1)
  setBit ((upto 8).foldl src old) 25 (v.getLsbD 25)

/-- IPEND (R329): clear, then set; source 7 is never set. -/
def ipendWrite (old v : Datum) : Datum := ((old &&& ~~~v) ||| (v >>> 8)) &&& 0x7F

/-- INBBASE as it is written (R312). -/
def inbNorm (v : Datum) : Datum :=
  let sz := bits v.toNat 44 4
  let base := bits v.toNat 0 40
  let sz' := if sz = 1 ∨ sz > 12 ∨ base % 2 ^ (sz + 1) ≠ 0 then 0 else sz
  BitVec.ofNat 4 sz' ++ (0 : BitVec 4) ++ BitVec.ofNat 40 base

/-- HPTCFG as it is written (R380). -/
def hptNorm (v : Datum) : Datum :=
  let size := bits v.toNat 40 5
  let base := bits v.toNat 0 40
  if size < 4 ∨ size > 26 ∨ base % (8 * 2 ^ size) ≠ 0 then setBit v 47 false else v

/-- SIZE and BASE of an HPTCFG value name a table (R380). -/
def hptTable (v : Datum) : Bool :=
  let size := bits v.toNat 40 5
  decide (4 ≤ size ∧ size ≤ 26) && decide (bits v.toNat 0 40 % (8 * 2 ^ size) = 0)

/-- A context command from the fields of CTXCMD (R313). -/
def ctxCmdOf (src : Src) (v : Datum) : CtxCmd :=
  { src := src, prio := v.extractLsb' 41 3, pin := v.extractLsb' 39 2, lvl := v.getLsbD 38, any := v.getLsbD 37
    tskein := v.extractLsb' 32 5, tlspin := v.extractLsb' 28 4, ctx := v.extractLsb' 0 16 }

/-- A collector command from the fields of COLCMD (R517). -/
def colCmdOf (src : Src) (v : Datum) : ColCmd :=
  { src := src, setmk := v.getLsbD 43, mark := v.getLsbD 42, rset := v.extractLsb' 38 4, rclr := v.extractLsb' 34 4
    tag := v.extractLsb' 0 12 }

/-- The interrupt of an IPISEND is sent (R330); it is held while the target is MOVING (R269). -/
def ipiDeliver (sender t : CtxId) (s : State) : State :=
  let x := getCtx s sender
  if (getCtx s t).st = .free ∨ hankOfNum s t ≠ (if x.hv then some x.hank else none) then s
  else raiseIrq t 1 (hear (skSector x.skein) t s)

/-- IPISEND (R330): sent once every earlier store of the sender is visible (R456). -/
def ipiSend (c t : CtxId) (s : State) : State :=
  if sbEmpty s c then ipiDeliver c t s else updCtx c (fun x => { x with ipiOut := x.ipiOut ++ [t] }) s

/-- FPSA (R198): SAVED cleared, ownership ends without a save. -/
def fpsaWrite (c : CtxId) (v : Datum) (s : State) : State :=
  fpRelease c false (updCtx c (fun x => { x with fpSaved := false }) (setAx c 5 (v &&& 0xFFFFFFFFE0) s))

/-- FPCTL.SPILL (R201): the owner saves a written file by four line entries of its own; entries that do not fit park it. -/
def spillFile (c : CtxId) (s : State) : State :=
  let x := getCtx s c
  let p := getSp s (ctxSp x)
  if p.fpOwner ≠ some c ∨ !p.fpWritten ∨ fpsaZero x then s
  else
    let img := fpImage p
    let line (j : Nat) : SbEntry :=
      let cells := (upto 8).map fun i => ((fpCell x (8 * j + i)).toNat, img.getD (8 * j + i) 0)
      { ctx := c, sbar := x.sbars, kind := .line (lineOf (fpCell x (8 * j))) cells }
    let r := sbPutAll c ((upto 4).map line) s
    let s := updCtx c (fun x => { x with fpSaved := true }) r.2
    if r.1.isEmpty then s else updCtx c (fun x => { x with park := some (.stores r.1) }) s

/-- A compare register write takes effect (R618, R620). W1C bits of CTL are cleared; a new V re-arms the firing rule (R619). -/
def cmpWrite (n : Nat) (v : Datum) (s : State) : State :=
  let i := n % 8
  let c := getCmp s i
  if n = 0x3C3 then
    (upto 8).foldl (fun s j => if v.getLsbD j then s else setCap s j { getCap s j with pair := false }) { s with capctl := v.extractLsb' 0 24 }
  else if n ≤ 0x3D7 then
    let w := c.v.extractLsb' 48 16 ++ v
    setCmp s i { c with v := w, done := false, late := decide (s.tb > w.toNat + 1) }
  else if n ≤ 0x3DF then
    let w := v.extractLsb' 0 16 ++ c.v.extractLsb' 0 48
    setCmp s i { c with bind := v.extractLsb' 32 16, bit := v.extractLsb' 16 16, v := w, done := false, late := decide (s.tb > w.toNat + 1) }
  else
    let arm := v.getLsbD 47 && !c.en
    let k : BitVec 3 := match c.kept with
      | some (t, b) => if t = s.m.clock then b else 0
      | none => 0
    setCmp s i { c with
      en := v.getLsbD 47, kept := none
      fired := c.fired && (!v.getLsbD 46 || k.getLsbD 2), lateF := c.lateF && (!v.getLsbD 45 || k.getLsbD 1)
      miss := c.miss && (!v.getLsbD 44 || k.getLsbD 0)
      pinact := v.extractLsb' 42 2, irq := v.getLsbD 41, bite := v.getLsbD 40, bskein := v.extractLsb' 32 5
      period := v.extractLsb' 0 32, late := if arm then decide (s.tb > c.v.toNat + 1) else c.late }

/-- CAPn_ST (R622): the W1C flags. -/
def capWrite (n : Nat) (v : Datum) (s : State) : State :=
  let c := getCap s (n % 8)
  setCap s (n % 8) { c with rv := c.rv && !v.getLsbD 7, fv := c.fv && !v.getLsbD 6, rovr := c.rovr && !v.getLsbD 5, fovr := c.fovr && !v.getLsbD 4 }

/-- CTXCMD (R313, R315): sent unless the context's previous command is in progress. -/
def ctxcmdWrite (c : CtxId) (v : Datum) (s : State) : State :=
  if bits (axGet (getCtx s c) 9).toNat 44 4 = 0xF then s else ctxCommand (bits v.toNat 44 4) (ctxCmdOf (.ctx c) v) s

/-- A CWR to SCHEDCTL lands (R309): PRIO and PIN. A pending move that PIN now forbids is given up (R286). -/
def schedctlWrite (c : CtxId) (v : Datum) (s : State) : State :=
  let s := updCtx c (fun x => { x with
    prio := v.extractLsb' 0 3, pin := if v.extractLsb' 3 2 = 3 then x.pin else v.extractLsb' 3 2 }) s
  let x := getCtx s c
  match x.mig with
  | some d => if pinForbids x d.1 then endMig c 3 s else s
  | none => s

/-- The effect of a CWR at its landing slot (R95): the register and the datum of the source cell. PREDS is landed apart. DESIGN CHOICE, where
no rule says: a BSEGn write that is pending while its context moves lands on the spindle the context then runs on, since a KIND 5 record
names no spindle (R119, R274); DISCARD clears the whole record with MV (R256). -/
def crLand (c : CtxId) (n : Nat) (v : Datum) (s : State) : State :=
  let x := getCtx s c
  let q := ctxSp x
  let uc (f : Ctx → Ctx) : State := updCtx c f s
  match n with
  | 0x003 => uc fun x => { x with status := v.extractLsb' 0 5 }
  | 0x040 => uc fun x => { x with genctl := v.extractLsb' 0 16 &&& 0xFE07 }
  | 0x041 => uc fun x => { x with fpflags := x.fpflags &&& ~~~(v.extractLsb' 0 5) }
  | 0x048 => fpsaWrite c v s
  | 0x049 => if v.getLsbD 1 then spillFile c s else s
  | 0x050 => setAx c 7 (v &&& ~~~1#48) s
  | 0x051 => setAx c 0 (v &&& ~~~7#48) s
  | 0x058 => setAx c 3 (v &&& 0x1FFFFFFFFFF) s
  | 0x080 => uc fun x => { x with flow := { x.flow with lpStart := v } }
  | 0x081 => uc fun x => { x with flow := { x.flow with lpEnd := v } }
  | 0x082 => uc fun x => { x with flow := { x.flow with lpCnt := v } }
  | 0x084 => setAx c 1 v s
  | 0x085 => setAx c 2 v s
  | 0x0C0 => schedctlWrite c v s
  | 0x0C1 => setAx c 6 (v &&& 3) s
  | 0x0C2 => uc fun x => { x with senderr := x.senderr && !v.getLsbD 2, db := x.db && !v.getLsbD 0 }
  | 0x0C4 => uc fun x => { x with inbBase := inbNorm v, inbHead := 0, inbTail := 0 }
  | 0x0C5 => uc fun x => { x with inbHead := BitVec.ofNat 12 (bits v.toNat 0 12 % 2 ^ bits x.inbBase.toNat 44 4) }
  | 0x0C8 => ctxcmdWrite c v s
  | 0x0C9 => setAx c 8 v s
  | 0x100 => setAx c 25 (xctlWrite (axGet x 25) v x.level.toNat) s
  | 0x101 => setAx c 26 (ipendWrite (axGet x 26) v) s
  | 0x102 => ipiSend c (v.extractLsb' 0 16) s
  | 0x200 => setAx c 28 (v &&& 0xFFF07FFFFFFF) s
  | 0x201 => setAx c 29 (v &&& 0xFFFFFFFF) s
  | 0x203 => setAx c 31 (hptNorm v) s
  | 0x301 => updSp q (fun p => { p with pfL1f := v.getLsbD 4, pfDepth := v.extractLsb' 1 3, pfEn := v.getLsbD 0 }) s
  | 0x340 => updSp q (fun p => { p with moctl := v.extractLsb' 0 2 }) s
  | 0x341 => updSp q (fun p => { p with moFlags := p.moFlags &&& ~~~(v.extractLsb' 0 4) }) s
  | 0x381 => colCommand (bits v.toNat 44 4) (colCmdOf (.ctx c) v) s
  | 0x383 => updSk x.skein (fun k => { k with cbErr := k.cbErr && !v.getLsbD 0 }) s
  | 0x3C2 => { s with tbRecon := s.tbRecon && !v.getLsbD 46 }
  | 0x401 => if v.getLsbD 33 then uc fun x => { x with ms := {} } else s
  | _ =>
    if 0x010 ≤ n ∧ n ≤ 0x02F then
      let i := (n - 0x010) / 2
      if n % 2 = 0 then updSp q (fun p => { p with bsegBase := mapSet 0 p.bsegBase i v }) s
      else updSp q (fun p => { p with bsegLim := mapSet 0 p.bsegLim i (v &&& 0xC1FFFFFFFFFF) }) s
    else if n = 0x3C3 ∨ (0x3D0 ≤ n ∧ n ≤ 0x3E7) then { s with cmpW := s.cmpW ++ [(BitVec.ofNat 12 n, v)] }
    else if 0x3F8 ≤ n ∧ n ≤ 0x3FF then capWrite n v s
    else s

/-- The seven predicates of a PREDS landing: values in bits [7:1], those still to land in bits [15:9] (R92, R275). -/
def predsLand (v : Datum) (x : Ctx) : Ctx :=
  { x with preds := (upto 7).foldl (fun p i => if v.getLsbD (9 + i) then setBit p (1 + i) (v.getLsbD (1 + i)) else p) x.preds }

/-- The cell a CWR lands: for PREDS, all seven marked as still to land (R275). -/
def crCell (n : Nat) (v : Cell) : Cell :=
  if n = 0x004 then rawCell ((cDat v &&& 0xFE) ||| 0xFE00) else v

/-- A ring of an inbox lies inside the DRAM ranges of its context's hank (R554). -/
def inbGrant (s : State) (x : Ctx) (v : Datum) : Bool :=
  let w := (inbNorm v).toNat
  !x.hv || decide (bits w 44 4 = 0) || inDramGrant (getHank s x.hank).cur (bits w 0 40) (2 ^ (bits w 44 4 + 1))

/-- The hank-grant check of a CWR to SPACE, HPTCFG, INBBASE or FPSA at its own slot (R365, R380, R554): the INFO of the fault. -/
def crGrant (s : State) (x : Ctx) (n : Nat) (v : Datum) : Option Datum :=
  if !x.hv then none
  else if n = 0x048 then some (v &&& 0xFFFFFFFFE0)
  else if n = 0x0C4 then (if inbGrant s x v then none else some (dat (bits v.toNat 0 40)))
  else if n = 0x200 then
    let tag : BitVec 12 := v.extractLsb' 36 12
    let tab := 512 * bits v.toNat 0 31
    if !tagIn (getHank s x.hank).cur tag then some (tag.setWidth 48)
    else if !inGrant s x.hank tab 512 then some (dat tab)
    else none
  else if n = 0x203 then
    let w := v.toNat
    if hptTable v ∧ !inGrant s x.hank (bits w 0 40) (8 * 2 ^ bits w 40 5) then some (dat (bits w 0 40)) else none
  else none

end Sys2Proof.Machine
end

