-- ==== Sys2Proof/Machine/Except.lean ====
section
/-! DEFINITION. Landings taking effect, landing records, exception entry, the double fault, the spindle reset and ERET (R96 to R99,
R270 to R276, R321 to R358). -/

namespace Sys2Proof.Machine

/-! ## Landings -/

/-- The registers a landing writes (R98): STATUS is one target, whichever way it is written (R104). -/
def sameTgt (a b : Tgt) : Bool :=
  let key (t : Tgt) : Tgt := if t = .creg 0x003 then .status else t
  decide (key a = key b)

/-- A later write to the same target with the same landing slot discards an earlier one (R98); a PREDS landing loses the
predicates that a later write takes (R275). -/
def keepLands : List Landing → List Landing
  | [] => []
  | l :: rest =>
    let later := rest.filter fun m => m.slot = l.slot
    let byPreds (n : BitVec 3) : Bool := later.any fun m => decide (m.tgt = .creg 0x004) && (cDat m.val).getLsbD (8 + n.toNat)
    if later.any (fun m => sameTgt m.tgt l.tgt) then keepLands rest
    else match l.tgt with
      | .pred n => if byPreds n then keepLands rest else l :: keepLands rest
      | .creg n =>
        if n = 0x004 then
          let mask := (upto 7).foldl (fun v i => if later.any (fun m => decide (m.tgt = .pred (BitVec.ofNat 3 (i + 1)))) then setBit v (9 + i) false else v) (cDat l.val)
          { l with val := rawCell mask } :: keepLands rest
        else l :: keepLands rest
      | _ => l :: keepLands rest

/-- An armed injection into a word register (R719): the register's next write. -/
def injWord (c : CtxId) (r : BitVec 5) (s : State) : State :=
  let a := s.injAddr.toNat
  match s.injArmed with
  | some x =>
    if bits a 60 4 = 4 ∧ bits a 0 5 = r.toNat ∧ bits a 16 16 = c.toNat ∧ r ≠ 0 then
      bump 0x22 (updCtx c (fun y => { y with w := mapSet 0 y.w r.toNat (wGet y r ^^^ x) }) { s with injArmed := none })
    else s
  | none => s

/-- One landing takes effect. -/
def applyLand (c : CtxId) (l : Landing) (s : State) : State :=
  let x := getCtx s c
  match l.tgt with
  | .word r => injWord c r (updCtx c (fun x => wSet x r l.val) s)
  | .fp r => updSp (ctxSp x) (fun p =>
      if p.fpOwner = some c then { p with fp := mapSet 0 p.fp r.toNat l.val, fpWritten := true, fpBad := p.fpBad.filter fun b => b ≠ r } else p) s
  | .pred n => updCtx c (fun x => pSet x n (l.val.getLsbD 0)) s
  | .pbit b => updCtx c (fun x => { x with pbits := setBit x.pbits b.toNat (l.val.getLsbD 0) }) s
  | .status => updCtx c (fun x => { x with status := l.val.extractLsb' 0 5 }) s
  | .creg n => if n = 0x004 then updCtx c (predsLand (cDat l.val)) s else crLand c n.toNat (cDat l.val) s

/-- Insert in order of landing slot, equal slots in issue order (R98). -/
def insLand (l : Landing) : List Landing → List Landing
  | [] => [l]
  | m :: ms => if l.slot < m.slot then l :: m :: ms else m :: insLand l ms

/-- The landings due by the context's slot take effect in order (R96, R98), while the context exists. -/
def applyDue (c : CtxId) (s0 : State) : State :=
  let now := (getCtx s0 c).flow.slot
  let s := bitsRead c (fun l => decide (l.slot ≤ now)) s0
  let x := getCtx s c
  let due (l : Landing) : Bool := decide (l.slot ≤ x.flow.slot) && l.arrived && l.fpx.isNone
  let ls := (x.land.filter due).foldl (fun r l => insLand l r) []
  let s := updCtx c (fun x => { x with land := x.land.filter fun l => !due l }) s
  ls.foldl (fun s l => if (getCtx s c).st = .free ∨ (getCtx s c).gen ≠ x.gen then s else applyLand c l s) s

/-! ## Landing records (R273 to R275) -/

/-- A landing with a value cell: a word, f or control-register landing (R273). -/
def hasVal (t : Tgt) : Bool :=
  match t with
  | .word _ | .fp _ | .creg _ => true
  | _ => false

/-- KIND and PAY of a record (R274). -/
def recKindPay (l : Landing) : Nat × Nat :=
  match l.tgt with
  | .word r => (0, r.toNat)
  | .fp r => (1, r.toNat)
  | .pred n => (2, n.toNat * 2 + b2n (l.val.getLsbD 0))
  | .pbit b => (3, b.toNat * 2 + b2n (l.val.getLsbD 0))
  | .status => (4, bits l.val.toNat 0 5)
  | .creg _ => (5, 0)

/-- A 16-bit record, with REM counted from a slot. -/
def recBits (b : Nat) (l : Landing) : Nat :=
  let kp := recKindPay l
  2 ^ 15 + 2 ^ 12 * ((l.slot - b) % 8) + 2 ^ 9 * kp.1 + kp.2

/-- LVAL and its extension (R274, R275). -/
def recVal (l : Landing) : Cell × Nat :=
  match l.tgt with
  | .fp _ => (rawCell (l.val.extractLsb' 0 48), (l.val.extractLsb' 48 16).toNat)
  | .creg n => (l.val, n.toNat)
  | _ => (l.val, 0)

/-- The landings still pending after slot `b` in record order: value landings first, then the others (R273). -/
def recOrder (b : Nat) (ls : List Landing) : List Landing :=
  let p := (keepLands ls).filter fun l => decide (b < l.slot)
  p.filter (fun l => hasVal l.tgt) ++ p.filter (fun l => !hasVal l.tgt)

/-- LDESC0 to LDESC3, LVAL0 to LVAL5 and LEXT0 to LEXT1 of the landings pending after slot `b`, as cells. `u k` is the LVAL of a
record k that carries no value cell, or whose value has not arrived: no rule states it. -/
def recCells (u : Nat → Cell) (b : Nat) (ls : List Landing) : List Cell × List Cell × List Cell :=
  let rs := recOrder b ls
  let rb (k : Nat) : Nat := match rs[k]? with
    | some l => recBits b l
    | none => 0
  let val (k : Nat) : Cell × Nat := match rs[k]? with
    | some l => if hasVal l.tgt then recVal (if l.arrived then l else { l with val := u k }) else (u k, 0)
    | none => (u k, 0)
  let pack (f : Nat → Nat) (j : Nat) : Cell := rawCell (dat (f (3 * j) + 2 ^ 16 * f (3 * j + 1) + 2 ^ 32 * f (3 * j + 2)))
  ((upto 4).map (pack rb), (upto 6).map (fun k => (val k).1), (upto 2).map (pack fun k => (val k).2))

/-- A record as a landing at slot `b` + REM; none when V = 0 (R343). -/
def recLand (b : Nat) (w : Nat) (lval : Cell) (ext : Nat) : Option Landing :=
  let pay := bits w 0 9
  let mk (t : Tgt) (v : BitVec 64) : Option Landing := some { slot := b + bits w 12 3, tgt := t, val := v }
  if !bitN w 15 then none
  else match bits w 9 3 with
    | 0 => mk (.word (BitVec.ofNat 5 pay)) lval
    | 1 => mk (.fp (BitVec.ofNat 4 pay)) (BitVec.ofNat 16 ext ++ cDat lval)
    | 2 => mk (.pred (BitVec.ofNat 3 (pay / 2))) (BitVec.ofNat 64 (pay % 2))
    | 3 => mk (.pbit (BitVec.ofNat 8 (pay / 2))) (BitVec.ofNat 64 (pay % 2))
    | 4 => mk .status (BitVec.ofNat 64 (pay % 32))
    | 5 => mk (.creg (BitVec.ofNat 12 ext)) lval
    | _ => none

/-- Check 6 of R342 for the record at an index. -/
def recOk (plev : Nat) (k w ext : Nat) : Bool :=
  let kind := bits w 9 3
  let pay := bits w 0 9
  let rem := bits w 12 3
  !bitN w 15 ||
    (decide (kind ≤ 5) && decide (1 ≤ rem ∧ rem ≤ 5) && (decide (kind ≠ 0 ∧ kind ≠ 1 ∧ kind ≠ 5) || decide (k ≤ 5)) &&
      (decide (kind ≠ 0) || decide (1 ≤ pay ∧ pay ≤ 31)) && (decide (kind ≠ 1) || decide (pay ≤ 15)) &&
      (decide (kind ≠ 2) || decide (2 ≤ pay ∧ pay ≤ 15)) && (decide (kind ≠ 4) || decide (pay ≤ 31)) &&
      (decide (kind ≠ 5) ||
        match crLevels (ext % 4096) with
        | some (_, w) => decide (w ≤ plev) && decide (w ≤ 3)
        | none => false))

/-! ## FLOW (R272) -/

/-- The FLOW cell of a context. -/
def flowCell (x : Ctx) : Cell :=
  rawCell (x.flow.dcnt ++ x.status ++ x.preds.extractLsb' 1 7 ++ b1 x.fpSaved ++ x.genctl ++ x.fpflags ++ (0 : BitVec 12))

/-! ## Entry (R334 to R340) -/

/-- A buffered entry's effect on a cell that its own context reads ahead of it (R454, R455). -/
def sbOver (a : PAddr) (v : Cell) (k : SbKind) : Cell :=
  match k with
  | .line ln cells => if ln = lineOf a ∧ cells.any (fun e => e.1 = a.toNat) then mapGet 0 cells a.toNat else v
  | .zline ln => if ln = lineOf a then unsetCell else v
  | .bit3 pa b x => if pa = a ∧ (bit3Val v b).isSome then rawCell (setBit (if cTyp v = tRAW then cDat v else 0) b x) else v
  | _ => v

/-- A cell as its context's own buffered stores leave it, bit writes with them: the cell in memory, none when uncorrectable, with each entry in
order (R322, R343, R448). -/
def ownCell (c : CtxId) (a : PAddr) (s : State) : Option Cell × State :=
  let p := getSp s (spOf s c)
  let seen (v : Cell) : Cell := (p.sb.filter fun e => e.ctx = c).foldl (fun v e => sbOver a v e.kind) v
  match sbForward p c a with
  | some _ => (some (seen unsetCell), s)
  | none => match readCell (some c) a s with
    | (some v, s) => (some (seen v), s)
    | (none, s) => (none, s)

/-- Read a run of cells; none when one is uncorrectable. -/
def readRun (c : CtxId) (own : Bool) (a : PAddr) (n : Nat) (s : State) : Option (List Cell) × State :=
  (upto n).foldl (fun acc i =>
    match acc with
    | (none, s) => (none, s)
    | (some l, s) =>
      match (if own then ownCell c (paOf (a.toNat + i)) s else readCell (some c) (paOf (a.toNat + i)) s) with
      | (some v, s) => (some (l ++ [v]), s)
      | (none, s) => (none, s)) (some [], s)

/-- The lines of a frame or an annex pass through the skein cache (R280, R322). -/
def frameTouch (c : CtxId) (a : PAddr) (own : Bool) (s : State) : State :=
  let k := (getCtx s c).skein
  (upto 4).foldl (fun s j => unitTouch k (getSk s k).hmask (lineOf a + j) own 1 s) s

/-- Write a run of cells as a device access. -/
def writeRun (c : CtxId) (a : PAddr) (vs : List Cell) (s : State) : State :=
  vs.zipIdx.foldl (fun s e => putCell (some c) (paOf (a.toNat + e.2)) e.1 s) s

/-- A frame of a context is not in its skein's cache, and can come into it (R339). -/
def frameMiss (c : CtxId) (tab : Nat) (s : State) : Bool :=
  let k := getSk s (getCtx s c).skein
  (frameTab s tab).1 && (upto 4).any fun j =>
    let ln := lineOf (frameAddr s tab c 0) + j
    (skFind k ln).isNone && canInstall k k.hmask ln

/-- The value of a cause register (R326). -/
def causeWord (x : Ctx) (r : Raise) (code : BitVec 8) (esc : Bool) : Datum :=
  b1 true ++ (0 : BitVec 1) ++ x.level ++ b1 r.imp ++ b1 r.multi ++ b1 (decide (x.flow.dcnt ≠ 0)) ++
    b1 (decide (x.flow.pc = x.flow.lpEnd ∧ x.flow.lpCnt ≠ 0)) ++ b1 esc ++ (0 : BitVec 31) ++ code

/-- The state a handler starts in (R338): registers, stack bounds, loop, GENCTL, level and address. -/
def handlerCtx (n : Nat) (hentry hsp lo hi : Cell) (cause info : Datum) (addr : VAddr) (x : Ctx) : Ctx :=
  let entry : Option VAddr := if cTyp hentry = tCODE then vAdd (cDat hentry) 1 else some (cDat hentry)
  let x := wSet (wSet (wSet (wSet x 28 (rawCell cause)) 29 (rawCell info)) 30 (rawCell addr)) 31 hsp
  let x := axPut (axPut x 1 (cDat lo)) 2 (cDat hi)
  { x with
    level := BitVec.ofNat 2 n, genctl := 0x0005, land := [], skip := false, pendExc := none, fpDue := false, entry := none
    res := none, resHold := false
    flow := { slot := x.flow.slot, pc := entry.getD (cDat hentry), past := entry.isNone } }

/-- A cell that no rule states, from a free value: never of a type that no agent but a call, or none at all, may make (R52, R221). -/
def freeCell (n k : Nat) : Cell :=
  let v := sealCell (BitVec.ofNat 64 (n / 2 ^ (64 * k)))
  if cTyp v = tRETA ∨ cTyp v = tFWD ∨ isReserved (cTyp v) then rawCell (cDat v) else v

/-- Entry through a frame table (R337 to R340), `n` its level and `tab` its number (4 the double fault): false when the level is
unusable or the entry fails. -/
def enterLevel (c : CtxId) (n tab : Nat) (r : Raise) (esc : Bool) (s : State) : Bool × State :=
  if !(frameTab s tab).1 then (false, s)
  else
    let s := bitsRead c (fun _ => true) (applyDue c s)
    let a := frameAddr s tab c 0
    let s := frameTouch c a false s
    match readRun c false a 4 s with
    | (none, s) => (false, s)
    | (some h, s) =>
      let he := h.getD 0 0
      let hsp := h.getD 1 0
      if !(cTyp he = tRAW || cTyp he = tLOC || cTyp he = tCODE) || !(cTyp hsp = tRAW || cTyp hsp = tLOC) then (false, s)
      else
        let x := getCtx s c
        let fr := freshNat s
        let s := fr.2
        let rc := recCells (freeCell fr.1) x.flow.slot x.land
        let raw (v : Datum) : Cell := rawCell v
        let cells := [raw x.flow.pc, raw (if x.flow.dcnt = 0 then 0 else x.flow.dtgt), flowCell x, raw x.flow.lpStart, raw x.flow.lpEnd, raw x.flow.lpCnt,
            raw (axGet x 1), raw (axGet x 2)] ++ rc.1.take 3 ++ rc.2.1 ++ rc.2.2 ++
          [wGet x 28, wGet x 29, wGet x 30, wGet x 31] ++ rc.1.drop 3 ++ [0, 0, 0, 0]
        let s := writeRun c (frameAddr s tab c 4) cells (frameTouch c a true s)
        let cause := causeWord x r (if tab = 4 then 0xF0 else r.code) (esc || decide (tab = 4))
        let df : Datum := b1 true ++ ((axGet x 27).extractLsb' 46 1) ++ x.level ++ b1 r.imp ++ (0 : BitVec 35) ++ r.code
        let s := if tab = 4 then setAx c 27 df s
          else setAx c (svCell n) cause (setAx c (svCell n + 1) r.info (setAx c (svCell n + 2) r.addr s))
        (true, updCtx c (fun y =>
          let y := handlerCtx n he hsp (h.getD 2 0) (h.getD 3 0) cause r.info r.addr y
          { y with killSaved := if x.flow.kill then mapIns tab x.flow.dtgt (mapDel tab y.killSaved) else mapDel tab y.killSaved }) s)

/-- Step 4 of a spindle reset (R357): the f file is saved, level-1 cache, instruction cache and unlocked translations are emptied. Registers of the
spindle stay, and with them who owns the f file. -/
def spindleClear (q : SpId) (s : State) : State :=
  let p := getSp s q
  let s := fpSave q s
  let s := p.l1.foldl (fun s e => if e.2.valid then l1Drop q e.2.ln s else s) s
  updSp q (fun p => tlbFlush { p with ic := [], icTree := [], rst := none }) s

/-- The step of a spindle reset that waits for the stores of its context (R456). -/
def spindleResume (q : SpId) (s : State) : State :=
  match (getSp s q).rst with
  | some c => if sbCount (getSp s q) c = 0 then spindleClear q s else s
  | none => s

/-- Spindle reset (R357) on a third fault of a context: it is suspended with TRIPLE = 1, the other ply's context returns to
READY; the rest follows once every store of the context is visible (R456); logged under R716. -/
def spindleReset (c : CtxId) (r : Raise) (s : State) : State :=
  let x := getCtx s c
  let q := ctxSp x
  let p := getSp s q
  let other := [p.plyA, p.plyB].filterMap fun o => match o with
    | some d => if d = c then none else some d
    | none => none
  let s := updCtx c (fun x => axPut x 27 (setBit (axGet x 27) 46 true)) s
  let s := updCtx c (fun x => { x with suspFrom := .ready }) (haltCtx c s)
  let s := other.foldl (fun s d =>
    let s := offPly d s
    if (getCtx s d).st = .running then updCtx d (fun x => { x with st := .ready }) s else s) s
  let s := updSp q (fun p => { p with
    plyA := none, plyB := none, prepared := false, rst := some c
    resets := if (r.code = 0x01 ∧ r.info = 0) ∨ r.code = 0x40 then s.tb :: p.resets else p.resets }) s
  spindleResume q
    (logEvent 0x11 3 (spSk q).toNat (32 + physPos (getSk s (spSk q)) (spLs q)) (some c) none r.info.toNat s)

/-- The base level of a cause (R333). -/
def baseLevel (code : BitVec 8) : Nat := if code = 0x40 then 2 else 1

/-- A request for the lines of a frame, each of which waits where it must (R339, R421). -/
def frameAsk (c : CtxId) (a : PAddr) (s : State) : State :=
  let k := (getCtx s c).skein
  (upto 4).foldl (fun s j => (skFill k (getSk s k).hmask (lineOf a + j) false 1 .unit s).2) s

/-- A frame access that misses parks the context until its lines have come (R339). -/
def frameWait (c : CtxId) (tab : Nat) (r : Raise) (irq : Option Nat) (esc : Bool) (s : State) : State :=
  updCtx c (fun x => { x with st := if x.st = .running then .parked else x.st, park := some (.frame r irq tab esc) })
    (frameAsk c (frameAddr s tab c 0) s)

/-- Enter through a frame table: entered or not, and none where the context parks for the frame first (R339). -/
def tryEnter (c : CtxId) (n tab : Nat) (r : Raise) (irq : Option Nat) (esc : Bool) (s : State) : Option Bool × State :=
  if frameMiss c tab s then (none, frameWait c tab r irq esc s)
  else
    let e := enterLevel c n tab r esc s
    (some e.1, e.2)

/-- Levels from `t` up that are not busy are tried in order; true when one is entered, or the context parks for its frame (R334, R340). -/
def tryLevels (c : CtxId) (r : Raise) (t : Nat) (esc : Bool) : List Nat → State → Bool × State
  | [], s => (false, s)
  | n :: ns, s =>
    if t ≤ n ∧ !svActive (getCtx s c) n then
      match tryEnter c n n r none (esc || decide (t < n)) s with
      | (some false, s) => tryLevels c r t esc ns s
      | (_, s) => (true, s)
    else tryLevels c r t esc ns s

/-- The double fault, and where its entry fails the spindle reset (R356, R357). -/
def enterDouble (c : CtxId) (r : Raise) (s : State) : State :=
  match tryEnter c 3 4 r none true s with
  | (some false, s) => spindleReset c r s
  | (_, s) => s

/-- Deliver from level `t` up: the first level that is not busy and can be entered; beyond L3 the double fault (R334, R356, R357). -/
def deliverFrom (c : CtxId) (r : Raise) (t : Nat) (esc : Bool) (s : State) : State :=
  match tryLevels c r t esc [1, 2, 3] s with
  | (true, s) => s
  | (false, s) => enterDouble c r s

/-- Deliver an exception other than an interrupt, the landings of its boundary in effect (R334, R357). -/
def deliverNow (c : CtxId) (r : Raise) (s : State) : State :=
  let x := getCtx s c
  if activeBit (axGet x 27) then spindleReset c r s
  else deliverFrom c r (max (baseLevel r.code) x.level.toNat) false s

/-- Deliver an interrupt, the landings of its boundary in effect (R335, R340). -/
def deliverIrqNow (c : CtxId) (i : Nat) (s : State) : State :=
  let x := getCtx s c
  let n := routeOf x i
  let r : Raise := { code := BitVec.ofNat 8 (0x80 + i), info := 0, addr := x.flow.pc }
  match tryEnter c n n r (some i) false s with
  | (some false, s) => deliverFrom c r (n + 1) true s
  | (_, s) => s

/-- Deliver an exception or an interrupt. -/
def deliverAny (c : CtxId) (r : Raise) (irq : Option Nat) (s : State) : State :=
  match irq with
  | some i => deliverIrqNow c i s
  | none => deliverNow c r s

/-- The landings of a boundary take effect before the entry made there, while the context has its f file (R96, R200). Where one of them parks the
context, or takes it off its ply, the entry follows when the context runs again (R201). -/
def deliverAt (c : CtxId) (r : Raise) (irq : Option Nat) (s0 : State) : State :=
  let s := applyDue c s0
  let x := getCtx s c
  if x.st = .free ∨ x.gen ≠ (getCtx s0 c).gen then s
  else if x.park.isSome ∨ ((getCtx s0 c).st = .running ∧ x.st ≠ .running) then
    updCtx c (fun x => { x with entry := some (r, irq), st := if x.st = .running then .parked else x.st }) s
  else deliverAny c r irq s

/-- Deliver an exception other than an interrupt: at once, or parked for its frame (R334, R339, R357). -/
def deliver (c : CtxId) (r : Raise) (s : State) : State := deliverAt c r none s

/-- Deliver an interrupt: at once, or parked for its frame (R335, R339, R340). -/
def deliverIrq (c : CtxId) (i : Nat) (s : State) : State :=
  deliverAt c { code := BitVec.ofNat 8 (0x80 + i), info := 0, addr := (getCtx s c).flow.pc } (some i) s

/-- The frame that an entry waits for has come: the entry goes on from its table, and its context is eligible to run unless it waits for a further
frame. A line that still waits for its victim keeps it parked (R339, R421). -/
def frameResume (c : CtxId) (s : State) : State :=
  let x := getCtx s c
  match x.park with
  | some (.frame r _ tab esc) =>
    let late := (upto 4).any fun j => heldAny s (lineOf (frameAddr s tab c 0) + j)
    if late then s
    else if frameMiss c tab s then frameAsk c (frameAddr s tab c 0) s
    else
      let s := updCtx c (fun x => { x with park := none }) s
      let s := if tab = 4 then enterDouble c r s
        else match enterLevel c tab tab r esc s with
          | (true, s) => s
          | (false, s) => deliverFrom c r (tab + 1) true s
      if (getCtx s c).park.isSome then s else resumeParked c s
  | _ => s

/-! ## FP exceptions at a boundary (R348, R349) -/

/-- The earliest-issued pending FP exception of a context. -/
def firstFp (x : Ctx) : Option FpExc :=
  x.land.foldl (fun r l => match l.fpx, r with
    | some f, some g => if f.at_ < g.at_ then some f else r
    | some f, none => some f
    | none, _ => r) none

/-- Report the earliest pending FP exception: its landings are discarded, the others land their default results. MULTI says that there were
others, or that a precise exception at the boundary is displaced by it (R349). A context with a move of its own to make then leaves its ply (R313). -/
def reportFp (c : CtxId) (f : FpExc) (displaced : Bool) (s : State) : State :=
  let x := getCtx s c
  let multi := x.land.any fun l => match l.fpx with
    | some g => decide (g.at_ ≠ f.at_)
    | none => false
  let s := updCtx c (fun x => { x with
    fpDue := false
    pendExc := none
    land := ((x.land.filter fun l => l.fpx ≠ some f).map fun l => { l with fpx := none }).filter fun l => l.tgt ≠ .word 0 ∧ l.tgt ≠ .pred 0 }) s
  leaveToMove c (deliver c { code := 0x22, info := f.flags.setWidth 48, addr := f.addr, imp := true, multi := multi || displaced } s)

/-- Take an exception at a boundary: a pending FP exception is reported in its place (R336, R348). -/
def takeExc (c : CtxId) (r : Raise) (s : State) : State :=
  match firstFp (getCtx s c) with
  | some f => reportFp c f true s
  | none => deliver c r s

/-! ## ERET (R341 to R344) -/

/-- The cause has the resume kind "at" (R333). -/
def resumesAt (code : BitVec 8) : Bool := decide (code ≠ 0x70) && decide (code.toNat < 0x80 ∨ 0x86 < code.toNat)

/-- The failing check of an ERET (R342), or the frame's cells 4 to 27 and whether it skips. -/
def eretCheck (c : CtxId) (sa : Cell) (s : State) : (Nat ⊕ (List Cell × Bool)) × State :=
  let x := getCtx s c
  let n := x.level.toNat
  let df := decide (n = 3) && activeBit (axGet x 27)
  let cause := if df then axGet x 27 else axGet x (svCell n)
  let plev := bits cause.toNat 44 2
  let code : BitVec 8 := cause.extractLsb' 0 8
  let skip := identical sa (fixCell 1)
  if !activeBit cause then (.inl 1, s)
  else if x.flow.dcnt ≠ 0 then (.inl 2, s)
  else if !(isNil sa || identical sa (fixCell 0) || (skip && resumesAt code && !cause.getLsbD 43)) then (.inl 3, s)
  else
    let tab := if df then 4 else n
    let a := frameAddr s tab c 0
    let s := frameTouch c a false s
    match readRun c true (frameAddr s tab c 4) 24 s with
    | (none, s) => (.inl 4, s)
    | (some cs, s) =>
      let g (i : Nat) : Cell := cs.getD (i - 4) 0
      let addrOk (v : Cell) : Bool := cTyp v = tRAW || cTyp v = tLOC
      let rw (k : Nat) : Nat := bits (cDat (g (if k < 9 then 12 + k / 3 else 27))).toNat (16 * (k % 3)) 16
      let ext (k : Nat) : Nat := if k < 6 then bits (cDat (g (21 + k / 3))).toNat (16 * (k % 3)) 16 else 0
      if !addrOk (g 4) || !addrOk (g 5) then (.inl 5, s)
      else if !(upto 12).all (fun k => recOk plev k (rw k) (ext k)) then (.inl 6, s)
      else (.inr (cs, skip), s)

/-- The context an ERET restores from frame cells 4 to 27 (R343), its first slot being `b`. -/
def eretCtx (cs : List Cell) (skip : Bool) (plev : BitVec 2) (tab b : Nat) (x : Ctx) : Ctx :=
  let g (i : Nat) : Cell := cs.getD (i - 4) 0
  let d (i : Nat) : Datum := cDat (g i)
  let fl := d 6
  let rw (k : Nat) : Nat := bits (d (if k < 9 then 12 + k / 3 else 27)).toNat (16 * (k % 3)) 16
  let ext (k : Nat) : Nat := if k < 6 then bits (d (21 + k / 3)).toNat (16 * (k % 3)) 16 else 0
  let lands := (upto 12).filterMap fun k => recLand b (rw k) (if k < 6 then g (15 + k) else 0) (ext k)
  let x := wSet (wSet (wSet (wSet x 28 (g 23)) 29 (g 24)) 30 (g 25)) 31 (g 26)
  let x := axPut (axPut x 1 (d 10)) 2 (d 11)
  let dcnt : BitVec 2 := fl.extractLsb' 46 2
  let kill := decide (dcnt ≠ 0) && x.killSaved.any fun e => e.1 = tab && e.2 = d 5
  { x with
    status := fl.extractLsb' 41 5, preds := fl.extractLsb' 34 7 ++ (1 : BitVec 1), genctl := fl.extractLsb' 17 16 &&& 0xFE07
    fpflags := fl.extractLsb' 12 5, land := lands, level := plev, skip := skip, res := none, resHold := false
    killSaved := mapDel tab x.killSaved
    flow := { pc := d 4, dtgt := d 5, dcnt := dcnt, kill := kill, lpStart := d 7, lpEnd := d 8, lpCnt := d 9, slot := b } }

/-- ERET (R341 to R344): the fault number, or the restored state. -/
def eretRun (c : CtxId) (sa : Cell) (s : State) : (Nat ⊕ State) × State :=
  match eretCheck c sa s with
  | (.inl n, s) => (.inl n, s)
  | (.inr (cs, skip), s) =>
    let x := getCtx s c
    let n := x.level.toNat
    let df := decide (n = 3) && activeBit (axGet x 27)
    let k := if df then 27 else svCell n
    let cause := axGet x k
    let plev : BitVec 2 := cause.extractLsb' 44 2
    let s := setAx c k (setBit cause 47 false) s
    (.inr (updCtx c (eretCtx cs skip plev (if df then 4 else n) (x.flow.slot + 1)) s), s)

end Sys2Proof.Machine
end

