-- ==== Sys2Proof/Machine/MemPhase.lean ====
section
/-! DEFINITION. The memory phases of instructions: what is performed at issue when every access is served at once, and otherwise
when the parking result arrives (R101, R180 to R194, R203 to R219, R423 to R428, R444 to R477). -/

namespace Sys2Proof.Machine

/-! ## What follows a slot (R206, R225, R227) -/

/-- Where control goes after an instruction: the next address, a taken branch-class instruction with the loop-ending mark of
R227, an address past a LOOP of count 0, or the flow that ERET has set. -/
inductive Adv where
  | seq
  | branch (t : VAddr) (kill : Bool)
  | jump (d : Nat)
  | stay
deriving DecidableEq, Repr

/-- The flow after a slot. Past offset 2^40 - 1 there is no next address: PC, and with it ADDR and INFO of the limit fault, keep the last
instruction's, which an ERET issues again (DESIGN CHOICE: R121 and R206 state no value). START and END of R227 are read at the last delay slot
(DESIGN CHOICE: the rule does not say when). -/
def advFlow (f : Flow) (a : Adv) : Flow :=
  if a = .stay then f
  else
    let seq := vAdd f.pc (match a with
      | .jump d => d
      | _ => 1)
    let atEnd := decide (f.lpCnt ≠ 0 ∧ f.pc = f.lpEnd)
    let cnt := if atEnd then f.lpCnt - 1 else f.lpCnt
    let nxt := if atEnd ∧ cnt ≠ 0 then some f.lpStart else seq
    let last := decide (f.dcnt = 1)
    let nxt := if last then some f.dtgt else nxt
    let out := decide (f.dtgt.toNat < f.lpStart.toNat ∨ f.lpEnd.toNat < f.dtgt.toNat)
    let cnt := if last ∧ f.kill ∧ out then 0 else cnt
    let f := { f with
      pc := nxt.getD f.pc, past := nxt.isNone, lpCnt := cnt, slot := f.slot + 1
      dcnt := if f.dcnt = 0 then 0 else f.dcnt - 1, dtgt := if last then 0 else f.dtgt, kill := f.kill && !last }
    match a with
    | .branch t k => { f with dtgt := t, dcnt := 2, kill := k }
    | _ => f

/-- Advance a context past its slot. -/
def advance (c : CtxId) (a : Adv) (s : State) : State := updCtx c (fun x => { x with flow := advFlow x.flow a }) s

/-! ## Waiting (R292 to R297) -/

/-- A deadline has passed (R295). -/
def passed (s : State) (d : Datum) : Bool := decide ((s.tb + 2 ^ 48 - d.toNat) % 2 ^ 48 < 2 ^ 47)

/-- The bit a wait of a context is keyed on reads 1; its own buffered store of the cell is what it reads (R294, R454). -/
def keySet (c : CtxId) (s : State) (k : BitKey) : Bool :=
  match k with
  | .t2 sk b => bit2Get s sk b
  | .t3 pa b => (bit3Val ((sbForward (getSp s (spOf s c)) c pa).getD (cellAt s pa)) b).getD false

/-- A registered wait is sampled in the order of R297: a condition that already holds wakes the context, or is recorded for one that is
SUSPENDED (R266, R294). -/
def waitSample (c : CtxId) (s : State) : State :=
  let x := getCtx s c
  match x.wait with
  | none => s
  | some w =>
    let cfg := axGet x 6
    let bitNow := match w.bit with
      | some k => keySet c s k
      | none => false
    let dead := match w.deadline with
      | some d => passed s d
      | none => false
    if (bestSource s x).isSome then wakeCtx c 5 s
    else if bitNow then wakeCtx c 1 s
    else if cfg.getLsbD 0 && decide (x.inbHead ≠ x.inbTail) then wakeCtx c 3 s
    else if cfg.getLsbD 1 && x.db then wakeCtx c 4 s
    else if dead then wakeCtx c 2 s
    else s

/-- A registered wait begins: WAITING, and READY at once when a condition already holds. -/
def beginWait (c : CtxId) (s : State) : State := waitSample c (updCtx c (fun x => { x with st := .waiting }) s)

/-- After a slot: the context parks, waits, or runs on. A context with an FP exception pending does not wait, and keeps its ply when it
parks: the exception is reported at the next boundary (R348). Its tier-2 reads are performed before an access that parks (R459). -/
def settle (c : CtxId) (s : State) : State :=
  let x := getCtx s c
  if x.st ≠ .running then s
  else if x.park.isSome then
    updCtx c (fun x => { x with st := .parked, fpDue := x.fpDue || fpPending x, res := if parksForSc x then x.res else none
                                resHold := parksForSc x && x.resHold }) (bitsRead c (fun _ => true) s)
  else if x.wait.isSome then
    if fpPending x then updCtx c (fun x => { x with wait := none, fpDue := true }) s
    else beginWait c (updCtx c (fun x => { x with res := none, resHold := false }) (bitsRead c (fun _ => true) s))
  else s

/-! ## Handing work to a twist unit (R229, R230, R251) -/

/-- The request of a context at its slot (R230). -/
def twReqOf (x : Ctx) (c : CtxId) (enc : BitVec 48) (kind : TwKind) (sa sb : Cell) (dst : BitVec 5) : TwReq :=
  { ctx := c, gen := x.gen, level := x.level, addr := x.flow.pc, major := BitVec.ofNat 8 (iMajor enc), minor := iMinor enc
    sa := sa, sb := sb, dst := dst, enc := enc, kind := kind }

/-- A record of the context's level that an issue does not match is discarded (R251). -/
def twForget (c : CtxId) (s : State) : State :=
  let x := getCtx s c
  if x.ms.mv ∧ x.ms.kind ≠ 4 ∧ x.ms.level = x.level then updCtx c (fun x => { x with ms := {} }) s else s

/-- Send a request for the instruction at the context's slot; a record it does not match is discarded (R251). -/
def twSend (c : CtxId) (enc : BitVec 48) (kind : TwKind) (sa sb : Cell) (dst : BitVec 5) (s : State) : State :=
  twSubmit (twReqOf (getCtx s c) c enc kind sa sb dst) (twForget c s)

/-- Park on a twist unit (R101). -/
def xTwist (c : CtxId) (enc : BitVec 48) (kind : TwKind) (sa sb : Cell) (dst : BitVec 5) : X Unit := xMod fun s =>
  let back := (getCtx s c).flow
  updCtx c (fun x => { x with park := some (.twist back) }) (twSend c enc kind sa sb dst s)

/-- A landing whose value the parking producer delivers (R276). -/
def landWait (c : CtxId) (d : Nat) (t : Tgt) : X Unit := xMod fun s =>
  if t = .word 0 ∨ t = .pred 0 then s
  else updCtx c (fun x => { x with land := x.land ++ [{ slot := x.flow.slot + d, tgt := t, val := 0, arrived := false }] }) s

/-- Land a loaded cell; a bad pointer takes the slow path first (R493, R494). w0 discards the cell. -/
def xDeliver (c : CtxId) (enc : BitVec 48) (d : Nat) (dst : BitVec 5) (v : Cell) (field : Option VAddr) : X Unit := do
  let s ← get
  if dst ≠ 0 ∧ isBad (blockOf s c) v then
    landWait c d (.word dst)
    xTwist c enc (.slow v field) 0 0 dst
  else landW c d dst v

/-! ## Prefetch streams (R432, R433) -/

/-- The context has a buffered ZLINE of a line of a spindle. -/
def zeroing (c : CtxId) (q : SpId) (ln : Nat) (s : State) : Bool :=
  (getSp s q).sb.any fun e => decide (e.ctx = c) && (match e.kind with
    | .zline l => decide (l = ln)
    | _ => false)

/-- Fill one line of a stream at age 3, and with `l1` into the level-1 cache; dropped where the spindle holds the line, or the context is
zeroing it (R443). -/
def streamFill (c : CtxId) (q : SpId) (ln : Nat) (l1 : Bool) (s : State) : State :=
  if (l1Find (getSp s q) ln).isSome ∨ zeroing c q ln s ∨ regionOf s (paOf (ln * 8)) ≠ .dram then s
  else
    let x := getCtx s c
    let k := getSk s (spSk q)
    let mask := wayMaskFor k (getHank s x.hank).cur.waymask x.hv
    let s := if (skFind k ln).isSome || canInstall k mask ln then (skFill (spSk q) mask ln false 3 (.stream q l1) s).2 else s
    if l1 && (skFind (getSk s (spSk q)) ln).isSome then l1Fill q ln false s else s

/-- The line a stream prefetches at a distance in lines from a miss of a virtual address: the address is translated without a walk or a probe,
and nothing is left of a translation that fails (R403); in a physical segment no page has a DTLB entry, and the stream stays in its page (R433). -/
def streamLine (c : CtxId) (q : SpId) (v : Via) (ln : Nat) (d : Int) (s : State) : Option Nat :=
  match vAdd v.va (8 * d) with
  | none => none
  | some b =>
    let s := updCtx c (fun x => axPut x 28 v.space) s
    match xlate c v.level false b .read s with
    | .ok r _ =>
      let phys := (getSp s q).desc.any fun e => decide (e.tag = spaceTag (getCtx s c)) && decide (e.seg = vSeg b) && e.d1.getLsbD 44
      if r.2 = 0 ∧ (lineOf r.1 / 512 = ln / 512 ∨ phys = false) then some (lineOf r.1) else none
    | .error _ _ => none

/-- The line is on its way to a spindle for a demand access of this context, or has come for it and is tried again: the miss was counted (R432). -/
def missKnown (c : CtxId) (q : SpId) (ln : Nat) (s : State) : Bool :=
  let k := getSk s (spSk q)
  let mine (l : List Asker) : Bool := l.contains (.load c q) || l.contains (.store c q)
  (k.held.any fun h => decide (h.ln = ln) && mine h.asks) || (match skFind k ln with
    | some w => mine (skAt k (skSet ln) w).fresh
    | none => false)

/-- A demand miss trains the trackers of its spindle, once, and may prefetch. The same line again is no later miss at another line. -/
def trainStream (c : CtxId) (q : SpId) (v : Via) (ln : Nat) (s : State) : State :=
  let p := getSp s q
  if !p.pfEn then s
  else
    let page := ln / 512
    let same (t : Tracker) : Bool := decide (t.ctx = c) && decide (t.page = page)
    let rest := p.trackers.filter fun t => !same t
    match p.trackers.find? same with
    | none => updSp q (fun p => { p with trackers := ({ ctx := c, page := page, last := ln, stride := 0, conf := 0 } :: rest).take 8 }) s
    | some t =>
      let d : Int := (ln : Int) - (t.last : Int)
      if d = 0 then s else
      let hit := decide (t.conf ≥ 1) && decide (d = t.stride)
      let near := decide (-16 ≤ d ∧ d ≤ 16)
      let conf := if hit then 2 else if near then 1 else 0
      let stride := if hit then t.stride else if near then d else 0
      let s := updSp q (fun p => { p with trackers := { t with last := ln, stride := stride, conf := conf } :: rest }) s
      if conf < 2 then s
      else
        (upto (max 1 p.pfDepth.toNat)).foldl (fun (s : State) (i : Nat) =>
          match streamLine c q v ln (stride * (Int.ofNat i + 1)) s with
          | some l => streamFill c q l (p.pfL1f && decide (i = 0)) s
          | none => s) s

/-- A demand access of a context that misses the level-1 cache of its spindle: what it does, then the training (R432, R433). An access that waits for
no fill of its own has not missed yet. -/
def demandMiss (c : CtxId) (q : SpId) (v : Option Via) (ln : Nat) (act : State → Bool × State) (s : State) : Bool × State :=
  let known := missKnown c q ln s
  let r := act s
  (r.1, match v with
    | some v => if known || !(r.1 || missKnown c q ln r.2) then r.2 else trainStream c q v ln r.2
    | none => r.2)

/-! ## Loads (R444, R454, R455, R462, R464, R477) -/

/-- The value that an earlier performance of the phase has obtained at an address of type DEVICE or HOST: the access is not translated again
(R400). -/
def xKept (c : CtxId) (va : VAddr) : X (Option IoVal) := fun s =>
  let x := getCtx s c
  match x.ioVals[x.ioIdx]? with
  | some v => if v.va = va ∧ v.mt ≠ 3 then .ok (some v) (updCtx c (fun x => { x with ioIdx := x.ioIdx + 1 }) s) else .ok none s
  | none => .ok none s

/-- A DEVICE or HOST load: each value is obtained once; a HOST value comes with its completion. -/
def xIo (c : CtxId) (arr : Bool) (va : VAddr) (pa : PAddr) (mt : Nat) : X Cell := fun s =>
  let x := getCtx s c
  if !arr then .error .wait s
    else if mt = 1 then
      if !sbEmpty s c then .error .wait s
      else
        let r := deviceLoad c pa s
        .ok r.1 (updCtx c (fun x => { x with ioVals := x.ioVals ++ [{ va := va, pa := pa, mt := 1, v := r.1 }], ioIdx := x.ioIdx + 1 }) r.2)
    else if (getSp s (ctxSp x)).sb.any (fun e => decide (e.ctx = c) && (match e.kind with
        | .host _ _ _ => true
        | .device _ _ => true
        | _ => false)) then .error .wait s
    else .error .wait (updCtx c (fun x => { x with hostReq := some (va, pa) }) s)

/-- Bring the line of a NORMAL access to the context's spindle: a level-1 hit, or a fill once the result may arrive. With `own`,
for a write. Answers false when the access must wait. -/
def bringLine (c : CtxId) (arr own : Bool) (va : VAddr) (pa : PAddr) (s : State) : Bool × State :=
  let x := getCtx s c
  let via : Via := { va := va, level := x.level, space := axGet x 28 }
  let q := ctxSp x
  let ln := lineOf pa
  let k := getSk s x.skein
  let mask := wayMaskFor k (getHank s x.hank).cur.waymask x.hv
  let s := l1Tags q s
  match l1Find (getSp s q) ln with
  | some i =>
    if own ∧ !(l1At (getSp s q) i).dirty then (if arr then ownLine c q mask ln s else (false, s))
    else (true, updSp q (l1Touch i) s)
  | none =>
    if !arr then (false, s)
    else demandMiss c q (some via) ln (fun s =>
      if own then ownLine c q mask ln s
      else match skFill x.skein mask ln false 1 (.load c q) s with
        | (false, s) => (false, s)
        | (true, s) => (true, if (skFind (getSk s x.skein) ln).isSome then l1Fill q ln false s else s)) s

/-- The cell of a NORMAL access, the context's own buffered bit writes apart: forwarded, or read from the level-1 cache or the line that arrives. A
miss waits for the context's DEVICE stores (R462). -/
def xCell (c : CtxId) (arr own : Bool) (va : VAddr) (pa : PAddr) : X Cell := fun s =>
  let p := getSp s (spOf s c)
  match sbForward p c pa with
  | some v => .ok v s
  | none =>
    if sbHasDev p c && (l1Find p (lineOf pa)).isNone then .error .wait s
    else match bringLine c arr own va pa s with
      | (false, s) => .error .wait s
      | (true, s) => xRead c va pa s

/-- A NORMAL load of a cell: a buffered bit write of the context to it drains first (R455). -/
def xNormal (c : CtxId) (arr own : Bool) (va : VAddr) (pa : PAddr) : X Cell := fun s =>
  if sbHasBit3 (getSp s (spOf s c)) c pa then .error .wait s else xCell c arr own va pa s

/-- A load at a virtual address: its cell, physical address and memory type. -/
def xLoad (c : CtxId) (arr : Bool) (va : VAddr) : X (Cell × PAddr × Nat) := do
  let x ← xCtx c
  match (← xKept c va) with
  | some k => pure (k.v, k.pa, k.mt)
  | none => do
    let r ← xlate c x.level arr va .read
    let v ← (if r.2 = 0 then xNormal c arr false va r.1 else xIo c arr va r.1 r.2)
    pure (v, r.1, r.2)

/-- Between two states a corrected cell was written back, which ends every reservation on its line (R43). -/
def wroteBack (s0 s1 : State) (pa : PAddr) : Bool :=
  decide (cellAt s0 pa ≠ cellAt s1 pa) || (decide (weight (arrBits s0 pa) = 1) && decide (mapGet 0 s1.arrErr pa.toNat = 0))

/-- The field a slow path may heal: an address in NORMAL memory (R494). -/
def fieldOf (va : VAddr) (mt : Nat) : Option VAddr := if mt = 0 then some va else none

/-- A load inside an instruction that uses the cell itself: a bad pointer is healed by the slow path before it is used (R205). -/
def xLoadHealed (c : CtxId) (arr : Bool) (enc : BitVec 48) (va : VAddr) : X Cell := do
  let r ← xLoad c arr va
  let s ← get
  if isBad (blockOf s c) r.1 then
    let x ← xCtx c
    match (x.ioVals[x.ioIdx]?).filter fun v => v.mt = 3 with
    | some v => do
      xMod (updCtx c fun x => { x with ioIdx := x.ioIdx + 1 })
      pure v.v
    | none => do
      if arr && !twBusy s c then xMod (twSend c enc (.slow r.1 (fieldOf va r.2.2)) 0 0 0)
      xWait
  else pure r.1

/-! ## Stores -/

/-- The entries of a store at a translated address, by memory type (R451, R465), and its card entry where the store passes the barrier. -/
def xStoreB (bar : Bool) (c : CtxId) (va : VAddr) (pa : PAddr) (mt : Nat) (v : Cell) : X Unit := fun s =>
  let cards := if bar then cardKinds s c va pa v else []
  if mt = 0 then xStores c (viaOf (getCtx s c) va) (.line (lineOf pa) [(pa.toNat, sealCell v)] :: cards) s
  else if mt = 1 then xStores c none (.device pa (sealCell v) :: cards) s
  else
    let f := (getCtx s c).hostFirst
    xStores c none (.host pa (sealCell v) f :: cards) (updCtx c (fun x => { x with hostFirst := false }) s)

/-- The entries of a store, which passes the barrier (R504). -/
def xStoreP (c : CtxId) (va : VAddr) (pa : PAddr) (mt : Nat) (v : Cell) : X Unit := xStoreB true c va pa mt v

/-- A store at a virtual address. -/
def xStore (c : CtxId) (arr : Bool) (va : VAddr) (v : Cell) : X Unit := do
  let x ← xCtx c
  let r ← xlate c x.level arr va .write
  xStoreP c va r.1 r.2 v

/-! ## Headers (R61 to R64) -/

/-- Length and subtype of a HDR cell. -/
def hdrLen (h : Cell) : Nat := bits h.toNat 0 40
def hdrSub (h : Cell) : Nat := bits h.toNat 40 8

/-- The header suits the pointer class (R62, R64). -/
def hdrOk (ty : BitVec 6) (h : Cell) : Bool :=
  let n := hdrLen h
  let b := hdrSub h
  decide (cTyp h = tHDR) &&
    (if ty = tSYM then decide (n = 6) && decide (b ≤ 1)
     else if ty = tVEC then decide (b = 0)
     else if ty = tSTR then decide (b ≤ 5) && (decide (n ≠ 0) || decide (b = 0))
     else if ty = tBVEC then decide (b ≤ 47) && (decide (n ≠ 0) || decide (b = 0))
     else if ty = tBIG then decide (n ≥ 2) && decide (b = 0)
     else if ty = tF64 then decide (n = 2) && decide (b = 0)
     else if ty = tFUNC then decide (n ≥ 2) && decide (b = 0)
     else if ty = tCODE then decide (n ≥ 1) && decide (b = 0)
     else if ty = tINST then decide (n ≥ 1) && decide (b = 0)
     else if ty = tFACT then decide (n ≥ 2) && decide (b ≤ 1)
     else true)

/-- Read and check the header of an object (R62). -/
def xHeader (c : CtxId) (arr : Bool) (o : Cell) : X Cell := do
  let r ← xLoad c arr (cDat o)
  if !hdrOk (cTyp o) r.1 then xFault 0x14 (cDat o)
  pure r.1

/-! ## Allocation (R189 to R194) -/

/-- The new ALLOC_PTR of an allocation of `size` cells, or the allocation-limit trap (R193). -/
def xAllocRoom (c : CtxId) (size : Nat) : X VAddr := do
  let x ← xCtx c
  let p := axGet x 7
  let l := axGet x 0
  if vSeg p ≠ vSeg l ∨ vOff p + size > vOff l then xFault 0x24 (dat size)
  pure p

/-- Translate the start of every line that an allocation zeroes, for writing (R192). -/
def xAllocLines (c : CtxId) (lvl : BitVec 2) (arr : Bool) (p : VAddr) (size : Nat) : X (List Nat) := do
  let lo := (vOff p + 7) / 8
  let hi := (vOff p + size + 7) / 8
  (upto (hi - lo)).foldlM (fun acc i => do
    let pa ← xlateNormal c lvl arr (vMk (vSeg p) ((lo + i) * 8)) .write
    pure (acc ++ [lineOf pa])) []

/-- Allocate: zero the lines, store the given cells from the start of the object, advance ALLOC_PTR (R190 to R194). The pages of the given cells
are translated before those of the zeroed lines, and so is the fault reported that comes first (DESIGN CHOICE: R192 gives no order). -/
def xAlloc (c : CtxId) (arr : Bool) (size : Nat) (cells : List Cell) : X VAddr := do
  let p ← xAllocRoom c size
  let x ← xCtx c
  let pas ← cells.zipIdx.foldlM (fun acc e => do
    let va := vAddW p e.2
    let pa ← xlateNormal c x.level arr va .write
    pure (acc ++ [(va, pa, e.1)])) []
  let lns ← xAllocLines c x.level arr p size
  let s ← get
  let n := (getCtx s c).sbars
  xEntries c (lns.map (fun l => sbEnt c n none (.zline l)) ++
    (pas.map fun e => (storeKinds s c e.1 e.2.1 e.2.2).map (sbEnt c n (viaOf x e.1))).flatten)
  xMod (setAx c 7 (vAddW p size))
  pure p

/-- The colour of a new pointer (R56, R176). -/
def newCol (s : State) (c : CtxId) (imm : Bool) : BitVec 2 := if imm then 3 else goodOf s c

/-! ## The stack (R211 to R219) -/

/-- w31 as a stack pointer: LOC or RAW, else the type fault with its type in TYPEA (R154, R211). -/
def xSp {α : Type} (v : Cell) (k : X α) : X α := if cTyp v = tLOC ∨ cTyp v = tRAW then k else typeFault (cTyp v) 0

/-- The stack range check (R212). -/
def xStackRange (c : CtxId) (a : VAddr) : X Unit := do
  let x ← xCtx c
  let lo := axGet x 1
  let hi := axGet x 2
  if vSeg a ≠ vSeg lo ∨ vSeg a ≠ vSeg hi ∨ vOff a < vOff lo ∨ vOff hi ≤ vOff a then xFault 0x33 a

/-- A cell with its offset replaced by an address of the same segment, keeping type and colour (R211). -/
def withAddr (v : Cell) (a : VAddr) : Cell := mkCell (cCol v) (cTyp v) a

/-- The push of a call (R213): the RETA store, w31, and the transfer. -/
def xPush (c : CtxId) (arr : Bool) (t : VAddr) (sp : Cell) : X Adv := do
  let x ← xCtx c
  xSp sp do
    let a := vAddW (cDat sp) (-1)
    xStackRange c a
    let pa ← xlateNormal c x.level arr a .write
    xStoreP c a pa 0 (mkCell 0 tRETA (vAddW x.flow.pc 3))
    landW c 3 31 (withAddr sp a)
    pure (.branch t false)

/-- The instruction address of a FUNC (R205). -/
def xFuncEntry (c : CtxId) (arr : Bool) (enc : BitVec 48) (f : Cell) : X VAddr := do
  let _ ← xHeader c arr f
  let va ← xEa c (cDat f) 1 .read
  let k ← xLoadHealed c arr enc va
  if cTyp k ≠ tCODE then typeFault (cTyp k) 0
  let _ ← xHeader c arr k
  match vAdd (cDat k) 1 with
  | some t => pure t
  | none => xFault 0x50 (vAddW (cDat k) 1)

/-! ## Bits (R109 to R120) -/

/-- The tier-3 checks of R118 and the cell address of R112. -/
def xBseg (c : CtxId) (d : Datum) (wr : Bool) (k : Acc) : X (VAddr × Nat) := do
  let x ← xCtx c
  let s ← get
  let p := getSp s (ctxSp x)
  let n := bits d.toNat 41 4
  let idx := bits d.toNat 0 41
  let lim : Datum := mapGet 0 p.bsegLim n
  if x.level = 0 ∧ !lim.getLsbD 46 then xFault 0x05 d
  if wr ∧ !lim.getLsbD 47 then xFault 0x17 d
  if idx ≥ bits lim.toNat 0 41 then xFault 0x15 (dat idx)
  let va ← xEa c (mapGet 0 p.bsegBase n) (idx / 48) k
  pure (va, idx % 48)

/-- The type fault of a tier-3 cell that is neither RAW nor UNSET (R113, R154). -/
def xBitCell (v : Cell) (b : Nat) : X Bool :=
  match bit3Val v b with
  | some r => pure r
  | none => typeFault (cTyp v) 0

/-- The value a context's own buffered writes give a tier-2 bit (R114). -/
def bit2Forward (p : Spindle) (c : CtxId) (k : SkId) (b : BitVec 16) : Option Bool :=
  p.sb.foldl (fun r e => match e.kind with
    | .bit2 k' b' v => if e.ctx = c ∧ k' = k ∧ b' = b then some v else r
    | _ => r) none

/-- A request of a skein for a bit of a skein's bit store: another skein's is reached over the fabric (R27, R110). -/
def bit2Reach (src k : SkId) (s : State) : State := if src = k then s else reach (skSector src) k s

/-- Land a read of a bit of the own skein's store. It is performed within 4 handshakes of its issue and is not ordered against later loads (R459):
now, or at its landing; which of the two is a free value. A read that parked its context is performed with its result. -/
def xBitRead (c : CtxId) (arr : Bool) (k : SkId) (b : BitVec 16) (pd : BitVec 3) : X Unit := do
  let s ← get
  if arr then landP c 4 pd (bit2Get s k b)
  else do
    let fr := freshNat s
    set fr.2
    if fr.1 % 2 = 0 then landP c 4 pd (bit2Get s k b)
    else xMod fun s =>
      if pd = 0 then s
      else updCtx c (fun x => { x with land := x.land ++ [{ slot := x.flow.slot + 4, tgt := .pred pd, val := 0, bit := some (k, b) }] }) s

/-- A tier-2 bit operation (R110, R111, R472). A write is a store, whatever skein it names (R459); a read of another skein's store crosses the
fabric. The accesses of one context to one bit take effect in program order. -/
def xBit2 (c : CtxId) (arr : Bool) (d : Datum) (op : BitOp) (pd : BitVec 3) : X Unit := do
  let x ← xCtx c
  let s ← get
  let k := brSkein d (ctxSp x)
  let b : BitVec 16 := d.extractLsb' 0 16
  if !bitGrant s x b.toNat then xFault 0x15 (b.setWidth 48)
  let away := decide (k ≠ x.skein) && !arr
  xMod (bitsRead c fun l => l.bit = some (k, b))
  match op with
  | .get =>
    if sbHasDev (getSp s (ctxSp x)) c then xWait
    match bit2Forward (getSp s (ctxSp x)) c k b with
    | some v => landP c 4 pd v
    | none => do
      if away then xWait
      xMod (bit2Reach x.skein k)
      if k = x.skein then xBitRead c arr k b pd else landP c 4 pd (bit2Get s k b)
  | .put v => xStores c none [.bit2 k b v]
  | .tas => do
    if !sbEmpty s c || away then xWait
    landP c 4 pd (bit2Get s k b)
    xMod fun s => bit2Put k b true (bit2Reach x.skein k (updCtx c (fun x => { x with hostFirst := true }) s))

/-- A cell with the context's own buffered stores and bit writes made, in order (R113, R454, R455). -/
def sbSeen (p : Spindle) (c : CtxId) (pa : PAddr) (v : Cell) : Cell :=
  (p.sb.filter fun e => e.ctx = c).foldl (fun v e => sbOver pa v e.kind) v

/-- A tier-3 bit operation (R112, R113, R455, R472). -/
def xBit3 (c : CtxId) (arr : Bool) (d : Datum) (op : BitOp) (pd : BitVec 3) : X Unit := do
  let x ← xCtx c
  let k : Acc := match op with
    | .get => .read
    | .put _ => .write
    | .tas => .rw
  let r ← xBseg c d (decide (op ≠ .get)) k
  let pa ← xlateNormal c x.level arr r.1 k
  match op with
  | .get => do
    let v ← xNormal c arr false r.1 pa
    let b ← xBitCell v r.2
    landP c 4 pd b
  | .put v => do
    let w ← xCell c arr false r.1 pa
    let s ← get
    let _ ← xBitCell (sbSeen (getSp s (ctxSp x)) c pa w) r.2
    xStores c (viaOf x r.1) [.bit3 pa r.2 v]
  | .tas => do
    let s ← get
    if !sbEmpty s c then xWait
    let w ← xNormal c arr true r.1 pa
    let b ← xBitCell w r.2
    landP c 4 pd b
    xMod fun s =>
      let d := if cTyp w = tRAW then cDat w else 0
      let s := putCell (some c) pa (rawCell (setBit d r.2 true)) (updCtx c (fun x => { x with hostFirst := true }) s)
      if b then s else wakeBit (chanSector (chanOf (lineOf pa))) (.t3 pa r.2) s

/-- WAITB (R292): the wait is registered once its bit is resolved. -/
def xWaitb (c : CtxId) (arr : Bool) (r : Cell) (deadline : Option Datum) : X Unit := do
  let x ← xCtx c
  let s ← get
  let d := cDat r
  let key : BitKey ← (if brTier d = 1 then do
      let b : BitVec 16 := d.extractLsb' 0 16
      if !bitGrant s x b.toNat then xFault 0x15 (b.setWidth 48)
      xMod (bitsRead c fun l => l.bit = some (brSkein d (ctxSp x), b))
      if sbHasDev (getSp s (ctxSp x)) c then xWait
      match bit2Forward (getSp s (ctxSp x)) c (brSkein d (ctxSp x)) b with
      | some _ => xWait
      | none => pure (BitKey.t2 (brSkein d (ctxSp x)) b)
    else do
      let r ← xBseg c d false .read
      let pa ← xlateNormal c x.level arr r.1 .read
      let v ← xNormal c arr false r.1 pa
      let _ ← xBitCell v r.2
      pure (BitKey.t3 pa r.2))
  xMod (updCtx c fun x => { x with wait := some { bit := some key, deadline := deadline }, wake := 0 })

/-! ## Maintenance (R423 to R428) -/

/-- The controllers take what CLEANs and FLUSHes of a context write back, as far as their queues have room (R413, R425). -/
def cleanAccept (c : CtxId) (s : State) : State :=
  (getCtx s c).cleans.foldl (fun s ln =>
    if wqFull ln s then s else updCtx c (fun x => { x with cleans := x.cleans.erase ln }) (wqPush ln s)) s

/-- CLEAN or FLUSH of a line: every modified copy written back, and for FLUSH every copy removed. Modified cells are in `mem`. The request waits
for a fill in flight before it comes here (R443). -/
def cleanLine (ln : Nat) (flush : Bool) (s : State) : State :=
  (upto 32).foldl (fun s j =>
    let k : SkId := BitVec.ofNat 5 j
    if flush then skDrop k ln s
    else if (skFind (getSk s k) ln).isNone then s
    else
      dirClean ln (l1Clean k ln (updSk k (fun x => skUpd x ln fun l => { l with st := if l.st = .modified then .excl else l.st }) s))) s

/-- Every other spindle that is in service and whose skein is not parked. -/
def otherSpindles (s : State) (q : SpId) : List SpId :=
  ((upto 512).map fun i => BitVec.ofNat 9 i).filter fun p => decide (p ≠ q) && !outOfService s p && !(getSk s (spSk p)).parked

/-- INVAL on the issuing spindle, and its broadcast (R427, R428). In a skein whose data caches are disabled it has no cache action
(R443). -/
def doInval (c : CtxId) (ln : Option Nat) (bcast : Bool) (s : State) : State :=
  let q := spOf s c
  if (getSk s (spSk q)).dstate = 2 then s
  else
  let s := icApply q ln s
  if !bcast then s
  else
    let s := (upto 512).foldl (fun s (i : Nat) =>
      let p : SpId := BitVec.ofNat 9 i
      if (getSk s (spSk p)).parked then icApply p ln s else s) s
    let t := otherSpindles s q
    updSp q (fun p => { p with ibusy := t, ibCtx := some c, ibLine := ln }) (fabricTo (spSk q) t s)

/-! ## Messages -/

/-- SEND once the context's stores are visible (R300, R456). -/
def xSend (c dst : CtxId) (v : Cell) : X Unit := do
  let s ← get
  if !sbEmpty s c then xWait
  xMod fun s => sendPost c dst v (updCtx c (fun x => { x with sendst := 7 }) s)

/-! ## The memory phases -/

/-- The landings a memory phase makes, for the record of the parked context (R276). -/
def opLands (op : MemOp) : List (Nat × Tgt) :=
  match op with
  | .ldRaw _ d | .load _ d _ | .vref _ _ d | .hlen _ d | .sym _ _ d | .cons _ _ _ d | .alloc _ _ _ d | .tas _ d => [(4, .word d)]
  | .call _ _ | .ret _ | .fcall _ _ => [(3, .word 31)]
  | .tcall _ _ set => if set then [(3, .word 31)] else []
  | .sc _ _ pd => [(4, .pred pd)]
  | .bit _ op pd => match op with
    | .put _ => []
    | _ => [(4, .pred pd)]
  | .rsub _ pd d | .rstat _ pd d | .cscan _ _ _ pd d => [(6, .word d), (6, .pred pd)]
  | .extn _ _ _ _ d => [(6, .word d)]
  | _ => []

/-- Store-conditional (R469). -/
def xSc (c : CtxId) (arr : Bool) (va : VAddr) (v : Cell) (pd : BitVec 3) : X Unit := do
  let x ← xCtx c
  let pa ← xlateNormal c x.level arr va .rw
  let fin (ok : Bool) : X Unit := do
    xMod (updCtx c fun x => { x with res := none, resHold := false })
    landP c 4 pd ok
  if x.res ≠ some (lineOf pa) then fin false
  else do
    let s ← get
    if !sbEmpty s c then xWait
    let b ← (fun s => let r := bringLine c arr true va pa s; .ok r.1 r.2)
    if !b then xWait
    let x ← xCtx c
    if x.res ≠ some (lineOf pa) then fin false
    else do
      xMod fun s => putCell (some c) pa v (updCtx c (fun x => { x with hostFirst := true }) s)
      fin true
      let s ← get
      if cardWanted (blockOf s c) va v then xStores c none (cardKinds s c va pa v)

/-- The memory phase of an instruction that carries its own operands; the others are in `memPhase`. -/
def memBasic (c : CtxId) (arr : Bool) (enc : BitVec 48) (op : MemOp) : X Adv := do
  let x ← xCtx c
  match op with
  | .ldRaw va d => do
    let r ← xLoad c arr va
    landW c 4 d r.1
    pure .seq
  | .stRaw va v => do
    let r ← xlate c x.level arr va .write
    xStoreB false c va r.1 r.2 v
    pure .seq
  | .load va d res => do
    if res then
      let pa ← xlateNormal c x.level arr va .read
      let s0 ← get
      let v ← xNormal c arr false va pa
      let s1 ← get
      xDeliver c enc 4 d v (some va)
      xMod (updCtx c fun x =>
        if x.park.isSome ∨ wroteBack s0 s1 pa then { x with res := none, resHold := false } else { x with res := some (lineOf pa), resHold := true })
    else
      let r ← xLoad c arr va
      xDeliver c enc 4 d r.1 (fieldOf va r.2.2)
    pure .seq
  | .store va v => do
    xStore c arr va v
    pure .seq
  | .vref o k d => do
    let h ← xHeader c arr o
    if (cDat k).toInt < 0 ∨ (cDat k).toNat ≥ hdrLen h then xFault 0x15 (cDat k)
    let va ← xEa c (cDat o) ((cDat k).toNat + 1) .read
    let r ← xLoad c arr va
    xDeliver c enc 4 d r.1 (fieldOf va r.2.2)
    pure .seq
  | .vset o k v => do
    let h ← xHeader c arr o
    if (cDat k).toInt < 0 ∨ (cDat k).toNat ≥ hdrLen h then xFault 0x15 (cDat k)
    let va ← xEa c (cDat o) ((cDat k).toNat + 1) .write
    xStore c arr va v
    pure .seq
  | .hlen o d => do
    let h ← xHeader c arr o
    landW c 4 d (fixCell (dat (hdrLen h)))
    pure .seq
  | .sym o off d => do
    let _ ← xHeader c arr o
    let va ← xEa c (cDat o) off .read
    let r ← xLoad c arr va
    xDeliver c enc 4 d r.1 (fieldOf va r.2.2)
    pure .seq
  | .setsym o v => do
    let _ ← xHeader c arr o
    let va ← xEa c (cDat o) 2 .write
    xStore c arr va v
    pure .seq
  | .cons a b imm d => do
    let p ← xAlloc c arr 2 [a, b]
    let s ← get
    landW c 4 d (mkCell (newCol s c imm) tCONS p)
    pure .seq
  | .alloc h t imm d => do
    let size := (hdrLen h + 2) / 2 * 2
    let p ← xAlloc c arr size [h]
    let s ← get
    landW c 4 d (mkCell (newCol s c imm) ((cDat t).extractLsb' 0 6) p)
    pure .seq
  | .call t sp => xPush c arr t sp
  | .ret sp => xSp sp do
    let a := cDat sp
    xStackRange c a
    let pa ← xlateNormal c x.level arr a .read
    let r ← xNormal c arr false a pa
    if cTyp r ≠ tRETA then xFault 0x34 a
    let pw ← xlateNormal c x.level arr a .write
    xStoreP c a pw 0 unsetCell
    landW c 3 31 (withAddr sp (vAddW a 1))
    pure (.branch (cDat r) true)
  | .tcall f sp set => do
    let t ← (if cTyp f = tFUNC then xFuncEntry c arr enc f
      else if cTyp f = tCODE then (match vAdd (cDat f) 1 with
        | some t => pure t
        | none => xFault 0x50 (vAddW (cDat f) 1))
      else pure (cDat f))
    xSp sp do
      xStackRange c (cDat sp)
      let pa ← xlateNormal c x.level arr (cDat sp) .read
      let r ← xNormal c arr false (cDat sp) pa
      if cTyp r ≠ tRETA then xFault 0x34 (cDat sp)
      if set then landW c 3 31 sp
      pure (.branch t true)
  | .fcall f w => do
    let t ← xFuncEntry c arr enc f
    let sp ← wCheck c 31 w
    xPush c arr t sp
  | .tas va d => do
    let s ← get
    let pa ← xlateNormal c x.level arr va .rw
    if !sbEmpty s c then xWait
    let v ← xNormal c arr true va pa
    xMod fun s => updCtx c (fun x => { x with res := none, resHold := false, hostFirst := true }) (putCell (some c) pa tCell s)
    xDeliver c enc 4 d v none
    pure .seq
  | .sc va v pd => do
    xSc c arr va v pd
    pure .seq
  | .bit r op pd => do
    if brTier (cDat r) = 1 then xBit2 c arr (cDat r) op pd else xBit3 c arr (cDat r) op pd
    pure .seq
  | .zline va => do
    let a := vMk (vSeg va) (vOff va / 8 * 8)
    let pa ← xlateNormal c x.level arr a .write
    xStores c none [.zline (lineOf pa)]
    pure .seq
  | .clean va flush => do
    let r ← xlate c x.level arr va .read
    let s ← get
    let ln := lineOf r.1
    if r.2 = 0 ∧ (getSk s x.skein).dstate ≠ 2 then
      if heldAny s ln || (flush && lineHeld (some (ctxSp x)) ln s) then xWait
      xMod fun s => cleanLine ln flush
        (if (upto 32).any fun k => skModified (BitVec.ofNat 5 k) ln s then updCtx c (fun x => { x with cleans := x.cleans ++ [ln] }) s else s)
    pure .seq
  | .inval va bcast => do
    let s ← get
    let busy := bcast && !(getSp s (ctxSp x)).ibusy.isEmpty
    if !arr && busy then fun s => .error .hold s
    let r ← xlate c x.level arr va .read
    if busy then xWait
    if r.2 = 0 then xMod (doInval c (some (lineOf r.1)) bcast)
    pure .seq
  | .fbar => do
    xMod (bitsRead c fun _ => true)
    if arr then xMod (cleanAccept c)
    let s ← get
    if !sbEmpty s c || !(getCtx s c).cleans.isEmpty then xWait
    match x.hostLast with
    | none => pure .seq
    | some pa => do
      match (← xKept c 0) with
      | some _ => pure ()
      | none => do
        let _ ← xIo c arr 0 pa 2
      xMod (updCtx c fun x => { x with hostLast := none })
      pure .seq
  | .waitb r dl => do
    xWaitb c arr r dl
    pure .seq
  | .send dst v => do
    xSend c dst v
    pure .seq
  | .rsub _ _ _ | .rstat _ _ _ | .cscan _ _ _ _ _ | .extn _ _ _ _ _ => xWait

end Sys2Proof.Machine
end

