-- ==== Sys2Proof/Machine/Issue.lean ====
section
/-! DEFINITION. How an instruction command takes its context's next slot: landings that fall due, the boundary of R336, the order
of conditions of R148, the body, and what follows the slot. -/

namespace Sys2Proof.Machine

/-- The answer of every meaning. -/
abbrev Out := Host.Outcome State Fault Refusal

/-! ## Exceptions of an instruction -/

/-- Write DISPINFO (R154). A branch, call or loop has neither a DST nor a PD field, and R154 gives its DREG no value: a free value. -/
def setDisp (c : CtxId) (enc : BitVec 48) (d : BitVec 2 × BitVec 6 × BitVec 6) (s : State) : State :=
  let w := dispInfo enc d.1 d.2.1 d.2.2
  match fmtOf (iMajor enc) with
  | some .l | some .b =>
    let r := freshNat s
    setAx c 4 (w ||| ((BitVec.ofNat 5 r.1).setWidth 48 <<< 26)) r.2
  | _ => setAx c 4 w s

/-- Deliver the exception of the instruction at the context's slot. `s0` is the state as the slot began: a pending FP exception is
reported there in its place, with MULTI (R336, R346, R348, R349). DISPINFO is written for dispatch traps and type faults (R154). -/
def raiseAt (c : CtxId) (enc : BitVec 48) (e : Exc) (s0 s : State) : State :=
  match firstFp (getCtx s0 c) with
  | some f => reportFp c f true s0
  | none =>
    let pc := (getCtx s0 c).flow.pc
    let s := match e.disp with
      | some d => setDisp c enc d s
      | none => s
    let s := if e.next then advance c .seq s else s
    deliver c { code := e.code, info := e.info, addr := pc } s

/-- What takes effect at the boundary before the context's slot (R336): an entry that has waited for the stores of a SPILL (R201), the fault of a
parked producer, an FP exception that is due (R348), a stop, an interrupt. None when the instruction issues, and before a slot that ERET skips
(R341). -/
def boundary (c : CtxId) (s : State) : Option State :=
  let x := getCtx s c
  match x.entry with
  | some (r, irq) => some (deliverAt c r irq (updCtx c (fun x => { x with entry := none }) s))
  | none =>
  if x.skip then none
  else match x.pendExc with
  | some e => some (takeExc c { code := e.code, info := e.info, addr := x.flow.pc } (if e.next then advance c .seq s else s))
  | none =>
    let due := x.fpDue || x.land.any fun l => l.fpx.isSome && decide (l.slot ≤ x.flow.slot)
    let leave := x.stopReq || (bestSource s x).isSome
    match firstFp x with
    | some f => if due || leave then some (reportFp c f false s) else none
    | none =>
      if x.stopReq then some (suspendCtx c s)
      else match bestSource s x with
        | some i => some (deliverIrq c i s)
        | none => none

/-! ## Pending f landings of a context that does not own the file (R200) -/

/-- The context has a pending f landing that a test names, and does not own its spindle's file. -/
def fileWant (s : State) (c : CtxId) (f : Landing → Bool) : Bool :=
  let x := getCtx s c
  decide ((getSp s (ctxSp x)).fpOwner ≠ some c) && x.land.any fun l => l.arrived && f l && (match l.tgt with
    | .fp _ => true
    | _ => false)

/-- The context has a pending f landing and does not own its spindle's file. -/
def needsFile (s : State) (c : CtxId) : Bool := fileWant s c fun _ => true

/-- Such a landing is due: it takes effect before anything else at the boundary, unless the exchange for it has failed. -/
def fileDue (s : State) (c : CtxId) : Bool :=
  let x := getCtx s c
  x.pendExc.isNone && fileWant s c fun l => decide (l.slot ≤ x.flow.slot)

/-- The exchange before the slot: the context parks; an interrupted exchange continues from its record. -/
def fileLandPark (c : CtxId) (s : State) : State :=
  let x := getCtx s c
  let old := match x.ms.req with
    | some r => if x.ms.mv ∧ x.ms.kind ≠ 4 ∧ x.ms.level = x.level ∧ r.kind = .fpland then some r else none
    | none => none
  let s := match old with
    | some r => twSubmit r s
    | none => twSubmit (twReqOf x c 0 .fpland 0 0 0) s
  updCtx c (fun x => { x with st := .parked, park := some (.twist x.flow) }) s

/-! ## The slot -/

/-- The instruction is of the branch class (R133). -/
def isBranch (enc : BitVec 48) : Bool := decide (0x20 ≤ iMajor enc ∧ iMajor enc ≤ 0x22)

/-- The faults of a branch-class instruction or a LOOP in a delay slot, and of a branch-class instruction near a loop's end (R207,
R226). Where both apply the first is raised, and both come before the instruction's operand checks (DESIGN CHOICE: no rule orders them). -/
def flowFault (x : Ctx) (enc : BitVec 48) : Option Exc :=
  let near := (upto 3).any fun j => vAdd x.flow.pc j = some x.flow.lpEnd
  if (isBranch enc || decide (iMajor enc = 0x23)) && decide (x.flow.dcnt ≠ 0) then some { code := 0x30 }
  else if isBranch enc && decide (x.flow.lpCnt ≠ 0) && near then some { code := 0x31, info := x.flow.lpEnd }
  else none

/-- The record that this issue continues (R251). An FP-class instruction without a save area faults (R199). -/
def resumes (x : Ctx) (enc : BitVec 48) : Option TwReq :=
  if x.ms.mv ∧ x.ms.kind ≠ 4 ∧ x.ms.level = x.level ∧ x.ms.addr = x.flow.pc ∧ x.ms.major.toNat = iMajor enc ∧ x.ms.minor = iMinor enc ∧
      !(decide (iMajor enc = 0x30) && fpsaZero x) then x.ms.req
  else none

/-- The landings of an issue that continues a record, by opcode (R95, R251). -/
def resumeLands (enc : BitVec 48) : List (Nat × Tgt) :=
  let n := enc.toNat
  let maj := iMajor enc
  let m := bits n 0 8
  let d := bits n 31 5
  let w : Tgt := .word (BitVec.ofNat 5 d)
  let st (b : Bool) : List (Nat × Tgt) := if b then [(3, .status)] else []
  match fmtOf maj with
  | some .a =>
    if maj = 0x30 then
      (if m = 0x10 then [(3, .status)]
       else if m = 0x21 ∨ m = 0x22 then [(4, w)]
       else [(4, .fp (BitVec.ofNat 4 d))])
    else if maj = 0x38 then [(6, w)]
    else if maj = 0x08 then (2, w) :: st (bitN n 8)
    else (4, w) :: st (bitN n 8)
  | some .i => (2, w) :: st (bitN n 25)
  | some .p | some .pi => [(2, .pred (BitVec.ofNat 3 (bits n 33 3)))]
  | some .x => if maj ≤ 0xF5 then [(6, w), (6, .pred (BitVec.ofNat 3 (bits n 18 3)))] else [(6, w)]
  | _ => [(4, w)]

/-- Continue a record: the landings of the new issue, and the request to a twist unit, which restores the record (R251). A transfer through a FUNC is in
its memory phase with the operands of its first issue. -/
def resumeIssue (c : CtxId) (enc : BitVec 48) (r : TwReq) : X Adv := do
  let x ← xCtx c
  (match r.op with
    | some op => opLands op
    | none => resumeLands enc).forM fun l => landWait c l.1 l.2
  xMod fun s => updCtx c (fun x => { x with park := some (match r.op with
      | some op => .mem op enc x.flow
      | none => .twist x.flow) })
    (twSubmit { r with level := x.level, addr := x.flow.pc, enc := enc, dst := BitVec.ofNat 5 (bits enc.toNat 31 5) } s)
  pure .seq

/-- A slot has issued: control moves on, the quantum counts (R289), the context parks or waits. -/
def slotDone (c : CtxId) (a : Adv) (s : State) : State :=
  let s := updCtx c (fun x => { x with issuedAt := s.m.clock }) (advance c a s)
  settle c (updSp (spOf s c) (fun p => { p with quantum := p.quantum + 1 }) s)

/-- The slot itself, in the order of R148; a slot that ERET skips is one whose guard is false (R341). An instruction of the TWIST major discards a
record that it does not match (R251). `hold` leaves the context in its slot (R428). -/
def slotRun (h : Hd) (enc : BitVec 48) (body : X Adv) (s : State) : State :=
  let c := h.ctx
  let x := getCtx s c
  let pc := x.flow.pc
  let run (b : X Adv) (s0 : State) : State :=
    match b s0 with
    | .ok a s' => slotDone c a s'
    | .error (.exc e) s' => raiseAt c enc e s s'
    | .error .hold _ => updCtx c (fun x => { x with invHold := true }) s
    | .error .wait _ => s
  if x.flow.past then run (xlFault c 0x50 pc 0 false false pc .fetch) s
  else if !encOk enc s.extEn then raiseAt c enc { code := 0x03, info := enc } s s
  else if x.skip then slotDone c .seq (updCtx c (fun x => { x with skip := false }) s)
  else if pGet x h.gpred = h.ginv then slotDone c .seq s
  else if x.level.toNat < minLevel enc then raiseAt c enc { code := 0x04, info := enc } s s
  else match flowFault x enc with
    | some e => raiseAt c enc e s s
    | none => match resumes x enc with
      | some r => run (resumeIssue c enc r) s
      | none => run body (if iMajor enc = 0x38 then twForget c s else s)

/-- An instruction command: the context issues it in its next slot. A context that is not RUNNING, a device that issues nothing
(R643), a space held by a FLIP (R522) and a context whose broadcast INVAL waits in its slot (R428) issue nothing. -/
def issue (h : Hd) (enc : BitVec 48) (body : X Adv) (s : State) : State :=
  let c := h.ctx
  let x := getCtx s c
  if x.st ≠ .running ∨ !issuing s ∨ heldByFlip s x ∨ x.invHold then s
  else if fileDue s c then fileLandPark c s
  else
    let s := applyDue c s
    let x := getCtx s c
    if x.st ≠ .running then s
    else if x.park.isSome then settle c s
    else match boundary c s with
      | some s => s
      | none => if needsFile s c then fileLandPark c s else slotRun h enc body s

/-- An instruction command as a meaning: it always answers a next state. -/
def issueOut (h : Hd) (enc : BitVec 48) (body : X Adv) (s : State) : Out := .next (issue h enc body s)

/-! ## Memory phases at issue -/

/-- A BITREF with LOCAL = 1 as it names the skein of the spindle that executes the slot (R109, R292). -/
def localRef (q : SpId) (v : Cell) : Cell :=
  if brTier (cDat v) = 1 ∧ (cDat v).getLsbD 21 then mkCell (cCol v) (cTyp v) (setBit (cDat v) 21 false ||| ((spSk q).setWidth 48 <<< 16)) else v

/-- An operation as it waits: what it names by the spindle of its slot stays so (R292). -/
def slotOp (q : SpId) (op : MemOp) : MemOp :=
  match op with
  | .bit r o pd => .bit (localRef q r) o pd
  | .waitb r d => .waitb (localRef q r) d
  | op => op

/-- Perform a memory phase in its slot when every access is served at once; otherwise the context parks with its landings recorded
as not yet arrived (R101, R276). -/
def xMemOp (c : CtxId) (enc : BitVec 48) (op : MemOp) : X Adv := fun s =>
  match memBasic c false enc op s with
  | .error .wait _ =>
    match ((opLands op).forM fun l => landWait c l.1 l.2 : X Unit) s with
    | .ok _ s => .ok .seq (updCtx c (fun x => { x with park := some (.mem (slotOp (ctxSp x) op) enc x.flow) }) s)
    | .error e s => .error e s
  | r => r

end Sys2Proof.Machine
end

