-- ==== Sys2Proof/Machine/Operands.lean ====
section
/-! DEFINITION. Operand forms and the operand checks of R149; immediates (R128); the addresses that registers hold (R130, R180). -/

namespace Sys2Proof.Machine

/-! ## Immediates -/

/-- A signed immediate as a FIX cell (R128). -/
def immFix {n : Nat} (i : BitVec n) : Cell := fixCell (i.signExtend 48)

/-- A signed displacement (R128). -/
def dispInt {n : Nat} (i : BitVec n) : Int := i.toInt

/-! ## Checks 1 to 3 of R149 -/

/-- Check 1: an UNSET operand; `i` is 0 for SA and 1 for SB. -/
def chkUnset (v : Cell) (i : Nat) : X Unit := if cTyp v = tUNSET then xFault 0x10 (dat i) else pure ()

/-- A malformed immediate or a reserved type code (check 2). -/
def badCell (v : Cell) : Bool := isMalformed v || isReserved (cTyp v)

/-- EXTI, EXTP and INST, on which dispatching operations trap (R72). -/
def dispatches (t : BitVec 6) : Bool := t = tEXTI || t = tEXTP || t = tINST

/-- SA alone, checks 1 and 2. -/
def xOne (c : CtxId) (ra : BitVec 5) : X Cell := do
  let a ← wRead c ra
  chkUnset a 0
  if badCell a then typeFault (cTyp a) 0
  pure a

/-- Two operands, checks 1 and 2. -/
def chkTwo (a b : Cell) : X Unit := do
  chkUnset a 0
  chkUnset b 1
  if badCell a || badCell b then typeFault (cTyp a) (cTyp b)

/-- SA and SB, checks 1 and 2. -/
def xTwo (c : CtxId) (ra rb : BitVec 5) : X (Cell × Cell) := do
  let a ← wRead c ra
  let b ← wRead c rb
  chkTwo a b
  pure (a, b)

/-- Check 3 for two operands; `tb` is 0 for a unary operation (R154). -/
def chkDispatch (ta tb : BitVec 6) : X Unit := if dispatches ta || dispatches tb then dispTrap 0 ta tb else pure ()

/-! ## Addresses and objects (R180 to R184) -/

/-- The address operand of LD, ST and the other forms of M and MA, interpreted under R180. `sa` says whether the cell counts as SA for
the UNSET trap. -/
def xAdr (c : CtxId) (r : BitVec 5) : X Cell := do
  let v ← xOne c r
  if cTyp v = tEXTP then dispTrap 0 (cTyp v) 0
  if (isPtr (cTyp v) && decide (cTyp v ≠ tFWD)) || cTyp v = tRAW then pure v
  else typeFault (cTyp v) 0

/-- The effective address of a format M or MA access (R130). -/
def xDispAdr {n : Nat} (c : CtxId) (r : BitVec 5) (d : BitVec n) (k : Acc) : X VAddr := do
  let v ← xAdr c r
  xEa c (cDat v) (dispInt d) k

/-- FIX or RAW. -/
def fixRaw (t : BitVec 6) : Bool := t = tFIX || t = tRAW

end Sys2Proof.Machine
end

