-- ==== Sys2Proof/Machine/Flags.lean ====
section
/-! DEFINITION. The STATUS values of status-writing forms (R160, R172, R173, R196). -/

namespace Sys2Proof.Machine

/-- Logical operations (R172). -/
def logicFlags (r : Datum) : BitVec 5 := flagsOf (decide (r = 0)) (r.getLsbD 47) false false false

/-- Shifts (R173): `left` for SHL, `fix` for a FIX operand. C is the last bit shifted out, for counts 1 to 48; V is set when SHL of
a FIX changes the value from SA * 2^count. -/
def shiftFlags (left arith fix : Bool) (a r : Datum) (n : Nat) : BitVec 5 :=
  let c : Bool :=
    if n = 0 ∨ n > 48 then false
    else if left then a.getLsbD (48 - n)
    else if arith ∧ n = 48 then a.getLsbD 47
    else a.getLsbD (n - 1)
  let v := left && fix && decide (if n > 48 then a ≠ 0 else r.toInt ≠ a.toInt * 2 ^ n)
  flagsOf (decide (r = 0)) (r.getLsbD 47) c v false

/-- An exact integer result of FIX operands computed on the spindle (R160): `c` is the carry or borrow of the 48-bit operation. -/
def fixFlags (r : Int) (c : Bool) : BitVec 5 :=
  flagsOf (decide (r = 0)) (decide (r < 0)) c (decide (r < -(2 ^ 47) ∨ 2 ^ 47 ≤ r)) false

/-- Carry out of a 48-bit addition. -/
def addCarry (a b : Datum) : Bool := decide (a.toNat + b.toNat ≥ 2 ^ 48)

/-- Borrow into a 48-bit subtraction. -/
def subBorrow (a b : Datum) : Bool := decide (a.toNat < b.toNat)

/-- A result that the spindle does not compute on FIX operands (R160): zero, negative, promoted. -/
def numFlags (zero neg promoted : Bool) : BitVec 5 := flagsOf zero neg false promoted false

/-- FCMP (R196): equal, less, unordered. -/
def fcmpFlags (eq lt un : Bool) : BitVec 5 := flagsOf eq lt false false un

end Sys2Proof.Machine
end

