-- ==== Sys2Proof/Machine/Alu.lean ====
section
/-! DEFINITION. MOV, logical, shift, field and tag operations, LDI and LDIH (R129, R172 to R175). -/

namespace Sys2Proof.Machine

/-- Land a result at distance 1, and STATUS for the status form. -/
def landAlu (c : CtxId) (dst : BitVec 5) (v : Cell) (s : Bool) (fl : BitVec 5) : X Adv := do
  landW c 1 dst v
  if s then landS c fl
  pure .seq

/-- A logical operation on two cells (R172). -/
def xLogic (c : CtxId) (dst : BitVec 5) (s : Bool) (op : Datum → Datum → Datum) (a b : Cell) : X Adv := do
  if !fixRaw (cTyp a) || !fixRaw (cTyp b) then typeFault (cTyp a) (cTyp b)
  let r := op (cDat a) (cDat b)
  landAlu c dst (mkCell 0 (if cTyp a = tFIX ∧ cTyp b = tFIX then tFIX else tRAW) r) s (logicFlags r)

/-- A two-operand logical operation. -/
def xLogic2 (f : FA) (c : CtxId) (op : Datum → Datum → Datum) : X Adv := do
  let r ← xTwo c f.sa f.sb
  xLogic c f.dst f.s op r.1 r.2

/-- A one-operand logical operation: its type is SA's, and TYPEB is 0. -/
def xLogic1 (c : CtxId) (dst sa : BitVec 5) (s : Bool) (op : Datum → Datum) : X Adv := do
  let a ← xOne c sa
  if !fixRaw (cTyp a) then typeFault (cTyp a) 0
  landAlu c dst (mkCell 0 (cTyp a) (op (cDat a))) s (logicFlags (op (cDat a)))

/-- The shifts (R173). -/
inductive Shift where
  | left | logical | arith
deriving DecidableEq, Repr

/-- A shifted datum. -/
def shifted (k : Shift) (a : Datum) (n : Nat) : Datum :=
  match k with
  | .left => if n ≥ 48 then 0 else a <<< n
  | .logical => if n ≥ 48 then 0 else a >>> n
  | .arith => a.sshiftRight (min n 48)

/-- A shift by a count (R173). -/
def landShift (c : CtxId) (dst : BitVec 5) (s : Bool) (k : Shift) (a : Cell) (n : Nat) : X Adv :=
  let r := shifted k (cDat a) n
  landAlu c dst (mkCell 0 (cTyp a) r) s (shiftFlags (decide (k = .left)) (decide (k = .arith)) (decide (cTyp a = tFIX)) (cDat a) r n)

/-- A register shift. -/
def xShift (f : FA) (c : CtxId) (k : Shift) : X Adv := do
  let r ← xTwo c f.sa f.sb
  if !fixRaw (cTyp r.1) || cTyp r.2 ≠ tFIX then typeFault (cTyp r.1) (cTyp r.2)
  landShift c f.dst f.s k r.1 (cDat r.2).toNat

/-- An immediate shift. -/
def xShiftI (f : FI) (c : CtxId) (k : Shift) : X Adv := do
  let a ← xOne c f.sa
  if !fixRaw (cTyp a) then typeFault (cTyp a) 0
  landShift c f.dst f.s k a f.imm.toNat

/-- MOV (R172). -/
def execMov (h : Hd) (f : FA) (s : State) : Out := issueOut h (encA 0x01 0x00 h f) (do
  let a ← wRead h.ctx f.sa
  landW h.ctx 1 f.dst a
  pure .seq) s

/-- AND (R172). -/
def execAnd (h : Hd) (f : FA) (s : State) : Out := issueOut h (encA 0x01 0x01 h f) (xLogic2 f h.ctx (· &&& ·)) s
/-- OR (R172). -/
def execOr (h : Hd) (f : FA) (s : State) : Out := issueOut h (encA 0x01 0x02 h f) (xLogic2 f h.ctx (· ||| ·)) s
/-- XOR (R172). -/
def execXor (h : Hd) (f : FA) (s : State) : Out := issueOut h (encA 0x01 0x03 h f) (xLogic2 f h.ctx (· ^^^ ·)) s
/-- ANDN (R172): SA and not SB. -/
def execAndn (h : Hd) (f : FA) (s : State) : Out := issueOut h (encA 0x01 0x04 h f) (xLogic2 f h.ctx fun a b => a &&& ~~~b) s
/-- NOT (R172). -/
def execNot (h : Hd) (f : FA) (s : State) : Out := issueOut h (encA 0x01 0x05 h f) (xLogic1 h.ctx f.dst f.sa f.s (~~~ ·)) s
/-- SHL (R173). -/
def execShl (h : Hd) (f : FA) (s : State) : Out := issueOut h (encA 0x01 0x08 h f) (xShift f h.ctx .left) s
/-- SHR (R173). -/
def execShr (h : Hd) (f : FA) (s : State) : Out := issueOut h (encA 0x01 0x09 h f) (xShift f h.ctx .logical) s
/-- SAR (R173). -/
def execSar (h : Hd) (f : FA) (s : State) : Out := issueOut h (encA 0x01 0x0A h f) (xShift f h.ctx .arith) s

/-- A logical operation with IMM21 as a FIX (R128, R172). -/
def xLogicI (f : FI) (c : CtxId) (op : Datum → Datum → Datum) : X Adv :=
  xLogic1 c f.dst f.sa f.s fun a => op a (f.imm.signExtend 48)

/-- ANDI (R172). -/
def execAndi (h : Hd) (f : FI) (s : State) : Out := issueOut h (encI 0x02 0 h f) (xLogicI f h.ctx (· &&& ·)) s
/-- ORI (R172). -/
def execOri (h : Hd) (f : FI) (s : State) : Out := issueOut h (encI 0x02 1 h f) (xLogicI f h.ctx (· ||| ·)) s
/-- XORI (R172). -/
def execXori (h : Hd) (f : FI) (s : State) : Out := issueOut h (encI 0x02 2 h f) (xLogicI f h.ctx (· ^^^ ·)) s
/-- SHLI (R173). -/
def execShli (h : Hd) (f : FI) (s : State) : Out := issueOut h (encI 0x02 3 h f) (xShiftI f h.ctx .left) s
/-- SHRI (R173). -/
def execShri (h : Hd) (f : FI) (s : State) : Out := issueOut h (encI 0x02 4 h f) (xShiftI f h.ctx .logical) s
/-- SARI (R173). -/
def execSari (h : Hd) (f : FI) (s : State) : Out := issueOut h (encI 0x02 5 h f) (xShiftI f h.ctx .arith) s

/-- A field of any cell, without a check (R174). -/
def xField (c : CtxId) (f : FA) (r : Cell → Cell) : X Adv := do
  let a ← wRead c f.sa
  landW c 1 f.dst (r a)
  pure .seq

/-- TYPEOF (R174). -/
def execTypeof (h : Hd) (f : FA) (s : State) : Out :=
  issueOut h (encA 0x01 0x10 h f) (xField h.ctx f fun a => fixCell ((cTyp a).setWidth 48)) s
/-- COLOUROF (R174). -/
def execColourof (h : Hd) (f : FA) (s : State) : Out :=
  issueOut h (encA 0x01 0x11 h f) (xField h.ctx f fun a => fixCell ((cCol a).setWidth 48)) s
/-- DATUMOF (R174). -/
def execDatumof (h : Hd) (f : FA) (s : State) : Out := issueOut h (encA 0x01 0x12 h f) (xField h.ctx f fun a => rawCell (cDat a)) s

/-- The cell that SETTYPE lands for a type code (R175). -/
def settypeCell (good : BitVec 2) (x : Cell) (t : BitVec 6) : Cell :=
  mkCell (if isPtr t then (if isPtr (cTyp x) then cCol x else good) else if t = tHDR then cCol x else 0) t (cDat x)

/-- SETTYPE (R175): SA is read whatever its type; SB passes check 1 of R149. -/
def execSettype (h : Hd) (f : FA) (s : State) : Out := issueOut h (encA 0x01 0x13 h f) (do
  let c := h.ctx
  let x ← wRead c f.sa
  let t ← wRead c f.sb
  chkUnset t 1
  if cTyp t ≠ tFIX ∨ (cDat t).toNat > 0x3F then typeFault (cTyp x) (cTyp t)
  let code : BitVec 6 := (cDat t).extractLsb' 0 6
  if code = tRETA ∨ isReserved code then typeFault (cTyp x) (cTyp t)
  let y ← xCtx c
  if code = tFWD ∧ y.level = 0 then xFault 0x04 (encA 0x01 0x13 h f)
  let s ← get
  landW c 1 f.dst (settypeCell (goodOf s c) x code)
  pure .seq) s

/-- LDI (R129). -/
def execLdi (h : Hd) (f : FW) (s : State) : Out := issueOut h (encW false h f) (do
  let d : Datum := if f.ty = 1 then f.imm.signExtend 48 else f.imm.setWidth 48
  landW h.ctx 1 f.dst (mkCell 0 (f.ty.setWidth 6) d)
  pure .seq) s

/-- LDIH (R129). It alters no RETA cell: the type fault (R52; DESIGN CHOICE: no rule names the fault). -/
def execLdih (h : Hd) (f : FW) (s : State) : Out := issueOut h (encW true h f) (do
  let v ← wRead h.ctx f.dst
  if cTyp v = tRETA then typeFault (cTyp v) 0
  landW h.ctx 1 f.dst (mkCell (cCol v) (cTyp v) (f.imm.extractLsb' 0 24 ++ (cDat v).extractLsb' 0 24))
  pure .seq) s

end Sys2Proof.Machine
end

