-- ==== Sys2Proof/Machine/BitOps.lean ====
section
/-! DEFINITION. The bit instructions over the three tiers (R109 to R118, R134). -/

namespace Sys2Proof.Machine

/-- The BITREF of a bit instruction, of a tier that suits its major (R134). -/
def xBitref (c : CtxId) (r : BitVec 5) (tier1 : Bool) : X Cell := do
  let v ← xOne c r
  if cTyp v ≠ tBITREF ∨ decide (brTier (cDat v) = 0) ≠ tier1 then typeFault (cTyp v) 0
  pure v

/-- The private bit that a tier-1 form names. -/
def xBit1No (h : Hd) (f : FBT) : X (BitVec 8) :=
  if f.ib then pure f.bitno else do
    let v ← xBitref h.ctx f.sa true
    pure ((cDat v).extractLsb' 0 8)

/-- A bit instruction: tier 1 in the slot, tiers 2 and 3 as memory phases. `op` is given the predicate PD. -/
def xBitOp (h : Hd) (f : FBT) (enc : BitVec 48) (op : Bool → BitOp) : X Adv := do
  let x ← xCtx h.ctx
  let o := op (pGet x f.pd)
  if f.bitx then do
    let v ← xBitref h.ctx f.sa false
    xMemOp h.ctx enc (.bit v o f.pd)
  else do
    let b ← xBit1No h f
    match o with
    | .get => landP h.ctx 2 f.pd (x.pbits.getLsbD b.toNat)
    | .put v => land h.ctx 2 (.pbit b) ((b1 v).setWidth 64)
    | .tas => do
      landP h.ctx 2 f.pd (x.pbits.getLsbD b.toNat)
      land h.ctx 2 (.pbit b) 1
    pure .seq

/-- BGET (R110). -/
def execBget (h : Hd) (f : FBT) (s : State) : Out := issueOut h (encBT 0 h f) (xBitOp h f (encBT 0 h f) fun _ => .get) s
/-- BPUT (R134). -/
def execBput (h : Hd) (f : FBT) (s : State) : Out := issueOut h (encBT 1 h f) (xBitOp h f (encBT 1 h f) fun v => .put v) s
/-- BSET (R115). -/
def execBset (h : Hd) (f : FBT) (s : State) : Out := issueOut h (encBT 2 h f) (xBitOp h f (encBT 2 h f) fun _ => .put true) s
/-- BCLR (R110). -/
def execBclr (h : Hd) (f : FBT) (s : State) : Out := issueOut h (encBT 3 h f) (xBitOp h f (encBT 3 h f) fun _ => .put false) s
/-- BTAS (R111). -/
def execBtas (h : Hd) (f : FBT) (s : State) : Out := issueOut h (encBT 4 h f) (xBitOp h f (encBT 4 h f) fun _ => .tas) s

end Sys2Proof.Machine
end

