-- ==== Sys2Proof/Machine/CacheTlb.lean ====
section
/-! DEFINITION. Cache maintenance and the TLB instructions (R391 to R398, R403, R423 to R428). -/

namespace Sys2Proof.Machine

/-! ## ZLINE, CLEAN, FLUSH, PREF, INVAL -/

/-- ZLINE (R424). -/
def execZline (h : Hd) (f : FM) (s : State) : Out := issueOut h (encM 0x2D 0 h f) (do
  let a ← xDispAdr h.ctx f.adr f.disp .write
  xMemOp h.ctx (encM 0x2D 0 h f) (.zline a)) s

/-- CLEAN (R425). -/
def execClean (h : Hd) (f : FM) (s : State) : Out := issueOut h (encM 0x2D 1 h f) (do
  let a ← xDispAdr h.ctx f.adr f.disp .read
  xMemOp h.ctx (encM 0x2D 1 h f) (.clean a false)) s

/-- FLUSH (R425). -/
def execFlush (h : Hd) (f : FM) (s : State) : Out := issueOut h (encM 0x2D 2 h f) (do
  let a ← xDispAdr h.ctx f.adr f.disp .read
  xMemOp h.ctx (encM 0x2D 2 h f) (.clean a true)) s

/-- The first address of a parked memory phase that loads a cell. -/
def opAddr (op : MemOp) : Option VAddr :=
  match op with
  | .ldRaw va _ | .load va _ _ | .tas va _ | .sc va _ _ => some va
  | .vref o _ _ | .vset o _ _ | .hlen o _ | .sym o _ _ | .setsym o _ | .fcall o _ => some (cDat o)
  | .ret sp | .tcall _ sp _ => some (cDat sp)
  | _ => none

/-- The line whose fill a parked context waits for: the line of its access, translated, and not in the level-1 cache (R101). -/
def missOf (c : CtxId) (s : State) : Option Nat :=
  let x := getCtx s c
  match x.park with
  | some (.mem op _ _) => (match opAddr op with
    | some va => (match xlate c x.level false va .read s with
      | .ok r _ => if r.2 = 0 ∧ (l1Find (getSp s (ctxSp x)) (lineOf r.1)).isNone then some (lineOf r.1) else none
      | .error _ _ => none)
    | none => none)
  | _ => none

/-- Fills of a spindle that are outstanding (R421, R426): those held for their victims, and those that parked contexts wait for. -/
def fillsOut (q : SpId) (s : State) : Nat :=
  let held := ((getSk s (spSk q)).held.filter fun h => h.asks.any fun a => askSp a = some q).map fun h => h.ln
  let parked := s.ctxs.filterMap fun e => if ctxSp e.2 = q then missOf (BitVec.ofNat 16 e.1) s else none
  (held ++ parked).eraseDups.length

/-- Fill a line into the level-1 and skein caches; dropped where the spindle holds the line, the context is zeroing it, 8 fills are outstanding,
or no way may take it (R423, R426, R443). -/
def prefFill (c : CtxId) (ln : Nat) (s : State) : State :=
  let x := getCtx s c
  let q := ctxSp x
  let k := getSk s x.skein
  let mask := wayMaskFor k (getHank s x.hank).cur.waymask x.hv
  if (l1Find (getSp s q) ln).isSome || zeroing c q ln s || decide (fillsOut q s ≥ 8) ||
      ((skFind k ln).isNone && !canInstall k mask ln) then s
  else
    let s := (skFill x.skein mask ln false 1 (.pref q) s).2
    if (skFind (getSk s x.skein) ln).isSome then l1Fill q ln false s else s

/-- A body whose faults are dropped (R403). -/
def xQuiet {α : Type} (m : X α) : X (Option α) := fun s =>
  match m s with
  | .ok a s => .ok (some a) s
  | .error (.exc _) s => .ok none s
  | .error e s => .error e s

/-- PREF (R403, R426): it never faults and never parks; a prefetch whose operand or translation fails a check is dropped. -/
def execPref (h : Hd) (f : FM) (s : State) : Out := issueOut h (encM 0x2D 3 h f) (do
  let c := h.ctx
  let v ← xQuiet (xAdr c f.adr)
  let x ← xCtx c
  match v.bind fun v => vAdd (cDat v) (dispInt f.disp) with
  | none => pure .seq
  | some a => do
    xMod fun s => match prefXlate c x.level a s with
      | (some pa, s) => prefFill c (lineOf pa) s
      | (none, s) => s
    pure .seq) s

/-- INVAL (R427, R428). -/
def execInval (h : Hd) (f : FA) (s : State) : Out := issueOut h (encA 0x2E 0x00 h f) (do
  let c := h.ctx
  let a ← wRead c f.sa
  let b ← wRead c f.sb
  if f.sa ≠ 0 then chkUnset a 0
  chkUnset b 1
  if badCell b || cTyp b ≠ tFIX then typeFault (cTyp a) (cTyp b)
  let n := (cDat b).toNat
  let all := bitN n 0
  let bcast := bitN n 1
  if n > 3 ∨ (all = true ∧ f.sa ≠ 0) then xFault 0x15 (cDat b)
  if all then do
    let s ← get
    if bcast && !(getSp s (spOf s c)).ibusy.isEmpty then fun s => .error .hold s
    xMod (doInval c none bcast)
    pure .seq
  else do
    if badCell a then typeFault (cTyp a) (cTyp b)
    if cTyp a = tEXTP then dispTrap 0 (cTyp a) (cTyp b)
    if !((isPtr (cTyp a) && decide (cTyp a ≠ tFWD)) || cTyp a = tRAW) then typeFault (cTyp a) (cTyp b)
    xMemOp c (encA 0x2E 0x00 h f) (.inval (cDat a) bcast)) s

/-! ## TLB instructions (R391 to R395) -/

/-- Two operands of given types. -/
def xTwoOf (c : CtxId) (f : FA) (ta tb : BitVec 6) : X (Datum × Datum) := do
  let r ← xTwo c f.sa f.sb
  if cTyp r.1 ≠ ta ∨ cTyp r.2 ≠ tb then typeFault (cTyp r.1) (cTyp r.2)
  pure (cDat r.1, cDat r.2)

/-- A malformed E0, E1 pair (R377, R391). -/
def entBad (e0 e1 : Datum) : Bool :=
  decide (bits e1.toNat 36 4 ≠ 0) || (e1.getLsbD 45 && (decide (bits e0.toNat 0 9 ≠ 0) || decide (bits e1.toNat 0 9 ≠ 0)))

/-- R384 for a page that TLBW or TLBLK installs; it is no access, so XLSTAT stays as it is (R388). -/
def xPageGrant (c : CtxId) (e1 : Datum) : X Unit := do
  let x ← xCtx c
  let s ← get
  let size := pageSize e1
  let pp := 4096 * bits e1.toNat 0 28 / size * size
  if !ctxGrant s x pp size then xFault 0x5C (dat pp)

/-- The entry that an operand pair installs; G is forced to 0 for HV = 1 (R378). -/
def xEntry (c : CtxId) (e0 e1 : Datum) (lk : Bool) : X TlbEnt := do
  let x ← xCtx c
  pure { e0 := e0, e1 := if x.hv then setBit e1 46 false else e1, locked := lk }

/-- TLBW (R391). -/
def execTlbw (h : Hd) (f : FA) (s : State) : Out := issueOut h (encA 0x2E 0x10 h f) (do
  let c := h.ctx
  let (e0, e1) ← xTwoOf c f tRAW tRAW
  if entBad e0 e1 then xFault 0x5B 1
  let sp := pageSpan e0 e1
  let meets (e : TlbEnt) : Bool := entOverlap e (bits e0.toNat 36 12) sp.1 sp.2
  let q ← (fun s => .ok (spOf s c) s : X SpId)
  xMod (updSp q (tlbRemove meets false))
  if e1.getLsbD 47 then do
    xPageGrant c e1
    let e ← xEntry c e0 e1 false
    xMod (updSp q fun p =>
      let p := dtlbIns e p
      if e1.getLsbD 41 && !p.itlb.any (fun i => i.2.locked && meets i.2) then itlbIns e p else p)
  pure .seq) s

/-- TLBLK (R392). -/
def execTlblk (h : Hd) (f : FA) (s : State) : Out := issueOut h (encA 0x2E 0x13 h f) (do
  let c := h.ctx
  let (e0, e1) ← xTwoOf c f tRAW tRAW
  if entBad e0 e1 then xFault 0x5B 1
  let sp := pageSpan e0 e1
  let meets (e : TlbEnt) : Bool := entOverlap e (bits e0.toNat 36 12) sp.1 sp.2
  let q ← (fun s => .ok (spOf s c) s : X SpId)
  let drop (p : Spindle) : Spindle := { p with itlb := p.itlb.filter fun i => !meets i.2 }
  if e1.getLsbD 47 then do
    xPageGrant c e1
    let s ← get
    if ((getSp s q).itlb.filter fun i => i.2.locked && !meets i.2).length ≥ 16 then xFault 0x5B 2
    let e ← xEntry c e0 e1 true
    xMod (updSp q fun p => itlbIns e (drop p))
  else xMod (updSp q drop)
  pure .seq) s

/-- Apply an invalidation here and, broadcast, hand it to every other active spindle; a parked skein applies it at once (R397,
R398). -/
def doShoot (c : CtxId) (o : InvOp) (bcast : Bool) (s : State) : State :=
  let q := spOf s c
  let s := updSp q (invApply o) s
  if !bcast then s
  else
    let s := (upto 512).foldl (fun (s : State) (i : Nat) =>
      let p : SpId := BitVec.ofNat 9 i
      if (getSk s (spSk p)).parked && !outOfService s p then updSp p (invApply o) s else s) s
    let todo := otherSpindles s q
    if todo.isEmpty then s
    else setAx c 30 (setBit (axGet (getCtx s c) 30) 47 true)
      { (fabricTo (spSk q) todo s) with bcasts := s.bcasts ++ [{ ctx := c, gen := (getCtx s c).gen, sk := spSk q, op := o, todo := todo }] }

/-- A broadcast while SBUSY = 1 (R397). -/
def xShootFree (c : CtxId) (bcast : Bool) : X Unit := do
  let x ← xCtx c
  if bcast && (axGet x 30).getLsbD 47 then xFault 0x5B 3

/-- TLBINV (R393). -/
def execTlbinv (h : Hd) (f : FA) (s : State) : Out := issueOut h (encA 0x2E 0x11 h f) (do
  let c := h.ctx
  let (a, b) ← xTwoOf c f tRAW tFIX
  let n := b.toNat
  if n ≥ 8 ∨ (bitN n 0 = true ∧ bits a.toNat 8 28 ≠ 0) then xFault 0x5B 1
  xShootFree c (bitN n 1)
  let o : InvOp := if bitN n 0 then .seg (a.extractLsb' 36 12) (a.extractLsb' 0 8) else .page a (bitN n 2)
  xMod (doShoot c o (bitN n 1))
  pure .seq) s

/-- TLBINVS (R394). A hank acts only on its own tags, and names one of them with ALL = 1 too. -/
def execTlbinvs (h : Hd) (f : FA) (s : State) : Out := issueOut h (encA 0x2E 0x12 h f) (do
  let c := h.ctx
  let (a, b) ← xTwoOf c f tFIX tFIX
  let n := b.toNat
  if a.toNat > 4095 ∨ n ≥ 16 ∨ bitN n 0 = true then xFault 0x5B 1
  let x ← xCtx c
  let s ← get
  let g := (getHank s x.hank).cur
  let all := bitN n 3
  if x.hv && !tagIn g (a.extractLsb' 0 12) then xFault 0x5C a
  xShootFree c (bitN n 1)
  let tags : Nat × Nat := if !all then (a.toNat, a.toNat) else if x.hv then (g.taglo.toNat, g.taghi.toNat) else (0, 4095)
  xMod (doShoot c (.space tags all (bitN n 2)) (bitN n 1))
  pure .seq) s

/-- TLBRD (R395). -/
def execTlbrd (h : Hd) (f : FA) (s : State) : Out := issueOut h (encA 0x2E 0x14 h f) (do
  let c := h.ctx
  let a ← xOne c f.sa
  if cTyp a ≠ tRAW then typeFault (cTyp a) 0
  let s ← get
  let p := getSp s (spOf s c)
  let t : BitVec 12 := (cDat a).extractLsb' 36 12
  let lin := 4096 * bits (cDat a).toNat 0 36
  let v := match tlbFind p.dtlb t lin with
    | some e => rawCell e.e1
    | none => match tlbFind p.itlb t lin with
      | some e => rawCell e.e1
      | none => unsetCell
  landW c 4 f.dst v
  pure .seq) s

end Sys2Proof.Machine
end

