-- ==== Sys2Proof/Machine/Carder.lean ====
section
/-! DEFINITION. The carder: matching, insertion, deletion, replacement, the queue, scans, CLR0 (R526 to R548). -/

namespace Sys2Proof.Machine

/-! ## Delivery of results by target (R276) -/

/-- Deliver values to the landings of the parking producer that a function gives one for. -/
def deliverBy (c : CtxId) (f : Tgt → Option (BitVec 64)) (s : State) : State :=
  updCtx c (fun x => { x with land := x.land.map fun l =>
    if l.arrived then l else match f l.tgt with
      | some v => { l with arrived := true, val := v }
      | none => l }) s

/-- A result of a word value and a predicate. -/
def wordPred (v : Cell) (p : Bool) (t : Tgt) : Option (BitVec 64) :=
  match t with
  | .word _ => some v
  | .pred _ => some ((b1 p).setWidth 64)
  | _ => none

/-! ## Matching (R533 to R535) -/

def metaWA (e : CEnt) : Bool := e.meta_.getLsbD 46
def metaWB (e : CEnt) : Bool := e.meta_.getLsbD 45
def metaLock (e : CEnt) : Bool := e.meta_.getLsbD 44
def metaAge (e : CEnt) : Nat := bits e.meta_.toNat 35 2

/-- META from its fields (R528). -/
def metaCell (wa wb lock : Bool) (o : BitVec 7) (age : Nat) (user : BitVec 32) : Cell :=
  rawCell (b1 true ++ b1 wa ++ b1 wb ++ b1 lock ++ o ++ BitVec.ofNat 2 age ++ (0 : BitVec 3) ++ user)

/-- An entry with another AGE. -/
def withAge (e : CEnt) (a : Nat) : CEnt :=
  { e with meta_ := metaCell (metaWA e) (metaWB e) (metaLock e) (metaOwner e) a (e.meta_.extractLsb' 0 32) }

/-- An entry matches a presented key with probe wildcards (R533). -/
def cMatch (o : BitVec 7) (k0 k1 : Cell) (pa pb : Bool) (e : CEnt) : Bool :=
  metaV e && decide (metaOwner e = o) && (metaWA e || pa || identical e.k0 k0) && (metaWB e || pb || identical e.k1 k1)

/-- The winner among matches: fewest wildcards of its own, then the lowest number (R534). -/
def cWinner (o : BitVec 7) (k0 k1 : Cell) (pa pb : Bool) (m : SMap CEnt) : Option (Nat × CEnt) :=
  (m.filter fun e => cMatch o k0 k1 pa pb e.2).foldl (fun r e =>
    let n (x : CEnt) : Nat := b2n (metaWA x) + b2n (metaWB x)
    match r with
    | none => some e
    | some b => if n e.2 < n b.2 then some e else r) none

/-- The entry with the same key (R535). -/
def cSame (o : BitVec 7) (k0 k1 : Cell) (wa wb : Bool) (m : SMap CEnt) : Option (Nat × CEnt) :=
  m.find? fun e => metaV e.2 && decide (metaOwner e.2 = o) && decide (metaWA e.2 = wa ∧ metaWB e.2 = wb) &&
    (wa || identical e.2.k0 k0) && (wb || identical e.2.k1 k1)

/-! ## Verification (R546) -/

/-- Verify an entry's four cells: the corrected entry, or none when one is uncorrectable. -/
def cVerify (e : CEnt) : Option CEnt :=
  match verify e.k0, verify e.k1, verify e.val, verify e.meta_ with
  | some a, some b, some v, some m => some { k0 := a.1, k1 := b.1, val := v.1, meta_ := m.1 }
  | _, _, _, _ => none

/-- Remove an entry with an uncorrectable cell. -/
def cRemoveBad (k : SkId) (i : Nat) (s : State) : State :=
  logEvent 0x13 3 k.toNat 128 none none i
    (updSk k (fun x => { x with card := mapDel i x.card, ucnt := if x.ucnt = 0xFFFF then x.ucnt else x.ucnt + 1 }) s)

/-- Read an entry: verified and rewritten when corrected, or removed. -/
def cRead (k : SkId) (i : Nat) (s : State) : Option CEnt × State :=
  let e := mapGet {} (getSk s k).card i
  match cVerify e with
  | none => (none, cRemoveBad k i s)
  | some e' =>
    if e' = e then (some e, s)
    else (some e', logEvent 0x0E 0 k.toNat 128 none none i (updSk k (fun x => { x with card := mapSet {} x.card i e' }) s))

/-- The cells that matching and replacement read, K0, K1 and META, need no correction. -/
def cPlain (e : CEnt) : Bool := decide (syndrome e.k0 = 0) && decide (syndrome e.k1 = 0) && decide (syndrome e.meta_ = 0)

/-- Verify the cells of an entry that matching and replacement read: rewritten when corrected, the entry removed when one is uncorrectable,
whichever owner it has. -/
def cKeys (k : SkId) (i : Nat) (s : State) : State :=
  let e := mapGet {} (getSk s k).card i
  if cPlain e then s
  else match cVerify { e with val := nilCell } with
    | none => cRemoveBad k i s
    | some v => logEvent 0x0E 0 k.toNat 128 none none i (updSk k (fun x => { x with card := mapSet {} x.card i { v with val := e.val } }) s)

/-- Correct the correctable cells of an entry that matching reads; one whose META is uncorrectable has no owner, and is removed (R546). -/
def cMend (k : SkId) (i : Nat) (s : State) : State :=
  let e := mapGet {} (getSk s k).card i
  if cPlain e then s
  else match verify e.meta_ with
    | none => cRemoveBad k i s
    | some m =>
      let fix (v : Cell) : Cell := ((verify v).map fun p => p.1).getD v
      let e' := { e with k0 := fix e.k0, k1 := fix e.k1, meta_ := m.1 }
      if e' = e then s else logEvent 0x0E 0 k.toNat 128 none none i (updSk k (fun x => { x with card := mapSet {} x.card i e' }) s)

/-- The correctable cells that an operation's matching reads are corrected. -/
def cMendAll (k : SkId) (s : State) : State :=
  if (getSk s k).card.all fun e => cPlain e.2 then s else (getSk s k).card.foldl (fun s e => cMend k e.1 s) s

/-- The METAs of a skein's carder are read: a corrected one is rewritten, an entry with an uncorrectable one removed (R546). -/
def cMetas (k : SkId) (s : State) : State :=
  (getSk s k).card.foldl (fun s e => match verify e.2.meta_ with
    | some (_, false) => s
    | some (m, true) =>
      logEvent 0x0E 0 k.toNat 128 none none e.1 (updSk k (fun x => { x with card := mapSet {} x.card e.1 { e.2 with meta_ := m } }) s)
    | none => cRemoveBad k e.1 s) s

/-- Every entry of an owner is deleted (R531, R571), the owners read verified. -/
def cardClear (k : SkId) (o : BitVec 7) (s : State) : State :=
  updSk k (fun x => { x with card := x.card.filter fun e => !(metaV e.2 && decide (metaOwner e.2 = o)) }) (cMetas k s)

/-- An operation reads the keys and META of every entry (R533 to R535, R538): they are verified. -/
def cScrub (k : SkId) (s : State) : State :=
  if (getSk s k).card.all fun e => cPlain e.2 then s else (getSk s k).card.foldl (fun s e => cKeys k e.1 s) s

/-! ## Replacement (R538) -/

/-- The victim of an owner and the entries with their ages raised: at most three ageing rounds. -/
def cVictim (o : BitVec 7) : Nat → SMap CEnt → Option Nat × SMap CEnt
  | n, m =>
    let mine (e : CEnt) : Bool := metaV e && decide (metaOwner e = o) && !metaLock e
    match m.find? fun e => mine e.2 && decide (metaAge e.2 = 3) with
    | some e => (some e.1, m)
    | none => match n with
      | 0 => (none, m)
      | n + 1 => cVictim o n (m.map fun e => if mine e.2 then (e.1, withAge e.2 (min 3 (metaAge e.2 + 1))) else e)

/-- The lowest free entry number. -/
def cFreeEntry (m : SMap CEnt) : Option Nat := (upto 16384).find? fun i => decide ((mapGet {} m i : CEnt) = {})

/-! ## Applying an operation (R537) -/

/-- The CINS result cell. -/
def cinsResult (out idx : Nat) : Cell := rawCell (dat (2 ^ 44 * out + idx))

/-- CPROBE: the value and the predicate. -/
def applyProbe (k : SkId) (r : CReq) (s : State) : Cell × Bool × State :=
  let o := ownerBits r.hv r.hank
  match cWinner o r.k0 r.k1 r.wa r.wb (getSk s k).card with
  | none => (unsetCell, false, s)
  | some (i, _) => match cRead k i s with
    | (none, s) => (fixCell 5, false, s)
    | (some e, s) => (e.val, true, updSk k (fun x => { x with card := mapSet {} x.card i (withAge e 0) }) s)

/-- CDEL. -/
def applyDel (k : SkId) (r : CReq) (s : State) : Cell × Bool × State :=
  let o := ownerBits r.hv r.hank
  match cSame o r.k0 r.k1 r.wa r.wb (getSk s k).card with
  | none => (unsetCell, false, s)
  | some (i, _) => match cRead k i s with
    | (none, s) => (fixCell 5, false, s)
    | (some e, s) => (e.val, true, updSk k (fun x => { x with card := mapDel i x.card }) s)

/-- The entry CINS will write and OUT, or the refusal; victims are chosen here. -/
def cinsPlace (k : SkId) (r : CReq) (s : State) : (Nat ⊕ (Nat × Nat)) × State :=
  let o := ownerBits r.hv r.hank
  let x := getSk s k
  let md := cardMode s x r.hv r.hank
  if md.2 = 0 then (.inl 4, s)
  else
    let refuse : (Nat ⊕ (Nat × Nat)) × State := (.inl 3, s)
    let full : (Nat ⊕ (Nat × Nat)) × State :=
      if !md.1 then refuse
      else match cVictim o 3 x.card with
        | (some i, m) => (.inr (i, 2), updSk k (fun x => { x with card := m }) s)
        | (none, m) => (.inl 3, updSk k (fun x => { x with card := m }) s)
    if cardHeldBy x o < md.2 then
      match cFreeEntry x.card with
      | some i => (.inr (i, 0), s)
      | none => full
    else full

/-- CINS. An uncorrectable addressed entry is removed first. -/
def applyIns (k : SkId) (r : CReq) (s : State) : Cell × Bool × State :=
  let o := ownerBits r.hv r.hank
  let place : (Nat ⊕ (Nat × Nat)) × State := match cSame o r.k0 r.k1 r.wa r.wb (getSk s k).card with
    | none => cinsPlace k r s
    | some (i, _) => match cRead k i s with
      | (some _, s) => (.inr (i, 1), s)
      | (none, s) => cinsPlace k r s
  match place with
  | (.inl out, s) => (cinsResult out 0, false, s)
  | (.inr (i, out), s) =>
    let e : CEnt := { k0 := if r.wa then nilCell else sealCell r.k0, k1 := if r.wb then nilCell else sealCell r.k1
                      val := sealCell r.v, meta_ := metaCell r.wa r.wb r.lock o 1 r.user }
    (cinsResult out i, true, updSk k (fun x => { x with card := mapSet {} x.card i e }) s)

/-! ## The queue (R543, R545) -/

/-- A held request may enter the queue: an insertion or deletion waits for its context's stores, in the buffer of the spindle that sent it. The context
may be gone by then, and its number in use again. -/
def cReady (s : State) (k : SkId) (r : CReq) : Bool :=
  decide (r.op = .probe) || (decide (sbCount (getSp s (k ++ r.lspin)) r.ctx = 0) && (decide ((getCtx s r.ctx).gen ≠ r.gen) || !sbWaits (getCtx s r.ctx)))

/-- The held request that is admitted next, in rotation after the spindle last admitted. -/
def cNext (s : State) (kid : SkId) (k : Skein) : Option CReq :=
  let dist (r : CReq) : Nat := (r.lspin.toNat + 15 - k.cardLast.toNat) % 16
  (k.cardHeld.filter (cReady s kid)).foldl (fun b r => match b with
    | none => some r
    | some q => if dist r < dist q then some r else b) none

/-- Admit held requests while the queue has room. -/
def cardAdmit (k : SkId) : Nat → State → State
  | 0, s => s
  | n + 1, s =>
    let x := getSk s k
    if x.cardQ.length ≥ 32 then s
    else match cNext s k x with
      | none => s
      | some r => cardAdmit k n (updSk k (fun x => { x with
          cardQ := x.cardQ ++ [r], cardHeld := x.cardHeld.filter (fun q => q ≠ r), cardLast := r.lspin }) s)

/-- Deliver a carder result; a bad value takes the slow path first, and the predicate lands with the healed value (R537, R548). -/
def cardDeliver (k : SkId) (r : CReq) (v : Cell) (p : Bool) (s : State) : State :=
  let x := getCtx s r.ctx
  if x.st = .free ∨ x.gen ≠ r.gen then s
  else match x.park with
    | some (.carder enc back) =>
      let wantsVal := x.land.any fun l => !l.arrived && (match l.tgt with
        | .word _ => true
        | _ => false)
      if p && decide (r.op ≠ .ins) && wantsVal && isBad (blockAt s k (spaceTag x)) v then
        let q : TwReq := { twReqOf x r.ctx enc (.slow v none) 0 0 (BitVec.ofNat 5 (bits enc.toNat 31 5)) with addr := back.pc }
        twSubmit q (updCtx r.ctx (fun x => { x with park := some (.twist back) }) s)
      else resumeParked r.ctx (deliverBy r.ctx (wordPred v p) s)
    | _ => s

/-- The entry that a probe or a deletion finds, as its cells stand, has an uncorrectable cell among its keys (R537). -/
def cFoundBad (r : CReq) (m : SMap CEnt) : Bool :=
  let o := ownerBits r.hv r.hank
  let found : Option (Nat × CEnt) := match r.op with
    | .probe => cWinner o r.k0 r.k1 r.wa r.wb m
    | .del => cSame o r.k0 r.k1 r.wa r.wb m
    | .ins => none
  found.any fun e => (cVerify { e.2 with val := nilCell }).isNone

/-- The carder accepts the request at the head of its queue and applies it. -/
def cardAccept (k : SkId) (s : State) : State :=
  match (getSk s k).cardQ with
  | [] => s
  | r :: q =>
    let s := cMendAll k (updSk k (fun x => { x with cardQ := q }) s)
    let bad := cFoundBad r (getSk s k).card
    let s := cScrub k s
    let a := if bad then (fixCell 5, false, s) else match r.op with
      | .probe => applyProbe k r s
      | .ins => applyIns k r s
      | .del => applyDel k r s
    cardAdmit k 32 (cardDeliver k r a.1 a.2.1 a.2.2)

/-- CLR0 (R531): every entry of the HV = 0 owner is deleted. -/
def cardClr0 (k : SkId) (s : State) : State := cardClear k 0 s

/-! ## Issue (R536) -/

/-- FUNC fields (R137). -/
def fnPD (f : FX) : BitVec 3 := f.func.extractLsb' 18 3
def fnWA (f : FX) : Bool := f.func.getLsbD 17
def fnWB (f : FX) : Bool := f.func.getLsbD 16
def fnMREG (f : FX) : BitVec 5 := f.func.extractLsb' 11 5

/-- Park on the carder with a request. -/
def xCardSend (c : CtxId) (enc : BitVec 48) (f : FX) (r : CReq) : X Adv := do
  landWait c 6 (.word f.dst)
  landWait c 6 (.pred (fnPD f))
  xMod fun s =>
    let k := (getCtx s c).skein
    cardAdmit k 32 (updSk k (fun x => { x with cardHeld := x.cardHeld ++ [r] }) (updCtx c (fun x => { x with park := some (.carder enc x.flow) }) s))
  pure .seq

/-- The key cells and the UNSET traps (R536). -/
def xKeys (c : CtxId) (f : FX) : X (Cell × Cell) := do
  let a ← wRead c f.sa
  let b ← wRead c f.sb
  if !fnWA f then chkUnset a 0
  if !fnWB f then chkUnset b 1
  pure (a, b)

/-- A request of the issuing context. -/
def cReqOf (x : Ctx) (c : CtxId) (op : COp) (f : FX) (k : Cell × Cell) : CReq :=
  { ctx := c, gen := x.gen, hv := x.hv, hank := x.hank, lspin := x.lspin, op := op, k0 := k.1, k1 := k.2, wa := fnWA f, wb := fnWB f }

/-- CPROBE. -/
def execCprobe (h : Hd) (f : FX) (s : State) : Out := issueOut h (encX 0xF0 h f) (do
  let k ← xKeys h.ctx f
  let x ← xCtx h.ctx
  xCardSend h.ctx (encX 0xF0 h f) f (cReqOf x h.ctx .probe f k)) s

/-- CINS. -/
def execCins (h : Hd) (f : FX) (s : State) : Out := issueOut h (encX 0xF1 h f) (do
  let k ← xKeys h.ctx f
  let v ← wRead h.ctx f.dst
  let m ← wRead h.ctx (fnMREG f)
  if fnMREG f ≠ 0 ∧ (fixRaw (cTyp m) = false ∨ bits (cDat m).toNat 33 15 ≠ 0) then typeFault (cTyp m) 0
  let d : Datum := if fnMREG f = 0 then 0 else cDat m
  let x ← xCtx h.ctx
  xCardSend h.ctx (encX 0xF1 h f) f { cReqOf x h.ctx .ins f k with v := v, lock := d.getLsbD 32, user := d.extractLsb' 0 32 }) s

/-- CDEL. -/
def execCdel (h : Hd) (f : FX) (s : State) : Out := issueOut h (encX 0xF2 h f) (do
  let k ← xKeys h.ctx f
  let x ← xCtx h.ctx
  xCardSend h.ctx (encX 0xF2 h f) f (cReqOf x h.ctx .del f k)) s

/-- CSCAN: the block address is resolved at issue (R539). -/
def execCscan (h : Hd) (f : FX) (s : State) : Out := issueOut h (encX 0xF3 h f) (do
  let a ← xAdr h.ctx f.sa
  if vOff (cDat a) % 8 ≠ 0 then xFault 0x13 (cDat a)
  xMemOp h.ctx (encX 0xF3 h f) (.cscan a (fnWA f) (fnWB f) (fnPD f) f.dst)) s

/-! ## Accesses of a device unit for a context (R232, R541) -/

/-- Bring the line of a unit's access of a context's own skein to the skein cache. -/
def xUnit (c : CtxId) (pa : PAddr) (own : Bool) : X Unit := do
  let x ← xCtx c
  xUnitLine c x.skein pa own 1

/-- A store of the context performed by a unit: visible at once, through the store barrier. -/
def xUnitStore (c : CtxId) (va : VAddr) (pa : PAddr) (v : Cell) : X Unit := do
  xUnit c pa true
  let x ← xCtx c
  xCardRoom c x.skein (spaceTag x)
  xMod fun s => cardMark c x.skein (spaceTag x) pa va v (putCell (some c) pa v s)

/-- A read of a NORMAL cell by a unit. -/
def xUnitRead (c : CtxId) (va : VAddr) (pa : PAddr) : X Cell := do
  xUnit c pa false
  xRead c va pa

/-! ## CSCAN (R539 to R541) -/

/-- One entry of a scan: its record, if it matches and verifies. -/
def scanEntry (k : SkId) (o : BitVec 7) (k0 k1 : Cell) (wa wb : Bool) (i : Nat) (s : State) : Option CEnt × State :=
  let s := cKeys k i s
  if cMatch o k0 k1 wa wb (mapGet {} (getSk s k).card i) then cRead k i s else (none, s)

/-- Examine entries from a list until enough records are found: the records and the next entry number. -/
def scanGo (k : SkId) (o : BitVec 7) (k0 k1 : Cell) (wa wb : Bool) (mx : Nat) : List Nat → List CEnt → State → List CEnt × Nat × State
  | [], acc, s => (acc, 16384, s)
  | i :: is, acc, s =>
    if acc.length ≥ mx then (acc, i, s)
    else match scanEntry k o k0 k1 wa wb i s with
      | (some e, s) => scanGo k o k0 k1 wa wb mx is (acc ++ [e]) s
      | (none, s) => scanGo k o k0 k1 wa wb mx is acc s

/-- The scan. It waits for no earlier store (R543), but for those to the lines that it reads and writes (R448). -/
def xCscan (c : CtxId) (a : Cell) (wa wb : Bool) (pd : BitVec 3) (dst : BitVec 5) : X Adv := do
  let x ← xCtx c
  let va := cDat a
  let pa ← xlateNormal c x.level true va .rw
  let s ← get
  if sbBlocks s c [lineOf pa] then xWait
  let rd (i : Nat) : X Cell := xUnitRead c (vAddW va i) (paOf (pa.toNat + i))
  let k0 ← (if wa then pure nilCell else rd 0)
  let k1 ← (if wb then pure nilCell else rd 1)
  let b2 ← rd 2
  let b3 ← rd 3
  let n := (cDat b2).toNat
  let mx := bits n 16 15
  let cur := bits n 0 15
  if cTyp b2 ≠ tRAW ∨ bits n 31 17 ≠ 0 ∨ bitN n 15 = true ∨ mx = 0 ∨ mx > 4096 ∨ cur > 16384 then typeFault (cTyp b2) 0
  if (cTyp b3 ≠ tRAW ∧ cTyp b3 ≠ tLOC) ∨ vOff (cDat b3) % 4 ≠ 0 then typeFault (cTyp b3) 0
  let buf ← (upto mx).foldlM (fun (acc : List (VAddr × PAddr)) (i : Nat) => do
    let v ← xEa c (cDat b3) (4 * i) .write
    let p ← xlateNormal c x.level true v .write
    pure (acc ++ [(v, p)])) []
  let s ← get
  if sbBlocks s c (buf.map fun e => lineOf e.2) then xWait
  let o := ownerBits x.hv x.hank
  let r ← (fun s => let r := scanGo x.skein o k0 k1 wa wb mx ((upto 16384).drop cur) [] s; .ok (r.1, r.2.1) r.2.2 : X (List CEnt × Nat))
  (r.1.zip buf).forM fun e => do
    [e.1.k0, e.1.k1, e.1.val, e.1.meta_].zipIdx.forM fun q =>
      xUnitStore c (vAddW e.2.1 q.2) (paOf (e.2.2.toNat + q.2)) q.1
  xUnitStore c (vAddW va 2) (paOf (pa.toNat + 2)) (rawCell (dat (2 ^ 16 * mx + r.2)))
  landW c 6 dst (fixCell (dat r.1.length))
  landP c 6 pd (decide (r.2 = 16384))
  pure .seq

end Sys2Proof.Machine
end

