-- ==== Sys2Proof/Machine/Control.lean ====
section
/-! DEFINITION. Branches, calls, returns and LOOP (R203 to R227). -/

namespace Sys2Proof.Machine

/-- A code address displaced within its segment, or the limit fault: no access is made (R131). -/
def xCode (a : VAddr) (d : Int) : X VAddr :=
  match vAdd a d with
  | some t => pure t
  | none => xFault 0x50 (vAddW a d)

/-- The target of a B-format branch (R131). -/
def xBTarget (c : CtxId) (f : FB) : X VAddr := do
  let x ← xCtx c
  xCode x.flow.pc (dispInt f.disp)

/-- A call needs a return offset: the limit fault when its own offset is above 2^40 - 4 (R213), with the call's own address as INFO (DESIGN CHOICE:
R333 says "offending address"; where the target lies outside the segment it is the wrapped target). -/
def xCallRoom (c : CtxId) : X Unit := do
  let x ← xCtx c
  if vOff x.flow.pc > 2 ^ 40 - 4 then xFault 0x50 x.flow.pc

/-- The code address of JR and CALLR (R204). -/
def xCodeAdr (c : CtxId) (r : BitVec 5) : X VAddr := do
  let v ← xOne c r
  if cTyp v = tRAW ∨ cTyp v = tLOC then pure (cDat v)
  else if cTyp v = tCODE then xCode (cDat v) 1
  else typeFault (cTyp v) 0

/-- BR (R206). -/
def execBr (h : Hd) (f : FB) (s : State) : Out := issueOut h (encB 0x20 h f) (do
  let t ← xBTarget h.ctx f
  pure (.branch t true)) s

/-- CALL (R213). -/
def execCall (h : Hd) (f : FB) (s : State) : Out := issueOut h (encB 0x21 h f) (do
  xCallRoom h.ctx
  let t ← xBTarget h.ctx f
  let sp ← wRead h.ctx 31
  xMemOp h.ctx (encB 0x21 h f) (.call t sp)) s

/-- JR (R204). -/
def execJr (h : Hd) (f : FA) (s : State) : Out := issueOut h (encA 0x22 0x00 h f) (do
  let t ← xCodeAdr h.ctx f.sa
  pure (.branch t true)) s

/-- CALLR (R204, R213). -/
def execCallr (h : Hd) (f : FA) (s : State) : Out := issueOut h (encA 0x22 0x01 h f) (do
  xCallRoom h.ctx
  let t ← xCodeAdr h.ctx f.sa
  let sp ← wRead h.ctx 31
  xMemOp h.ctx (encA 0x22 0x01 h f) (.call t sp)) s

/-- RET (R216). -/
def execRet (h : Hd) (f : FA) (s : State) : Out := issueOut h (encA 0x22 0x02 h f) (do
  let sp ← wRead h.ctx 31
  xMemOp h.ctx (encA 0x22 0x02 h f) (.ret sp)) s

/-- TCALL (R204, R219): SB is the new stack pointer unless it is w0. -/
def execTcall (h : Hd) (f : FA) (s : State) : Out := issueOut h (encA 0x22 0x03 h f) (do
  let c := h.ctx
  let t ← wRead c f.sa
  let sp ← wRead c (if f.sb = 0 then 31 else f.sb)
  let tb : BitVec 6 := if f.sb = 0 then 0 else cTyp sp
  chkUnset t 0
  if f.sb ≠ 0 then chkUnset sp 1
  if badCell t || (decide (f.sb ≠ 0) && badCell sp) then typeFault (cTyp t) tb
  if cTyp t = tINST ∨ cTyp t = tEXTP then dispTrap 0 (cTyp t) tb
  if !([tRAW, tLOC, tCODE, tFUNC].contains (cTyp t)) then typeFault (cTyp t) tb
  if f.sb ≠ 0 ∧ cTyp sp ≠ tLOC ∧ cTyp sp ≠ tRAW then typeFault (cTyp t) tb
  xMemOp c (encA 0x22 0x03 h f) (.tcall t sp (decide (f.sb ≠ 0)))) s

/-- FCALL (R204, R205, R213). w31 is read at the slot, and verified once the target is resolved. -/
def execFcall (h : Hd) (f : FA) (s : State) : Out := issueOut h (encA 0x22 0x04 h f) (do
  xCallRoom h.ctx
  let v ← xOne h.ctx f.sa
  if cTyp v = tINST ∨ cTyp v = tEXTP then dispTrap 0 (cTyp v) 0
  if cTyp v ≠ tFUNC then typeFault (cTyp v) 0
  let x ← xCtx h.ctx
  xMemOp h.ctx (encA 0x22 0x04 h f) (.fcall v (wGet x 31))) s

/-- A loop register that LOOP writes: an address past the segment's last offset is a free value. -/
def xLoopAdr (pc : VAddr) (d : Nat) : X Datum :=
  match vAdd pc d with
  | some a => pure a
  | none => fun s => .ok (dat (freshNat s).1) (freshNat s).2

/-- LOOP (R224): the loop registers change at once; a count of 0 skips the body. -/
def execLoop (h : Hd) (f : FL) (s : State) : Out := issueOut h (encL h f) (do
  let c := h.ctx
  let n ← (if f.cnt = 0 then pure (f.icnt.setWidth 48) else do
    let v ← wRead c f.cnt
    chkUnset v 0
    if cTyp v ≠ tFIX then typeFault (cTyp v) 0
    if (cDat v).toInt < 0 then xFault 0x15 (cDat v)
    pure (cDat v))
  let x ← xCtx c
  if x.flow.lpCnt ≠ 0 then xFault 0x32 x.flow.lpStart
  let a ← xLoopAdr x.flow.pc 1
  let e ← xLoopAdr x.flow.pc f.len.toNat
  xMod (updCtx c fun x => { x with flow := { x.flow with lpStart := a, lpEnd := e, lpCnt := n } })
  pure (if n = 0 then .jump (f.len.toNat + 1) else .seq)) s

end Sys2Proof.Machine
end

