-- ==== Sys2Proof/Machine/Link.lean ====
section
/-! DEFINITION. The device's own requests on the host link: window translation, dead targets, dirty marks, MSI-X (R464 to R466, R476 to
R480, R567, R573, R581 to R587). -/

namespace Sys2Proof.Machine

/-- Change the host-link port. -/
def updHost (f : HostIf → HostIf) (s : State) : State := { s with host := f s.host }

/-- The link can carry nothing: not in DL_Active, PERST_N asserted, or Bus Master Enable 0 (R476, R583, R584). -/
def linkDead (s : State) : Bool := decide (s.host.link = .down) || s.host.perst || !s.host.bme

/-- The link carries requests now. -/
def linkUp (s : State) : Bool := decide (s.host.link = .active) && !s.host.perst && s.host.bme

/-- The host-window entry of a slice (R585). -/
def hostWin (s : State) (k : Nat) : HostWin := mapGet {} s.host.wins k

/-- The bus address of a HOST cell (R586); none when its entry counts as disabled. -/
def busAddr (s : State) (a : PAddr) : Option (BitVec 64) :=
  let h := a.toNat - 0x8000000000
  let w := hostWin s (h / 2 ^ 32)
  let u := h % 2 ^ 32
  let sum := 4096 * w.base.toNat + 8 * u
  if w.en ∧ u < 512 * w.limit.toNat ∧ sum ≤ 2 ^ 64 - 8 then some (BitVec.ofNat 64 sum) else none

/-- Send a message on the link. -/
def linkSend (m : LinkMsg) (s : State) : State := updHost (fun h => { h with out := h.out ++ [m] }) s

/-- Log a device write to a host page for a hank (R573, R574): a page not marked since the last SYNC is marked after the write. -/
def dirtyMark (h : BitVec 6) (a : BitVec 64) (s : State) : State :=
  let k := getHank s h
  if !k.dlen then s
  else
    let lo := k.dllo.toNat
    let page := (a.toNat - lo) / 4096
    if a.toNat < lo ∨ page ≥ k.dlpages.toNat then
      updHank h (fun k => { k with out := true, dlmiss := min (2 ^ 32 - 1) (k.dlmiss + 1) }) s
    else if page ∈ k.marked then s
    else linkSend (.byte (k.dlmap + BitVec.ofNat 64 page) 1) (updHank h (fun k => { k with marked := k.marked ++ [page] }) s)

/-- The logged page of a bus address (R573); none outside the logged range. -/
def linkPage (h : BitVec 6) (a : BitVec 64) (s : State) : Option Nat :=
  let k := getHank s h
  let lo := k.dllo.toNat
  if a.toNat < lo ∨ (a.toNat - lo) / 4096 ≥ k.dlpages.toNat then none else some ((a.toNat - lo) / 4096)

/-- Send a write of 8-byte words, logged for a hank when one is named (R573). -/
def linkWrite (h : Option (BitVec 6)) (a : BitVec 64) (ws : List (BitVec 64)) (poison ro ns : Bool) (s : State) : State :=
  let s := linkSend (.write a ws poison ro ns) s
  match h with
  | some h =>
    let s := updHank h (fun k => { k with sent := some a }) s
    let z := a + BitVec.ofNat 64 (8 * (ws.length - 1))
    if linkPage h z s = linkPage h a s then dirtyMark h a s else dirtyMark h z (dirtyMark h a s)
  | none => s

/-- A HOST store leaves the store buffer (R445, R465, R477): sent, or discarded on a dead target. One of a context that is gone is logged for the hank
of its number (R573). -/
def hostStore (c : CtxId) (pa : PAddr) (v : Cell) (first : Bool) (s : State) : State :=
  let x := getCtx s c
  let q := ctxSp x
  let m := (getSp s q).moctl
  let s := fabric (skSector x.skein) hostSector s
  let drop := logEvent 0x17 3 37 0 (some c) (some pa.toNat) 0 (moNote q c 1 s)
  if linkDead s then drop
  else match busAddr s pa with
    | none => drop
    | some a =>
      let h : Option (BitVec 6) := if x.st = .free then hankOfNum s c else if x.hv then some x.hank else none
      updCtx c (fun x => { x with hostLast := some pa }) (linkWrite h a [v] false (!first && m.getLsbD 1) (m.getLsbD 0) s)

/-- The words of an MSI-X vector: address, and data with the vector control; the mask bit is 1 at reset. -/
def msixWord (h : HostIf) (i : Nat) : BitVec 64 := mapGet 0 h.msix i ^^^ (if i % 2 = 1 then 0x100000000 else 0)

/-- Raise an MSI-X vector: sent, or held pending while masked. Nothing is sent while MSI-X or the link is off (R584). -/
def msixRaise (v : Nat) (s : State) : State :=
  let h := s.host
  if !h.msixEn || !linkUp s then s
  else if h.msixMask || (msixWord h (2 * v + 1)).getLsbD 32 then updHost (fun h => { h with pba := mapSet false h.pba v true }) s
  else linkSend (.msix (msixWord h (2 * v)) ((msixWord h (2 * v + 1)).extractLsb' 0 32)) s

/-- Pending vectors that are no longer masked are sent. -/
def msixFlush (s : State) : State :=
  s.host.pba.foldl (fun s e =>
    if s.host.msixEn && linkUp s && !s.host.msixMask && !(msixWord s.host (2 * e.1 + 1)).getLsbD 32 then
      msixRaise e.1 (updHost (fun h => { h with pba := mapSet false h.pba e.1 false }) s)
    else s) s

/-- A host memory request to BAR0 or BAR4 (R643, R650, R722): performed in the modes that serve it; in SLEEP counted, and it starts
the exit. `ans` is what a request that is not served returns. -/
def hostDo (ans : HostAns) (f : State → State) (s : State) : State :=
  if s.host.link ≠ .active ∨ s.host.perst ∨ s.host.d3 then s
  else match s.mode with
    | .bringup => updHost (fun h => { h with ans := ans }) s
    | .sleep => updHost (fun h => { h with ans := ans })
        (updM (fun m => { m with sleepBar := if m.sleepBar = 0xFFFFFFFF then m.sleepBar else m.sleepBar + 1, exiting := true }) s)
    | _ => f s

/-- A host write to BAR0 or BAR4. -/
def hostWr (f : State → State) (s : State) : State := hostDo s.host.ans f s

/-- The largest payload of a write in 8-byte words, and the largest read in cells: 128 bytes × 2^n, at most 512 and 4,096 bytes (R576). -/
def maxWrite (s : State) : Nat := 16 * 2 ^ min 2 s.host.mps.toNat
def maxRead (s : State) : Nat := 16 * 2 ^ min 5 s.host.mrrs.toNat

/-- 768 non-posted requests are outstanding, the most the link carries (R576): the loads and flush reads of contexts and of hanks. -/
def tagsFull (s : State) : Bool :=
  decide (768 ≤ (s.ctxs.filter fun c => c.2.hostSent).length +
    (s.hanks.filter fun h => (match h.2.flush with
      | .out _ => true
      | _ => false)).length)

/-- The completion timeout in force, in ns (R582). -/
def ctoNs (v : BitVec 4) : Nat :=
  match v.toNat with
  | 1 => 90000
  | 2 => 9000000
  | 5 => 50000000
  | 6 => 200000000
  | 9 => 850000000
  | 10 => 3200000000
  | _ => 40000000

end Sys2Proof.Machine
end

