-- ==== Sys2Proof/Machine/Reel.lean ====
section
/-! DEFINITION. The reels: submission, status, evacuation of granules, completion (R509 to R514), and the issue of extension
instructions (R140). -/

namespace Sys2Proof.Machine

/-! ## Descriptors (R510) -/

def rdAny (d : ReelDesc) : Bool := d.rd0.getLsbD 43
def rdFwdm (d : ReelDesc) : Bool := d.rd0.getLsbD 42
def rdNtfy (d : ReelDesc) : Bool := d.rd0.getLsbD 41
def rdCount (d : ReelDesc) : Nat := bits d.rd2.toNat 22 22
def rdFirst (d : ReelDesc) : Nat := bits d.rd2.toNat 0 21

/-- A descriptor is malformed: `cs` are its cells RD0 to RD6. -/
def rdBad (b : ColBlock) (cs : List Cell) : Bool :=
  let d (i : Nat) : Nat := (cDat (cs.getD i 0)).toNat
  let first := bits (d 2) 0 21
  let count := bits (d 2) 22 22
  !(cs.all fun v => decide (cTyp v = tRAW)) || decide (bits (d 0) 44 4 ≠ 1) || decide (bits (d 0) 37 4 ≠ 0) || decide (bits (d 0) 0 32 ≠ 0) ||
    (heapRegion b (cDat (cs.getD 1 0))).isNone || decide (vOff (cDat (cs.getD 1 0)) % 2 ^ cbRsh b ≠ 0) || decide (bits (d 2) 44 4 ≠ 0) ||
    bitN (d 2) 21 || decide (count = 0) || decide (first + count > 2 ^ (cbRsh b - cbGsh b)) || decide (d 4 ≠ 0) || decide (d 5 ≠ 0) ||
    decide (d 6 ≠ 0)

/-- Granules that a skein's reel queue holds (R514). -/
def queueGranules (k : Skein) : Nat := (k.reelQ.map rdCount).foldl (· + ·) 0

/-- The skein with the fewest queued granules, the lowest among equals (R514). -/
def fewestSkein (s : State) : SkId :=
  BitVec.ofNat 5 ((upto 32).foldl (fun b k =>
    if queueGranules (getSk s (BitVec.ofNat 5 k)) < queueGranules (getSk s (BitVec.ofNat 5 b)) then k else b) 0)

/-- The descriptors that a reel works on. -/
def reelActive (k : Skein) : List ReelDesc := (k.reels.map fun e => e.2).flatten

/-- Descriptors of a hank in a skein, queued or running. -/
def hankDescs (k : Skein) (h : BitVec 6) : Nat := ((k.reelQ ++ reelActive k).filter fun d => d.hv && decide (d.hank = h)).length

/-! ## RSUB (R509) -/

/-- RSUB at its result: the reason of a rejection, or the ticket. -/
def xRsub (c : CtxId) (a : Cell) (pd : BitVec 3) (dst : BitVec 5) : X Adv := do
  let x ← xCtx c
  let va := cDat a
  let pa ← xlateNormal c x.level true va .rw
  let s ← get
  if sbBlocks s c [lineOf pa] then xWait
  let cs ← (upto 7).mapM fun (i : Nat) => xUnitRead c (vAddW va i) (paOf (pa.toNat + i))
  let s ← get
  let b := blockOf s c
  let reject (n : Nat) : X Adv := do
    landW c 6 dst (fixCell (dat n))
    landP c 6 pd false
    pure .seq
  if !cbEn b then reject 4
  else if rdBad b cs then reject 2
  else do
    let region := cDat (cs.getD 1 0)
    let e ← xRegion c x.skein 1 b (spaceTag x) ((heapRegion b region).getD 0)
    if !evacuating b e then reject 3
    else do
      let s ← get
      let rd0 := cDat (cs.getD 0 0)
      let k : SkId := if rd0.getLsbD 43 then fewestSkein s else rd0.extractLsb' 32 5
      xMod (bit2Reach x.skein k)
      let y := getSk s k
      if y.reelQ.length ≥ 32 ∨ (x.hv = true ∧ hankDescs y x.hank ≥ (getHank s x.hank).cur.reelq.toNat) then reject 1
      else do
        let d : ReelDesc :=
          { ticket := y.reelSeq, pa := pa, ctx := c, gen := x.gen, tag := spaceTag x, hv := x.hv, hank := x.hank, space := axGet x 28
            pkr := axGet x 29, hpt := axGet x 31, rd0 := rd0, rd1 := region, rd2 := cDat (cs.getD 2 0), rd3 := cDat (cs.getD 3 0)
            next := 0, copied := 0 }
        xUnitStore c (vAddW va 7) (paOf (pa.toNat + 7)) (rawCell 0)
        xMod (updSk k fun y => { y with reelQ := y.reelQ ++ [d], reelSeq := y.reelSeq + 1, reelDone := mapDel y.reelSeq.toNat y.reelDone })
        landW c 6 dst (fixCell (dat (2 ^ 16 * k.toNat + d.ticket.toNat)))
        landP c 6 pd true
        pure .seq

/-- RSUB: the address is resolved at issue. -/
def execRsub (h : Hd) (f : FX) (s : State) : Out := issueOut h (encX 0xF4 h f) (do
  let a ← xOne h.ctx f.sa
  if cTyp a ≠ tRAW ∧ cTyp a ≠ tLOC then typeFault (cTyp a) 0
  if vOff (cDat a) % 8 ≠ 0 then xFault 0x13 (cDat a)
  xMemOp h.ctx (encX 0xF4 h f) (.rsub a (fnPD f) f.dst)) s

/-! ## RSTAT (R513) -/

/-- What RSTAT answers for a ticket: the cell and the predicate. -/
def rstatOf (s : State) (t : Datum) : Cell × Bool :=
  let k := getSk s (t.extractLsb' 16 5)
  let q : BitVec 16 := t.extractLsb' 0 16
  if t.toNat ≥ 2 ^ 21 then (fixInt (-1), true)
  else if (k.reelQ ++ reelActive k).any (fun d => d.ticket = q) then (rawCell 0, false)
  else match k.reelDone.find? fun e => e.1 = q.toNat with
    | some e => (e.2, true)
    | none => (fixInt (-1), true)

/-- RSTAT at its result. -/
def xRstat (c : CtxId) (t : Cell) (pd : BitVec 3) (dst : BitVec 5) : X Adv := do
  let x ← xCtx c
  let s ← get
  let r := rstatOf s (cDat t)
  xMod (bit2Reach x.skein ((cDat t).extractLsb' 16 5))
  landW c 6 dst r.1
  landP c 6 pd r.2
  pure .seq

/-- RSTAT. -/
def execRstat (h : Hd) (f : FX) (s : State) : Out := issueOut h (encX 0xF5 h f) (do
  let a ← xOne h.ctx f.sa
  if cTyp a ≠ tFIX then typeFault (cTyp a) 0
  xMemOp h.ctx (encX 0xF5 h f) (.rstat a (fnPD f) f.dst)) s

/-! ## Evacuation (R511, R512) -/

/-- Run an access of a reel with the space, keys, page table and hank of the submitting context (R511). The context's own registers
and its XLSTAT are put back. -/
def asSubmitter {α : Type} (d : ReelDesc) (m : X α) : X α := fun s =>
  let x := getCtx s d.ctx
  let put (y : Ctx) (sp pk xl hp : Datum) (hv : Bool) (h : BitVec 6) : Ctx :=
    { axPut (axPut (axPut (axPut y 28 sp) 29 pk) 30 xl) 31 hp with hv := hv, hank := h }
  let back (s : State) : State := updCtx d.ctx (fun y => put y (axGet x 28) (axGet x 29) (axGet x 30) (axGet x 31) x.hv x.hank) s
  match m (updCtx d.ctx (fun y => put y d.space d.pkr (axGet x 30) d.hpt d.hv d.hank) s) with
  | .ok a s => .ok a (back s)
  | .error e s => .error e (back s)

/-- Run an access of a reel. One that must wait leaves only its requests to the caches, and the reel tries again; a fault stops the descriptor. -/
def reelTry {α : Type} (d : ReelDesc) (m : X α) (fail : State → State) (go : α → State → State) (s : State) : State :=
  match asSubmitter d m s with
  | .error .wait t => keepLines s t
  | .error _ t => fail t
  | .ok a t => go a t

/-- An access of a reel to a line through the skein cache of its skein, under the way mask of the descriptor's hank (R409, R417, R418). -/
def reelTouch (k : SkId) (d : ReelDesc) (a : PAddr) (own : Bool) (age : BitVec 2) (s : State) : State :=
  unitTouch k (wayMaskFor (getSk s k) (getHank s d.hank).cur.waymask d.hv) (lineOf a) own age s

/-- The NOTIFY bit is set as BSET sets it (R512). A tier-3 BITREF is resolved with the descriptors of the submitting context's
spindle; a bit that cannot be reached is not set. -/
def reelNotify (k : SkId) (d : ReelDesc) (s : State) : State :=
  let bad : Bool := badBitref d.rd3
  if !rdNtfy d || bad then s
  else if brTier d.rd3 = 1 then
    let b : BitVec 16 := d.rd3.extractLsb' 0 16
    if !d.hv || (let g := (getHank s d.hank).cur
        decide (g.bitlo.toNat ≤ b.toNat ∧ b.toNat ≤ g.bithi.toNat)) then
      bit2Put (brSkein d.rd3 (spOf s d.ctx)) b true (bit2Reach k (brSkein d.rd3 (spOf s d.ctx)) s)
    else s
  else if brTier d.rd3 = 2 then
    let p := getSp s (spOf s d.ctx)
    let n := bits d.rd3.toNat 41 4
    let idx := bits d.rd3.toNat 0 41
    let lim : Datum := mapGet 0 p.bsegLim n
    if !lim.getLsbD 47 ∨ idx ≥ bits lim.toNat 0 41 then s
    else match vAdd (mapGet 0 p.bsegBase n) (idx / 48 : Nat) with
      | none => s
      | some va => match asSubmitter d (xNow (xlateNormal d.ctx 1 true va .write) 8) s with
        | .ok pa s => bit3Put d.ctx pa (idx % 48) true (reelTouch k d pa true 1 s)
        | .error _ s => s
  else s

/-- A descriptor finishes: RD7 is stored and kept for RSTAT, and the bit is set (R512). -/
def reelFinish (k : SkId) (d : ReelDesc) (result : Nat) (s : State) : State :=
  let rd7 : Cell := rawCell (dat (2 ^ 47 + 2 ^ 44 * result + 2 ^ 22 * d.copied + (rdFirst d + d.next) % 2 ^ 22))
  let s := putCell (some d.ctx) (paOf (d.pa.toNat + 7)) rd7 (reelTouch k d (paOf (d.pa.toNat + 7)) true 1 s)
  reelNotify k d (updSk k (fun y => { y with reelDone := mapIns d.ticket.toNat rd7 (mapDel d.ticket.toNat y.reelDone) }) s)

/-- Store a reel's descriptor, or free the reel. -/
def setReel (k : SkId) (r : Nat) (d : Option ReelDesc) (s : State) : State :=
  updSk k (fun y => { y with reels := mapSet [] y.reels r (match d with
    | some d => [d]
    | none => []) }) s

/-- The party of a descriptor in the rotation of R514. -/
def rdParty (d : ReelDesc) : Nat := if d.hv then 1 + d.hank.toNat else 0

/-- The next descriptor of a skein's queue: parties in rotation after the one last served, each in its order. -/
def reelNext (k : Skein) : Option ReelDesc :=
  let dist (d : ReelDesc) : Nat := (rdParty d + 65 - k.reelLast - 1) % 65
  k.reelQ.foldl (fun b d => match b with
    | none => some d
    | some e => if dist d < dist e then some d else b) none

/-- A reel takes its next descriptor. -/
def reelTake (k : SkId) (r : Nat) (s : State) : State :=
  match reelNext (getSk s k) with
  | none => s
  | some d => setReel k r (some d) (updSk k (fun y => { y with reelQ := y.reelQ.filter (fun e => e ≠ d), reelLast := rdParty d }) s)

/-- A reel stops its descriptor with a RESULT. -/
def reelStop (k : SkId) (r : Nat) (d : ReelDesc) (n : Nat) (s : State) : State := reelFinish k d n (setReel k r none s)

/-- The next granule of a descriptor, in order: its state, its addresses before the claim, and the claim, a write that succeeds only while the entry
is pending (R491, R495, R511, R512). -/
def reelStep (k : SkId) (r : Nat) (d : ReelDesc) (s : State) : State :=
  let b := blockAt s k d.tag
  if d.next ≥ rdCount d then reelStop k r d 0 s
  else match heapRegion b d.rd1 with
    | none => reelStop k r d 4 s
    | some rg => reelTry d (xRegion d.ctx k 3 b d.tag rg) (reelStop k r d 1) (fun e s =>
      if !evacuating b e then reelStop k r d 4 s
      else
        let g := rdFirst d + d.next
        let entP := paOf (reRtb e + g)
        reelTry d (xTable d.ctx k 3 entP) (reelStop k r d 1) (fun t s =>
          if rlSt t ≠ 1 then setReel k r (some { d with next := d.next + 1 }) s
          else if rlBad b t then reelStop k r d 1 s
          else
            let src := vAddW d.rd1 (g * 2 ^ cbGsh b : Nat)
            reelTry d (do
              let sp ← xlateNormal d.ctx 1 true src .read
              let dp ← xlateNormal d.ctx 1 true (rlDest t) .write
              pure (sp, dp)) (reelStop k r d 3) (fun p s =>
            reelTry d (xUnitLine d.ctx k entP true 1) (reelStop k r d 1) (fun _ s =>
              setReel k r (some { d with claim := some { ent := entP, src := src, srcP := p.1, dstP := p.2 } })
                (putCell (some d.ctx) entP (rawCell (rlWith t 2)) s)) s) s) s) s

/-- The copy of a claimed granule (R495, R511), with the addresses translated before the claim. The entry is read again, verified (R42). The card rule
acts for the submitting context (R504), and the FWD cell follows the copy. -/
def reelCopy (k : SkId) (r : Nat) (d : ReelDesc) (cl : Claim) (s : State) : State :=
  let n := 2 ^ cbGsh (blockAt s k d.tag)
  let give (q : Nat) (s : State) : State := reelStop k r d q (releaseClaim k d.hv d.hank (some cl) s)
  reelTry d (xTable d.ctx k 3 cl.ent) (give 1) (fun t s =>
  reelTry d (do
      xGranule d.ctx k 3 n cl.srcP cl.dstP cl.ent
      if rdFwdm d then xUnitLine d.ctx k cl.srcP true 3
      fun s => .ok () s) (give 1) (fun _ s =>
  reelTry d (fun s =>
      let z := copyGranule d.ctx k (160 + r) (fun _ => cardNow d.ctx k d.tag) n cl.src cl.srcP t cl.dstP cl.ent s
      .ok z.1 z.2) (give 1) (fun bad s =>
    match bad with
    | some _ => reelStop k r { d with claim := none, next := d.next + 1 } 2 s
    | none =>
      let s := if rdFwdm d then putCell (some d.ctx) cl.srcP (mkCell 3 tFWD (rlDest t)) s else s
      setReel k r (some { d with claim := none, next := d.next + 1, copied := d.copied + 1 }) s) s) s) s

/-- One step of a reel: take a descriptor, claim a granule, or copy the claimed one. Outside RUN and DROWSE a reel only completes
its claim (R645). -/
def reelRun (k : SkId) (r : Nat) (s : State) : State :=
  match mapGet [] (getSk s k).reels r with
  | d :: _ => match d.claim with
    | some p => reelCopy k r d p s
    | none => if issuing s then reelStep k r d s else s
  | [] => if issuing s then reelTake k r s else s

/-! ## EXTn (R140) -/

/-- EXTn: the context parks for the reply; the message is sent once its stores are visible. -/
def execExtn (h : Hd) (n : BitVec 3) (f : FX) (s : State) : Out :=
  let enc := encX ((0xF8 : BitVec 8) + n.setWidth 8) h f
  issueOut h enc (do
    let a ← wRead h.ctx f.sa
    let b ← wRead h.ctx f.sb
    xMemOp h.ctx enc (.extn n a b f.func f.dst)) s

/-! ## Memory phases, complete -/

/-- The memory phase of any instruction when its result arrives. -/
def memArrive (c : CtxId) (enc : BitVec 48) (op : MemOp) : X Adv :=
  match op with
  | .rsub a pd d => xRsub c a pd d
  | .rstat t pd d => xRstat c t pd d
  | .cscan a wa wb pd d => xCscan c a wa wb pd d
  | _ => memBasic c true enc op

end Sys2Proof.Machine
end

