-- ==== Sys2Proof/Machine/Park.lean ====
section
/-! DEFINITION. The result of a parked memory phase, the entries a parked store waits for, HOST completions (R101, R265, R276, R346,
R453, R476, R477). -/

namespace Sys2Proof.Machine

/-! ## Waits that begin after a park -/

/-- A wait registered by a parked instruction begins (R292), and is sampled (R294). A SUSPENDED context resumes to it, unless the sample or an
event since is recorded for it (R266); a MOVING one has it after the move (R269). -/
def waitAfterPark (c : CtxId) (s : State) : State :=
  let x := getCtx s c
  if fpPending x then resumeParked c (updCtx c (fun x => { x with wait := none, fpDue := true }) s)
  else if x.st = .suspended ∨ (x.st = .moving ∧ x.movedFrom = .suspended) then
    waitSample c (updCtx c (fun x => { x with suspFrom := .waiting }) s)
  else if x.st = .moving then waitSample c (updCtx c (fun x => { x with movedFrom := .waiting }) s)
  else beginWait c (updCtx c (fun x => { x with res := none, resHold := false }) s)

/-! ## Memory phases -/

/-- A fault of a memory phase: DISPINFO (R154), and the fault at the instruction (R346). -/
def memFault (c : CtxId) (enc : BitVec 48) (back : Flow) (e : Exc) (s : State) : State :=
  let s := match e.disp with
    | some d => setDisp c enc d s
    | none => s
  parkFault c back e (updCtx c (fun x => { x with ioVals := [], ioIdx := 0, hostReq := none, hostSent := false }) s)

/-- Perform the memory phase of a parked context with every access it can now make: its result, its fault, or a longer wait. -/
def runPark (c : CtxId) (s : State) : State :=
  let x := getCtx s c
  match x.park with
  | some (.mem op enc back) =>
    if x.hostReq.isSome ∨ twBusy s c then s
    else
      let s0 := updCtx c (fun y => { y with ioIdx := 0, park := none, flow := back, land := y.land.filter fun l => l.arrived }) s
      match memArrive c enc op s0 with
      | .ok a s =>
        let s := updCtx c (fun y => { y with ioVals := [], ioIdx := 0 }) (advance c a s)
        if (getCtx s c).park.isSome then s
        else
          let s := if (getCtx s c).wait.isSome then waitAfterPark c s else s
          if (getCtx s c).wait.isSome then s else resumeParked c s
      | .error (.exc e) s => memFault c enc back e s
      | .error _ s => updCtx c (fun y => { y with park := x.park, flow := x.flow, land := x.land }) s
  | _ => s

/-! ## HOST loads (R444, R464, R476, R477) -/

/-- The context parks for an FBAR's flush read. -/
def parksForFbar (x : Ctx) : Bool :=
  match x.park with
  | some (.mem .fbar _ _) => true
  | _ => false

/-- A HOST request has brought a value: it serves when the memory phase is performed again, or the routine that asked. -/
def hostValue (c : CtxId) (v : Cell) (s : State) : State :=
  updCtx c (fun x => { x with hostReq := none, hostSent := false, ioVals := x.ioVals ++ (match x.hostReq with
    | some (va, pa) => [{ va := va, pa := pa, mt := 2, v := v }]
    | none => []) }) s

/-- A HOST request ends at a dead target (R477): UNSET, or the end of the flush read. -/
def hostDead (c : CtxId) (s : State) : State :=
  let x := getCtx s c
  let fl := parksForFbar x
  let s := moNote (ctxSp x) c (if fl then 0 else 2) s
  hostValue c unsetCell (logEvent (if fl then 0x19 else 0x18) (if fl then 4 else 3) 37 0 (some c) none 0 s)

/-- Send a HOST request that has not left (R464 to R466): it ends at once on a dead target, and is held while the link is in Recovery
(R476) or every tag is in use (R576). Answers true when it has ended. -/
def hostIssue (c : CtxId) (s : State) : Bool × State :=
  let x := getCtx s c
  match x.hostReq with
  | none => (false, s)
  | some (_, pa) =>
    if x.hostSent then (false, s)
    else if linkDead s then (true, hostDead c s)
    else match busAddr s pa with
      | none => (true, hostDead c s)
      | some a =>
        if !linkUp s || tagsFull s then (false, s)
        else
          let fl := parksForFbar x
          let ns := !fl && ((getSp s (ctxSp x)).moctl).getLsbD 0
          (false, linkSend (.read a (if fl then 0 else 1) ns) (fabric (skSector x.skein) hostSector (updCtx c (fun x =>
            { x with hostSent := true, hostDue := s.m.clock + ctoNs s.host.cto }) s)))

/-- Perform a parked memory phase as far as it goes: requests to dead targets end at once. No instruction makes more than 16 accesses
of this kind. -/
def pumpPark (c : CtxId) : Nat → State → State
  | 0, s => s
  | n + 1, s =>
    match hostIssue c (runPark c s) with
    | (true, s) => pumpPark c n s
    | (false, s) => s

/-- Perform a parked memory phase, or the entry of an exception whose frame has come (R339); in SLEEP nothing is performed (R647). -/
def parkRun (c : CtxId) (s : State) : State :=
  if s.mode = .sleep then s
  else match (getCtx s c).park with
    | some (.frame _ _ _ _) => frameResume c s
    | _ => pumpPark c 16 s

/-- PARKING_RESULT: the accesses of a parked memory phase are served, or the lines of a frame have come (R276, R339). -/
def execParkingResult (c : CtxId) (s : State) : Out := .next (parkRun c s)

/-- STORE_BUFFER_ENTRY_FREE: a parked store takes the entries that are free; with the last of them its context becomes eligible
(R453). A SPILL that waited repeats no slot (R201). -/
def execStoreBufferEntryFree (c : CtxId) (s : State) : Out := .next (
  match (getCtx s c).park with
  | some (.stores es) =>
    let r := sbPutAll c es s
    if r.1.isEmpty then (match tripOf (getCtx s c).skein es with
      | some t => updCtx c (fun x => { x with park := some (.bitTrip t.1 t.2) }) r.2
      | none => resumeParked c r.2)
    else updCtx c (fun x => { x with park := some (.stores r.1) }) r.2
  | _ => s)

/-- A write of a tier-2 bit of another skein has become visible: its context, which has waited for it, resumes (R101, R110). -/
def bitArrive (c : CtxId) (s : State) : State :=
  match (getCtx s c).park with
  | some (.bitTrip k b) =>
    if (getSp s (spOf s c)).sb.any fun e => decide (e.ctx = c) && (match e.kind with
        | .bit2 k' b' _ => decide (k' = k ∧ b' = b)
        | _ => false) then s
    else resumeParked c s
  | _ => s

/-! ## Held fills (R421, R443) -/

/-- A request that has waited for a fill gets its line: a load is performed, a prefetch has its copy. The others are tried again. -/
def askDone (ln : Nat) (s : State) (a : Asker) : State :=
  match a with
  | .load c q => parkRun c (l1Fill q ln false s)
  | .pref q | .stream q true => l1Fill q ln false s
  | _ => s

/-- A held fill is installed and delivered, its victim accepted (R421). -/
def fillLand (k : SkId) (h : HeldFill) (s : State) : State := h.asks.foldl (askDone h.ln) (heldInstall k h s)

/-- An access from outside the skeins comes behind the fills of its line that are held for their victims: these are installed and delivered first
(R443). -/
def fillsFirst (ln : Nat) (s : State) : State :=
  s.skeins.foldl (fun s e => (e.2.held.filter fun h => h.ln = ln).foldl (fun s h => fillLand (BitVec.ofNat 5 e.1) h (wqRoom h.victim s)) s) s

/-- An access of the host, and one of the distaff, in the coherence order of the line (R410, R443). -/
def hostReach (ln : Nat) (write : Bool) (s : State) : State := hostTouch ln write (fillsFirst ln s)
def distaffReach (ln : Nat) (write : Bool) (s : State) : State := distaffTouch ln write (fillsFirst ln s)

/-- Requests held during Recovery leave, or end when the link has failed (R476). -/
def hostResume (s : State) : State :=
  s.ctxs.foldl (fun s e =>
    if e.2.hostReq.isNone then s
    else
      let c := BitVec.ofNat 16 e.1
      match (if linkDead s then (true, hostDead c s) else hostIssue c s) with
      | (true, s) => parkRun c s
      | (false, s) => s) s

/-- A HOST load that a completion gives no value: the cell check fault at the load. A flush read has none to take. -/
def hostBad (c : CtxId) (va : VAddr) (s : State) : State :=
  match (getCtx s c).park with
  | some (.mem .fbar _ _) => parkRun c (hostValue c unsetCell s)
  | some (.mem _ enc back) => memFault c enc back { code := 0x01, info := va } s
  | some (.twist back) => memFault c 0 back { code := 0x01, info := va } (twAbandon c s)
  | _ => s

/-- A HOST load whose completion is poisoned. -/
def hostPoisoned (c : CtxId) (va : VAddr) (s : State) : State :=
  hostBad c va (logEvent 0x18 3 37 0 (some c) none 0 (moNote (ctxSp (getCtx s c)) c 2 s))

/-- A HOST request has ended: one that waits for its tag leaves. -/
def hostNext (s : State) : State :=
  if s.ctxs.any fun e => e.2.hostReq.isSome && !e.2.hostSent then hostResume s else s

/-- What the completion of a HOST request brings (R44, R444, R476, R477): a value, corrected where one bit is wrong (recorded, R40; not written back over the link,
DESIGN CHOICE: R43 says nothing of host memory); an uncorrectable cell; or the end at a dead target. -/
def hostEnd (c : CtxId) (va : VAddr) (pa : PAddr) (r : HostEnd) (s : State) : State :=
  match r with
  | .success v => if parksForFbar (getCtx s c) then parkRun c (hostValue c unsetCell s) else (match verify v with
    | some (v, false) => parkRun c (hostValue c v s)
    | some (w, true) => parkRun c (hostValue c w (logEvent 0x0E 0 37 0 (some c) (some pa.toNat) (syndrome v).toNat s))
    | none => hostBad c va (logEvent 0x0F 3 37 0 (some c) (some pa.toNat) (syndrome v).toNat s))
  | .poisoned => hostPoisoned c va s
  | .refused => parkRun c (hostDead c s)

/-- HOST_COMPLETION: the completion of a context's HOST request. Without a request sent nothing happens. -/
def execHostCompletion (c : CtxId) (r : HostEnd) (s : State) : Out := .next (
  let x := getCtx s c
  match x.hostReq with
  | none => s
  | some (va, pa) => if !x.hostSent then s else hostNext (hostEnd c va pa r (reach hostSector x.skein s)))

/-- COMPLETION_TIMEOUT: a HOST request reaches the completion timeout in force when it was sent (R476, R582). -/
def execCompletionTimeout (c : CtxId) (s : State) : Out := .next (
  let x := getCtx s c
  if x.hostReq.isSome && x.hostSent && decide (x.hostDue ≤ s.m.clock) then hostNext (parkRun c (hostDead c s)) else s)

end Sys2Proof.Machine
end

