-- ==== Sys2Proof/Machine/MemCmds.lean ====
section
/-! DEFINITION. Events of the memory system: store-buffer drains, victims, way power, broadcasts, the carder, reels and collector
commands (R397, R398, R421, R428, R440 to R442, R451 to R473, R511, R521, R522, R531, R545). -/

namespace Sys2Proof.Machine

/-! ## Store-buffer drains -/

/-- What waited for the store buffer of a context to empty, when it has (R456): its twist request, its interrupts to other contexts,
its move; held carder requests of its skein. -/
def afterDrain (c : CtxId) (s : State) : State :=
  if !sbEmpty s c then s
  else
    let x := getCtx s c
    let s := match x.twWait with
      | some r => twAdmit x.skein r (updCtx c (fun x => { x with twWait := none }) s)
      | none => s
    let s := x.ipiOut.foldl (fun s t => ipiDeliver c t s) (updCtx c (fun x => { x with ipiOut := [] }) s)
    startMove c (cardAdmit x.skein 32 s)

/-- Obtain the line of an entry with ownership: a level-1 hit that is owned, or the line; a miss of a store trains the spindle's prefetch streams
(R420, R432). -/
def drainOwn (q : SpId) (c : CtxId) (ln : Nat) (via : Option Via) (s : State) : Bool × State :=
  let x := getCtx s c
  let mask := wayMaskFor (getSk s (spSk q)) (getHank s x.hank).cur.waymask x.hv
  let s := l1Tags q s
  match l1Find (getSp s q) ln with
  | some i => if (l1At (getSp s q) i).dirty then (true, updSp q (l1Touch i) s) else ownLine c q mask ln s
  | none => demandMiss c q via ln (ownLine c q mask ln) s

/-- The age of a line in a skein cache (R416). -/
def skAge (k : SkId) (ln : Nat) (a : BitVec 2) (s : State) : State := updSk k (fun x => skUpd x ln fun l => { l with age := a }) s

/-- The effect of an entry that becomes visible (R445, R451, R455, R465, R506); false when it cannot yet. A line that a ZLINE zeroes has age 1
(R424). -/
def drainKind (q : SpId) (c : CtxId) (via : Option Via) (k : SbKind) (s : State) : Bool × State :=
  match k with
  | .line ln cells =>
    let r := drainOwn q c ln via s
    (r.1, if r.1 then cells.foldl (fun s e => putCell (some c) (paOf e.1) e.2 s) r.2 else r.2)
  | .zline ln =>
    let r := drainOwn q c ln none s
    (r.1, if r.1 then (upto 8).foldl (fun s i => putCell (some c) (paOf (8 * ln + i)) unsetCell s) (skAge (spSk q) ln 1 r.2) else r.2)
  | .bit2 sk b v => (true, bit2Put sk b v (bit2Reach (spSk q) sk (bitsRead c (fun l => l.bit = some (sk, b)) s)))
  | .bit3 pa b v =>
    let r := drainOwn q c (lineOf pa) via s
    (r.1, if r.1 then bit3Put c pa b v r.2 else r.2)
  | .device pa v => (true, deviceStore c pa v s)
  | .host pa v first => if linkDead s || linkUp s then (true, hostStore c pa v first s) else (false, s)
  | .card tag ms =>
    match ms.findSome? fun m => (cardDue c q tag m.2.1 m.2.2 s).1 with
    | none => (true, ms.foldl (fun s m => (cardDue c q tag m.2.1 m.2.2 s).2) s)
    | some p =>
      let r := drainOwn q c (lineOf p.1) none s
      (r.1, if r.1 then ms.foldl (fun s m => match cardDue c q tag m.2.1 m.2.2 s with
        | (some p, s) => cardSet c (spSk q) p s
        | (none, s) => s) r.2 else r.2)

/-- STORE_DRAIN: the entry at a place of a spindle's store buffer becomes visible, when the order of R452 and R457 lets it. A line that does not
come yet leaves the entry where it is. -/
def execStoreDrain (q : SpId) (i : Nat) (s : State) : Out := .next (
  match (getSp s q).sb[i]? with
  | none => s
  | some e =>
    if !sbMayDrain s q i then s
    else match drainKind q e.ctx e.via e.kind s with
      | (false, s) => s
      | (true, s) => spindleResume q (afterDrain e.ctx (bitArrive e.ctx (updSp q (fun p => { p with sb := p.sb.eraseIdx i }) s))))

/-- RESERVATION_RELEASE: the spindle stops holding the line of a context's LR (R473). -/
def execReservationRelease (c : CtxId) (s : State) : Out := .next (updCtx c (fun x => { x with resHold := false }) s)

/-! ## The skein cache (R421, R440 to R442) -/

/-- VICTIM_ACCEPTED: the home controller of the victim has put it in its write queue of 64 lines, and the fill held for it is installed and
delivered (R413, R421). A full queue accepts nothing. -/
def execVictimAccepted (k : SkId) (ln : Nat) (s : State) : Out := .next (
  match (getSk s k).held.find? fun h => h.ln = ln with
  | none => s
  | some h => if wqFull h.victim s then s else fillLand k h s)

/-- As time passes, each channel writes the oldest line of its queue to DRAM (R413), the controllers take what CLEANs and FLUSHes have written
back (R425), and the skeins whose caches are being disabled or enabled get there (R442). -/
def memTick (s : State) : State :=
  let s := { s with wq := (s.wq.map fun (e : Nat × List Nat) => (e.1, e.2.drop 1)).filter fun (e : Nat × List Nat) => e.2 ≠ [] }
  let s := s.ctxs.foldl (fun s e => if e.2.cleans.isEmpty then s else cleanAccept (BitVec.ofNat 16 e.1) s) s
  s.skeins.foldl (fun s (e : Nat × Skein) => skPhase (BitVec.ofNat 5 e.1) s) s

/-- The way that is powered down next: the highest-numbered powered way in no hank's mask, while WAYMIN ways and a way of HMASK stay
powered (R440, R641). -/
def wayDown (k : SkId) (s : State) : Option Nat :=
  let x := getSk s k
  let on (w : Nat) : Bool := !x.pwrOff.getLsbD w && !x.cleaning.getLsbD w
  let inMask (w : Nat) : Bool := s.hanks.any fun h => decide (h.2.state ≠ 0) && h.2.cur.waymask.getLsbD w
  let n := ((upto 16).filter on).length
  let left (w : Nat) : Bool := (upto 16).any fun v => decide (v ≠ w) && on v && x.hmask.getLsbD v
  if n ≤ (objGet s 0x2104 2).toNat ∨ !(objGet s 0x2104 1).getLsbD 1 then none
  else match (upto 16).reverse.find? fun w => on w && !inMask w with
    | some w => if left w then some w else none
    | none => none

/-- Remove every line of a way from the skein (R440). -/
def wayClean (k : SkId) (w : Nat) (s : State) : State :=
  (getSk s k).cache.foldl (fun s e => if e.1 % 16 = w ∧ e.2.st ≠ .inv then skDrop k e.2.ln s else s) s

/-- WAY_POWER_DOWN: the whorl cleans a way of a skein cache and removes its power (R440, R641). A fill held into the way is installed
first (R443). -/
def execWayPowerDown (k : SkId) (s : State) : Out := .next (
  match wayDown k s with
  | none => s
  | some w =>
    if (getSk s k).held.any (fun h => h.idx = w) then s
    else updSk k (fun x => { x with pwrOff := setBit x.pwrOff w true }) (wayClean k w s))

/-- WAY_POWER_UP: a way is powered again, every line invalid (R440); not while the arrays have no power (R442). -/
def execWayPowerUp (k : SkId) (w : BitVec 4) (s : State) : Out := .next (
  if (getSk s k).dstate ≠ 0 then s else updSk k (fun x => { x with pwrOff := setBit x.pwrOff w.toNat false }) s)

/-- DIS_SET: the host writes SCCTL of a skein with DIS = 1 (R442). -/
def execDisSet (k : SkId) (hmask : BitVec 16) (s : State) : Out := .next (
  hostWr (fun s => scWrite k 0 (0x800000000000 ||| hmask.setWidth 48) (reach hostSector k s)) s)

/-- DIS_CLEAR: the host writes SCCTL of a skein with DIS = 0 (R442). -/
def execDisClear (k : SkId) (hmask : BitVec 16) (s : State) : Out := .next (
  hostWr (fun s => scWrite k 0 (hmask.setWidth 48) (reach hostSector k s)) s)

/-! ## Broadcasts (R397, R398, R428) -/

/-- Remove a spindle from the targets of a broadcast of a context's incarnation `g`. -/
def bcastAck (c : CtxId) (g : Nat) (q : SpId) (s : State) : State :=
  { s with bcasts := s.bcasts.map fun b => if b.ctx = c ∧ b.gen = g then { b with todo := b.todo.filter fun p => p ≠ q } else b }

/-- A HOST load of a context of a spindle has left and is not complete. -/
def hostOut (q : SpId) (s : State) : Bool := s.ctxs.any fun e => decide (ctxSp e.2 = q) && e.2.hostReq.isSome && e.2.hostSent

/-- Accesses of a spindle that were translated and are not complete (R398): stores, those that wait for an entry with them, fills held for their victims,
HOST loads. -/
def accessOut (q : SpId) (s : State) : Bool :=
  !(getSp s q).sb.isEmpty || s.ctxs.any (fun e => decide (ctxSp e.2 = q) && sbWaits e.2) ||
    ((getSk s (spSk q)).held.any fun h => h.asks.any fun a => askSp a = some q) || hostOut q s

/-- SHOOTDOWN: a target applies a broadcast invalidation; it acknowledges once its loads have returned and its stores are visible (R398). A parked
memory phase is translated again when it is performed, and so is a HOST request that has not left: neither uses a removed entry. -/
def execShootdown (c : CtxId) (q : SpId) (s : State) : Out := .next (
  match s.bcasts.find? fun b => decide (b.ctx = c) && b.todo.contains q with
  | none => s
  | some b =>
    let s := updSp q (invApply b.op) s
    let s := updAllCtx (fun _ x => if ctxSp x = q ∧ !x.hostSent then { x with hostReq := none } else x) s
    if accessOut q s then s else bcastAck c b.gen q s)

/-- SHOOTDOWN_COMPLETE: with the last acknowledgement SBUSY of the issuing context clears (R397). A context destroyed since has
no SBUSY left to clear. -/
def execShootdownComplete (c : CtxId) (s : State) : Out := .next (
  match s.bcasts.find? fun b => decide (b.ctx = c) && b.todo.isEmpty with
  | none => s
  | some b =>
    let s := { s with bcasts := s.bcasts.filter fun x => !(decide (x.ctx = c) && decide (x.gen = b.gen)) }
    if (getCtx s c).gen = b.gen then setAx c 30 (setBit (axPeek s c 30) 47 false) s else s)

/-- INVAL_BROADCAST: a target applies the broadcast INVAL of a spindle; IBUSY falls with the last target, and one that waits in its slot may issue
(R428). -/
def execInvalBroadcast (q t : SpId) (s : State) : Out := .next (
  let p := getSp s q
  if !p.ibusy.contains t then s
  else
    let s := icApply t p.ibLine s
    let s := updSp q (fun p => { p with ibusy := p.ibusy.filter fun x => x ≠ t }) s
    if !(getSp s q).ibusy.isEmpty then s
    else
      let s := updSp q (fun p => { p with ibCtx := none, ibLine := none }) s
      let s := updAllCtx (fun _ x => if ctxSp x = q then { x with invHold := false } else x) s
      match p.ibCtx with
      | some c => startMove c s
      | none => s)

/-! ## Collector commands, reels and the carder -/

/-- A collector command reaches the block: from a context by its COLCMD, or from the host by HCOLCMD. -/
def sendCol (op : Nat) (m : ColCmd) (s : State) : State :=
  match m.src with
  | .ctx c => if s.mode = .sleep ∨ (getCtx s c).st = .free then s else colCommand op m s
  | .host => hostWr (colCommand op m) s
  | .hank _ => s

/-- FLIP (R522). -/
def execFlip (m : ColCmd) (s : State) : Out := .next (sendCol 1 m s)

/-- UPDATE (R521). -/
def execUpdate (m : ColCmd) (s : State) : Out := .next (sendCol 2 m s)

/-- FLIP_RELEASE: the held contexts go on once every root is done (R522). -/
def execFlipRelease (tag : BitVec 12) (s : State) : Out := .next (flipRelease tag s)

/-- EVAC: a reel takes, claims or copies (R511). -/
def execEvac (k : SkId) (r : BitVec 1) (s : State) : Out := .next (reelRun k r.toNat s)

/-- CLR0: the host deletes every carder entry of the HV = 0 owner in a skein (R531). -/
def execClr0 (k : SkId) (s : State) : Out := .next (hostWr (fun s => cardClr0 k (reach hostSector k s)) s)

/-- CARDER_ACCEPT: the carder of a skein applies the operation at the head of its queue (R545). -/
def execCarderAccept (k : SkId) (s : State) : Out := .next (cardAccept k s)

end Sys2Proof.Machine
end

