-- ==== Sys2Proof/Machine/Float.lean ====
section
/-! DEFINITION. IEEE 754 binary32 and binary64 by exact arithmetic: decoding, rounding, operations, exception flags (R153, R158, R166
to R170, R195 to R197). -/

namespace Sys2Proof.Machine

/-- A format: significand bits, greatest exponent, exponent bits. -/
structure FFmt where
  p : Nat
  emax : Nat
  eb : Nat
deriving DecidableEq, Repr

/-- binary32 and binary64. -/
def f32 : FFmt := { p := 24, emax := 127, eb := 8 }
def f64 : FFmt := { p := 53, emax := 1023, eb := 11 }

/-- A decoded float: a NaN, signalling or not, an infinity, or (-1)^s * m * 2^e. -/
inductive FVal where
  | nan (sig : Bool)
  | inf (s : Bool)
  | fin (s : Bool) (m : Nat) (e : Int)
deriving DecidableEq, Repr

/-- The flags NX, UF, OF, DZ, IV in FPFLAGS order (R153). -/
def fpFlags (nx uf ovf dz iv : Bool) : BitVec 5 := b1 nx ++ b1 uf ++ b1 ovf ++ b1 dz ++ b1 iv

/-- IV alone. -/
def flagIV : BitVec 5 := fpFlags false false false false true

/-- Decode a bit pattern. -/
def fDecode (f : FFmt) (b : Nat) : FVal :=
  let frac := b % 2 ^ (f.p - 1)
  let ex := bits b (f.p - 1) f.eb
  let s := bitN b (f.p - 1 + f.eb)
  let q : Int := 2 - (f.emax : Int) - (f.p : Int)
  if ex = 2 ^ f.eb - 1 then (if frac = 0 then .inf s else .nan (decide (frac < 2 ^ (f.p - 2))))
  else if ex = 0 then .fin s frac q
  else .fin s (frac + 2 ^ (f.p - 1)) (q + (ex : Int) - 1)

/-- A bit pattern from its sign, exponent field and fraction. -/
def fPack (f : FFmt) (s : Bool) (ex frac : Nat) : Nat := b2n s * 2 ^ (f.p - 1 + f.eb) + ex * 2 ^ (f.p - 1) + frac

/-- The canonical quiet NaN (R168, R170). -/
def fQnan (f : FFmt) : Nat := fPack f false (2 ^ f.eb - 1) (2 ^ (f.p - 2))

/-- Infinity, zero, the largest finite value. -/
def fInf (f : FFmt) (s : Bool) : Nat := fPack f s (2 ^ f.eb - 1) 0
def fZero (f : FFmt) (s : Bool) : Nat := fPack f s 0 0
def fMax (f : FFmt) (s : Bool) : Nat := fPack f s (2 ^ f.eb - 2) (2 ^ (f.p - 1) - 1)

/-- Round up a magnitude: `rm` is GENCTL.RM, `s` the sign, `odd` the parity of the truncated significand, `cmp` the order of the
discarded part against one half, `inex` whether anything was discarded (R151). -/
def roundUp (rm : BitVec 2) (s odd : Bool) (cmp : Ordering) (inex : Bool) : Bool :=
  if rm = 0 then (cmp = .gt || (cmp = .eq && odd))
  else if rm = 1 then false
  else if rm = 2 then inex && !s
  else inex && s

/-- Truncate m * 2^e at quantum 2^q and round; `sticky` says that a nonzero part below m was dropped. Answers the rounded multiple
of 2^q and whether it is inexact. -/
def roundAt (rm : BitVec 2) (s : Bool) (m : Nat) (e : Int) (sticky : Bool) (q : Int) : Nat × Bool :=
  if q ≤ e then (m * 2 ^ (e - q).toNat, sticky)
  else
    let k := (q - e).toNat
    let t := m / 2 ^ k
    let r := m % 2 ^ k
    let h := 2 ^ (k - 1)
    let cmp : Ordering := if r < h then .lt else if r > h ∨ sticky then .gt else .eq
    let inex := decide (r ≠ 0) || sticky
    (t + b2n (roundUp rm s (decide (t % 2 = 1)) cmp inex), inex)

/-- Round (-1)^s * (m + sticky part) * 2^e to a format: the bit pattern and the flags (R158). -/
def fRound (f : FFmt) (rm : BitVec 2) (s : Bool) (m : Nat) (e : Int) (sticky : Bool) : Nat × BitVec 5 :=
  if m = 0 then (fZero f s, 0)
  else
    let p : Int := f.p
    let emin : Int := 1 - (f.emax : Int)
    let top : Int := e + (Nat.log2 m : Int)
    let q := max (top - p + 1) (emin - p + 1)
    let r := roundAt rm s m e sticky q
    let free := roundAt rm s m e sticky (top - p + 1)
    let tiny := decide (top < emin) && !(decide (top = emin - 1) && decide (free.1 = 2 ^ f.p))
    let big := decide (r.1 ≠ 0) && decide (q + (Nat.log2 r.1 : Int) > (f.emax : Int))
    if big then
      let toMax := decide (rm = 1) || (decide (rm = 2) && s) || (decide (rm = 3) && !s)
      (if toMax then fMax f s else fInf f s, fpFlags true false true false false)
    else
      let n := if r.1 = 2 ^ f.p then 2 ^ (f.p - 1) else r.1
      let q' := if r.1 = 2 ^ f.p then q + 1 else q
      let out := if n < 2 ^ (f.p - 1) then fPack f s 0 n
        else fPack f s (q' + p - 1 + (f.emax : Int)).toNat (n - 2 ^ (f.p - 1))
      (out, fpFlags r.2 (tiny && r.2) false false false)

/-- A signed magnitude as an integer. -/
def sInt (s : Bool) (m : Nat) : Int := if s then -(m : Int) else m

/-- The exact sum of two finite values: its integer and exponent. -/
def finSum (s1 : Bool) (m1 : Nat) (e1 : Int) (s2 : Bool) (m2 : Nat) (e2 : Int) : Int × Int :=
  let e := min e1 e2
  (sInt s1 m1 * 2 ^ (e1 - e).toNat + sInt s2 m2 * 2 ^ (e2 - e).toNat, e)

/-- A NaN among the operands gives the canonical quiet NaN, with IV when one is signalling (R168). -/
def nanOut (f : FFmt) (a b : FVal) : Option (Nat × BitVec 5) :=
  match a, b with
  | .nan x, .nan y => some (fQnan f, if x || y then flagIV else 0)
  | .nan x, _ => some (fQnan f, if x then flagIV else 0)
  | _, .nan y => some (fQnan f, if y then flagIV else 0)
  | _, _ => none

/-- Addition. -/
def fAdd (f : FFmt) (rm : BitVec 2) (a b : FVal) : Nat × BitVec 5 :=
  match nanOut f a b with
  | some r => r
  | none => match a, b with
    | .inf s, .inf t => if s = t then (fInf f s, 0) else (fQnan f, flagIV)
    | .inf s, _ => (fInf f s, 0)
    | _, .inf t => (fInf f t, 0)
    | .fin s m e, .fin t n g =>
      let r := finSum s m e t n g
      if r.1 = 0 then (fZero f (if m = 0 ∧ n = 0 ∧ s = t then s else decide (rm = 3)), 0)
      else fRound f rm (decide (r.1 < 0)) r.1.natAbs r.2 false
    | _, _ => (fQnan f, 0)

/-- A value with its sign changed. -/
def fFlip (a : FVal) : FVal :=
  match a with
  | .nan g => .nan g
  | .inf s => .inf !s
  | .fin s m e => .fin (!s) m e

/-- Subtraction. -/
def fSub (f : FFmt) (rm : BitVec 2) (a b : FVal) : Nat × BitVec 5 := fAdd f rm a (fFlip b)

/-- Multiplication. -/
def fMul (f : FFmt) (rm : BitVec 2) (a b : FVal) : Nat × BitVec 5 :=
  match nanOut f a b with
  | some r => r
  | none => match a, b with
    | .inf s, .inf t => (fInf f (s != t), 0)
    | .inf s, .fin t n _ => if n = 0 then (fQnan f, flagIV) else (fInf f (s != t), 0)
    | .fin s m _, .inf t => if m = 0 then (fQnan f, flagIV) else (fInf f (s != t), 0)
    | .fin s m e, .fin t n g => fRound f rm (s != t) (m * n) (e + g) false
    | _, _ => (fQnan f, 0)

/-- Division. -/
def fDiv (f : FFmt) (rm : BitVec 2) (a b : FVal) : Nat × BitVec 5 :=
  match nanOut f a b with
  | some r => r
  | none => match a, b with
    | .inf _, .inf _ => (fQnan f, flagIV)
    | .inf s, .fin t _ _ => (fInf f (s != t), 0)
    | .fin s _ _, .inf t => (fZero f (s != t), 0)
    | .fin s m e, .fin t n g =>
      if n = 0 then (if m = 0 then (fQnan f, flagIV) else (fInf f (s != t), fpFlags false false false true false))
      else
        let k := f.p + 3 + Nat.log2 n
        fRound f rm (s != t) (m * 2 ^ k / n) (e - g - (k : Int)) (decide (m * 2 ^ k % n ≠ 0))
    | _, _ => (fQnan f, 0)

/-- Integer square root, bit by bit. -/
def isqrtGo (n : Nat) : Nat → Nat → Nat
  | 0, r => r
  | k + 1, r => isqrtGo n k (if (r + 2 ^ k) * (r + 2 ^ k) ≤ n then r + 2 ^ k else r)

/-- Square root. -/
def fSqrt (f : FFmt) (rm : BitVec 2) (a : FVal) : Nat × BitVec 5 :=
  match a with
  | .nan g => (fQnan f, if g then flagIV else 0)
  | .inf s => if s then (fQnan f, flagIV) else (fInf f false, 0)
  | .fin s m e =>
    if m = 0 then (fZero f s, 0)
    else if s then (fQnan f, flagIV)
    else
      let k := 2 * f.p + 4 + (e % 2).toNat
      let n := m * 2 ^ k
      let r := isqrtGo n (Nat.log2 n / 2 + 1) 0
      fRound f rm false r ((e - (k : Int)) / 2) (decide (r * r ≠ n))

/-- The order of two values, none when one is a NaN; the zeros are equal (R167). -/
def fOrder (a b : FVal) : Option Ordering :=
  match a, b with
  | .nan _, _ | _, .nan _ => none
  | .inf s, .inf t => some (if s = t then .eq else if s then .lt else .gt)
  | .inf s, _ => some (if s then .lt else .gt)
  | _, .inf t => some (if t then .gt else .lt)
  | .fin s m e, .fin t n g => some (compare (finSum s m e (!t) n g).1 0)

/-- A signalling NaN. -/
def fSig (a : FVal) : Bool := a = .nan true

/-- A NaN of either kind. -/
def fNan (a : FVal) : Bool := a = .nan true || a = .nan false

/-- FMIN and FMAX of two bit patterns (R195): -0.0 lies below +0.0. -/
def fMinMax (f : FFmt) (mx : Bool) (x y : Nat) : Nat × BitVec 5 :=
  let a := fDecode f x
  let b := fDecode f y
  let fl := if fSig a || fSig b then flagIV else 0
  if fNan a && fNan b then (fQnan f, fl)
  else if fNan a then (y, fl)
  else if fNan b then (x, fl)
  else
    let neg (v : Nat) : Bool := bitN v (f.p - 1 + f.eb)
    let less := match fOrder a b with
      | some .lt => true
      | some .eq => neg x && !neg y
      | _ => false
    (if less = mx then y else x, fl)

/-- Truncate a finite value toward zero: the integer, and whether a nonzero fraction was discarded. -/
def fTrunc (s : Bool) (m : Nat) (e : Int) : Int × Bool :=
  if 0 ≤ e then (sInt s (m * 2 ^ e.toNat), false)
  else (sInt s (m / 2 ^ (-e).toNat), decide (m % 2 ^ (-e).toNat ≠ 0))

/-! ## Numbers of the generic operations -/

/-- A numeric operand by value: an integer, an F32 or an F64 bit pattern. -/
inductive Num where
  | int (i : Int)
  | s32 (b : BitVec 32)
  | s64 (b : BitVec 64)
deriving DecidableEq, Repr

/-- The value of a number. -/
def numVal (n : Num) : FVal :=
  match n with
  | .int i => .fin (decide (i < 0)) i.natAbs 0
  | .s32 b => fDecode f32 b.toNat
  | .s64 b => fDecode f64 b.toNat

/-- The arithmetic operations of R157. -/
inductive NOp where
  | add | sub | mul | neg
deriving DecidableEq, Repr

/-- An exact integer result. -/
def intOp (o : NOp) (a b : Int) : Int :=
  match o with
  | .add => a + b
  | .sub => a - b
  | .mul => a * b
  | .neg => -a

/-- A float result of a generic operation: NEG of a non-NaN only changes the sign (R168). -/
def floatOp (f : FFmt) (rm : BitVec 2) (o : NOp) (a b : Num) : Nat × BitVec 5 :=
  let x := numVal a
  let y := numVal b
  match o with
  | .add => fAdd f rm x y
  | .sub => fSub f rm x y
  | .mul => fMul f rm x y
  | .neg =>
    match x with
    | .nan g => (fQnan f, if g then flagIV else 0)
    | .inf s => (fInf f (!s), 0)
    | .fin s m e => fRound f 0 (!s) m e false

/-- The result of a generic operation and its flags: its type follows R157. -/
def numOp (rm : BitVec 2) (o : NOp) (a b : Num) : Num × BitVec 5 :=
  let is64 (n : Num) : Bool := match n with
    | .s64 _ => true
    | _ => false
  let is32 (n : Num) : Bool := match n with
    | .s32 _ => true
    | _ => false
  let two := decide (o ≠ .neg)
  if is64 a || (two && is64 b) then
    let r := floatOp f64 rm o a b
    (.s64 (BitVec.ofNat 64 r.1), r.2)
  else if is32 a || (two && is32 b) then
    let r := floatOp f32 rm o a b
    (.s32 (BitVec.ofNat 32 r.1), r.2)
  else match a, b with
    | .int i, .int j => (.int (intOp o i j), 0)
    | .int i, _ => (.int (intOp o i 0), 0)
    | _, _ => (a, 0)

/-- Zero and negative, for STATUS; a NaN is neither (R160). -/
def numZN (n : Num) : Bool × Bool :=
  match n with
  | .int i => (decide (i = 0), decide (i < 0))
  | _ => match numVal n with
    | .nan _ => (false, false)
    | .inf s => (false, s)
    | .fin s m _ => (decide (m = 0), s && decide (m ≠ 0))

/-- The relations of the ordered comparisons. -/
inductive Rel where
  | lt | le | gt | ge
deriving DecidableEq, Repr

/-- A relation holds of an order. -/
def relHolds (r : Rel) (o : Ordering) : Bool :=
  match r with
  | .lt => o = .lt
  | .le => o = .lt || o = .eq
  | .gt => o = .gt
  | .ge => o = .gt || o = .eq

/-- An ordered comparison of numbers: its answer, and IV for a NaN (R166, R167). -/
def numRel (r : Rel) (a b : Num) : Bool × BitVec 5 :=
  match fOrder (numVal a) (numVal b) with
  | some o => (relHolds r o, 0)
  | none => (false, flagIV)

/-- EQL of numbers (R166). -/
def numEql (a b : Num) : Bool :=
  match a, b with
  | .int i, .int j => i = j
  | .s32 x, .s32 y => x = y
  | .s64 x, .s64 y => x = y
  | _, _ => false

end Sys2Proof.Machine
end

