-- ==== Sys2Proof/Machine/Generic.lean ====
section
/-! DEFINITION. Generic arithmetic and comparisons, type tests, predicate operations, and the issue of the twist-major instructions
(R105, R133, R149 to R171, R177, R178, R186). -/

namespace Sys2Proof.Machine

/-! ## Numbers -/

/-- A numeric type code. -/
def isNum (t : BitVec 6) : Bool := t = tFIX || t = tBIG || t = tF32 || t = tF64

/-- A type code whose operations the spindle leaves to a twist unit (R155). -/
def isHeavy (t : BitVec 6) : Bool := t = tBIG || t = tF64

/-- The integer of a FIX cell. -/
def fixVal (v : Cell) : Int := (cDat v).toInt

/-- The range of R50. -/
def inFix (r : Int) : Bool := decide (-(2 ^ 47) ≤ r ∧ r < 2 ^ 47)

/-- A FIX or F32 cell as a number. -/
def cellNum (v : Cell) : Num := if cTyp v = tF32 then .s32 (v.extractLsb' 0 32) else .int (fixVal v)

/-- An F32 cell (R168). -/
def f32Cell (b : BitVec 32) : Cell := mkCell 0 tF32 (b.setWidth 48)

/-- GENCTL.RM (R151). -/
def rmOf (x : Ctx) : BitVec 2 := x.genctl.extractLsb' 9 2

/-- GENCTL [15:11] (R151). -/
def fpEnables (x : Ctx) : BitVec 5 := x.genctl.extractLsb' 11 5

/-! ## Landing with float exceptions (R153, R169, R348, R350) -/

/-- Land the results of a float operation of the spindle with the exceptions it raised: an enabled one faults precisely under PREC,
and otherwise waits with the landings. FPFLAGS records them at once. -/
def landFp (c : CtxId) (ls : List (Nat × Tgt × BitVec 64)) (fl : BitVec 5) : X Unit := do
  let x ← xCtx c
  xMod (updCtx c fun x => { x with fpflags := x.fpflags ||| fl })
  if fl &&& fpEnables x = 0 then ls.forM fun l => land c l.1 l.2.1 l.2.2
  else if (axGet x 25).getLsbD 25 then xFault 0x22 (fl.setWidth 48)
  else
    let f : FpExc := { addr := x.flow.pc, at_ := x.flow.slot, flags := fl }
    xMod (updCtx c fun y => { y with land := y.land ++ ls.map fun l => { slot := y.flow.slot + l.1, tgt := l.2.1, val := l.2.2, fpx := some f } })

/-! ## Handing to a twist unit (R101, R155) -/

/-- Hand an operation to a twist unit with the landings its result will make. -/
def xHand (c : CtxId) (enc : BitVec 48) (ls : List (Nat × Tgt)) (a b : Cell) (dst : BitVec 5) : X Adv := do
  ls.forM fun l => landWait c l.1 l.2
  xTwist c enc .op a b dst
  pure .seq

/-- The landings of a generic operation. -/
def genLands (d : Nat) (dst : BitVec 5) (s : Bool) : List (Nat × Tgt) := (d, .word dst) :: (if s then [(3, .status)] else [])

/-! ## Arithmetic (R157 to R162) -/

/-- Carry or borrow of a FIX operation (R160). -/
def opCarry (o : NOp) (a b : Datum) : Bool :=
  match o with
  | .add => addCarry a b
  | .sub => subBorrow a b
  | .neg => subBorrow 0 a
  | .mul => false

/-- A generic operation on checked operands: FIX and F32 on the spindle, the rest on a twist unit. -/
def xArith (c : CtxId) (enc : BitVec 48) (d : Nat) (dst : BitVec 5) (s : Bool) (o : NOp) (a b : Cell) : X Adv := do
  let un := decide (o = .neg)
  let tb : BitVec 6 := if un then 0 else cTyp b
  chkDispatch (cTyp a) tb
  if !isNum (cTyp a) || (!un && !isNum tb) then typeFault (cTyp a) tb
  let x ← xCtx c
  if cTyp a = tFIX ∧ (un ∨ tb = tFIX) then
    let r := intOp o (fixVal a) (fixVal b)
    if inFix r || !x.genctl.getLsbD 0 then
      if !inFix r && x.genctl.getLsbD 1 then xFault 0x20
      landW c d dst (fixInt r)
      if s then landS c (fixFlags r (opCarry o (cDat a) (cDat b)))
      pure .seq
    else xHand c enc (genLands d dst s) a b dst
  else if isHeavy (cTyp a) || isHeavy tb then xHand c enc (genLands d dst s) a b dst
  else
    let r := numOp (rmOf x) o (cellNum a) (cellNum b)
    let v : Cell := match r.1 with
      | .s32 b => f32Cell b
      | .int i => fixInt i
      | .s64 _ => unsetCell
    let zn := numZN r.1
    landFp c ((d, .word dst, v) :: (if s then [(3, .status, (numFlags zn.1 zn.2 false).setWidth 64)] else [])) r.2
    pure .seq

/-- A two-register generic operation. -/
def xArith2 (h : Hd) (f : FA) (enc : BitVec 48) (d : Nat) (o : NOp) : X Adv := do
  let r ← xTwo h.ctx f.sa f.sb
  xArith h.ctx enc d f.dst f.s o r.1 r.2

/-- ADDI and SUBI (R159). -/
def xArithI (h : Hd) (f : FI) (enc : BitVec 48) (o : NOp) : X Adv := do
  let a ← wRead h.ctx f.sa
  chkTwo a (immFix f.imm)
  xArith h.ctx enc 2 f.dst f.s o a (immFix f.imm)

/-- ADD (R157). -/
def execAdd (h : Hd) (f : FA) (s : State) : Out := issueOut h (encA 0x08 0x00 h f) (xArith2 h f (encA 0x08 0x00 h f) 2 .add) s
/-- SUB (R157). -/
def execSub (h : Hd) (f : FA) (s : State) : Out := issueOut h (encA 0x08 0x01 h f) (xArith2 h f (encA 0x08 0x01 h f) 2 .sub) s
/-- NEG (R157). -/
def execNeg (h : Hd) (f : FA) (s : State) : Out := issueOut h (encA 0x08 0x02 h f) (do
  let a ← xOne h.ctx f.sa
  xArith h.ctx (encA 0x08 0x02 h f) 2 f.dst f.s .neg a nilCell) s
/-- ADDI (R159). -/
def execAddi (h : Hd) (f : FI) (s : State) : Out := issueOut h (encI 0x09 0 h f) (xArithI h f (encI 0x09 0 h f) .add) s
/-- SUBI (R159). -/
def execSubi (h : Hd) (f : FI) (s : State) : Out := issueOut h (encI 0x09 1 h f) (xArithI h f (encI 0x09 1 h f) .sub) s
/-- MUL (R157). -/
def execMul (h : Hd) (f : FA) (s : State) : Out := issueOut h (encA 0x0A 0x00 h f) (xArith2 h f (encA 0x0A 0x00 h f) 4 .mul) s
/-- MULH (R159). -/
def execMulh (h : Hd) (f : FA) (s : State) : Out := issueOut h (encA 0x0A 0x01 h f) (do
  let r ← xTwo h.ctx f.sa f.sb
  chkDispatch (cTyp r.1) (cTyp r.2)
  if cTyp r.1 ≠ tFIX ∨ cTyp r.2 ≠ tFIX then typeFault (cTyp r.1) (cTyp r.2)
  landW h.ctx 4 f.dst (fixInt (fixVal r.1 * fixVal r.2 / 2 ^ 48))
  pure .seq) s

/-! ## Comparisons (R165 to R167) -/

/-- Where a comparison lands: t or nil in a word register, or a bit in a predicate. -/
inductive CDst where
  | w (r : BitVec 5)
  | p (n : BitVec 3)
deriving DecidableEq, Repr

/-- The target of a comparison. -/
def cmpTgt (d : CDst) : Tgt :=
  match d with
  | .w r => .word r
  | .p n => .pred n

/-- The landed value of a comparison. -/
def cmpOut (d : CDst) (v : Bool) : BitVec 64 :=
  match d with
  | .w _ => if v then tCell else nilCell
  | .p _ => (b1 v).setWidth 64

/-- The register field of a comparison's destination, for the request. -/
def cmpReg (d : CDst) : BitVec 5 :=
  match d with
  | .w r => r
  | .p n => n.setWidth 5

/-- EQ, CMPEQ, CMPNE (R166): identity, after check 1 only. -/
def xIdent (c : CtxId) (d : CDst) (neg : Bool) (a b : Cell) : X Adv := do
  chkUnset a 0
  chkUnset b 1
  land c 2 (cmpTgt d) (cmpOut d (identical a b != neg))
  pure .seq

/-- EQL and CMPEQL (R166). -/
def xEql (c : CtxId) (enc : BitVec 48) (d : CDst) (a b : Cell) : X Adv := do
  chkTwo a b
  chkDispatch (cTyp a) (cTyp b)
  if isHeavy (cTyp a) || isHeavy (cTyp b) then xHand c enc [(2, cmpTgt d)] a b (cmpReg d)
  else
    let r := if isNum (cTyp a) && isNum (cTyp b) then numEql (cellNum a) (cellNum b) else identical a b
    land c 2 (cmpTgt d) (cmpOut d r)
    pure .seq

/-- The ordered comparisons (R166, R167). -/
def xOrd (c : CtxId) (enc : BitVec 48) (d : CDst) (r : Rel) (a b : Cell) : X Adv := do
  chkTwo a b
  chkDispatch (cTyp a) (cTyp b)
  if cTyp a = tCHAR ∧ cTyp b = tCHAR then
    land c 2 (cmpTgt d) (cmpOut d (relHolds r (compare (cDat a).toNat (cDat b).toNat)))
    pure .seq
  else if !isNum (cTyp a) || !isNum (cTyp b) then typeFault (cTyp a) (cTyp b)
  else if isHeavy (cTyp a) || isHeavy (cTyp b) then xHand c enc [(2, cmpTgt d)] a b (cmpReg d)
  else
    let v := numRel r (cellNum a) (cellNum b)
    landFp c [(2, cmpTgt d, cmpOut d v.1)] v.2
    pure .seq

/-- Both operands of a comparison from registers. -/
def xRegs (c : CtxId) (ra rb : BitVec 5) : X (Cell × Cell) := do
  let a ← wRead c ra
  let b ← wRead c rb
  pure (a, b)

/-- EQ (R166). -/
def execEq (h : Hd) (f : FA) (s : State) : Out := issueOut h (encA 0x08 0x10 h f) (do
  let r ← xRegs h.ctx f.sa f.sb
  xIdent h.ctx (.w f.dst) false r.1 r.2) s
/-- EQL (R166). -/
def execEql (h : Hd) (f : FA) (s : State) : Out := issueOut h (encA 0x08 0x11 h f) (do
  let r ← xRegs h.ctx f.sa f.sb
  xEql h.ctx (encA 0x08 0x11 h f) (.w f.dst) r.1 r.2) s

/-- An ordered comparison to a word register. -/
def xOrdW (h : Hd) (f : FA) (enc : BitVec 48) (r : Rel) : X Adv := do
  let v ← xRegs h.ctx f.sa f.sb
  xOrd h.ctx enc (.w f.dst) r v.1 v.2

/-- LT (R166). -/
def execLt (h : Hd) (f : FA) (s : State) : Out := issueOut h (encA 0x08 0x12 h f) (xOrdW h f (encA 0x08 0x12 h f) .lt) s
/-- LE (R166). -/
def execLe (h : Hd) (f : FA) (s : State) : Out := issueOut h (encA 0x08 0x13 h f) (xOrdW h f (encA 0x08 0x13 h f) .le) s
/-- GT (R166). -/
def execGt (h : Hd) (f : FA) (s : State) : Out := issueOut h (encA 0x08 0x14 h f) (xOrdW h f (encA 0x08 0x14 h f) .gt) s
/-- GE (R166). -/
def execGe (h : Hd) (f : FA) (s : State) : Out := issueOut h (encA 0x08 0x15 h f) (xOrdW h f (encA 0x08 0x15 h f) .ge) s

/-- CMPEQ (R165). -/
def execCmpeq (h : Hd) (f : FP) (s : State) : Out := issueOut h (encP 0x00 h f) (do
  let r ← xRegs h.ctx f.sa f.sb
  xIdent h.ctx (.p f.pd) false r.1 r.2) s
/-- CMPNE (R165). -/
def execCmpne (h : Hd) (f : FP) (s : State) : Out := issueOut h (encP 0x01 h f) (do
  let r ← xRegs h.ctx f.sa f.sb
  xIdent h.ctx (.p f.pd) true r.1 r.2) s
/-- CMPEQL (R166). -/
def execCmpeql (h : Hd) (f : FP) (s : State) : Out := issueOut h (encP 0x02 h f) (do
  let r ← xRegs h.ctx f.sa f.sb
  xEql h.ctx (encP 0x02 h f) (.p f.pd) r.1 r.2) s

/-- An ordered comparison to a predicate. -/
def xOrdP (h : Hd) (f : FP) (enc : BitVec 48) (r : Rel) : X Adv := do
  let v ← xRegs h.ctx f.sa f.sb
  xOrd h.ctx enc (.p f.pd) r v.1 v.2

/-- CMPLT (R166). -/
def execCmplt (h : Hd) (f : FP) (s : State) : Out := issueOut h (encP 0x03 h f) (xOrdP h f (encP 0x03 h f) .lt) s
/-- CMPLE (R166). -/
def execCmple (h : Hd) (f : FP) (s : State) : Out := issueOut h (encP 0x04 h f) (xOrdP h f (encP 0x04 h f) .le) s
/-- CMPGT (R166). -/
def execCmpgt (h : Hd) (f : FP) (s : State) : Out := issueOut h (encP 0x05 h f) (xOrdP h f (encP 0x05 h f) .gt) s
/-- CMPGE (R166). -/
def execCmpge (h : Hd) (f : FP) (s : State) : Out := issueOut h (encP 0x06 h f) (xOrdP h f (encP 0x06 h f) .ge) s

/-- CMPEQI (R165). -/
def execCmpeqi (h : Hd) (f : FPI) (s : State) : Out := issueOut h (encPI 0 h f) (do
  let a ← wRead h.ctx f.sa
  xIdent h.ctx (.p f.pd) false a (immFix f.imm)) s
/-- CMPNEI (R165). -/
def execCmpnei (h : Hd) (f : FPI) (s : State) : Out := issueOut h (encPI 1 h f) (do
  let a ← wRead h.ctx f.sa
  xIdent h.ctx (.p f.pd) true a (immFix f.imm)) s
/-- CMPEQLI (R165). -/
def execCmpeqli (h : Hd) (f : FPI) (s : State) : Out := issueOut h (encPI 2 h f) (do
  let a ← wRead h.ctx f.sa
  xEql h.ctx (encPI 2 h f) (.p f.pd) a (immFix f.imm)) s

/-- An ordered comparison with IMM24. -/
def xOrdI (h : Hd) (f : FPI) (enc : BitVec 48) (r : Rel) : X Adv := do
  let a ← wRead h.ctx f.sa
  xOrd h.ctx enc (.p f.pd) r a (immFix f.imm)

/-- CMPLTI (R165). -/
def execCmplti (h : Hd) (f : FPI) (s : State) : Out := issueOut h (encPI 3 h f) (xOrdI h f (encPI 3 h f) .lt) s
/-- CMPLEI (R165). -/
def execCmplei (h : Hd) (f : FPI) (s : State) : Out := issueOut h (encPI 4 h f) (xOrdI h f (encPI 4 h f) .le) s
/-- CMPGTI (R165). -/
def execCmpgti (h : Hd) (f : FPI) (s : State) : Out := issueOut h (encPI 5 h f) (xOrdI h f (encPI 5 h f) .gt) s
/-- CMPGEI (R165). -/
def execCmpgei (h : Hd) (f : FPI) (s : State) : Out := issueOut h (encPI 6 h f) (xOrdI h f (encPI 6 h f) .ge) s

/-! ## Type tests (R177) -/

/-- A type test: never traps. -/
def xTest (c : CtxId) (f : FP) (t : Cell → Bool) : X Adv := do
  let a ← wRead c f.sa
  landP c 2 f.pd (t a)
  pure .seq

/-- TTYPE. -/
def execTtype (h : Hd) (f : FP) (s : State) : Out := issueOut h (encP 0x10 h f) (xTest h.ctx f fun a => cTyp a = f.tcode) s
/-- TPTR. -/
def execTptr (h : Hd) (f : FP) (s : State) : Out := issueOut h (encP 0x11 h f) (xTest h.ctx f fun a => isPtr (cTyp a)) s
/-- TIMM. -/
def execTimm (h : Hd) (f : FP) (s : State) : Out :=
  issueOut h (encP 0x12 h f) (xTest h.ctx f fun a => decide (1 ≤ (cTyp a).toNat ∧ (cTyp a).toNat ≤ 9) || cTyp a = tEXTI) s
/-- TLIST. -/
def execTlist (h : Hd) (f : FP) (s : State) : Out := issueOut h (encP 0x13 h f) (xTest h.ctx f fun a => cTyp a = tCONS || isNil a) s
/-- TNUM. -/
def execTnum (h : Hd) (f : FP) (s : State) : Out := issueOut h (encP 0x14 h f) (xTest h.ctx f fun a => isNum (cTyp a)) s

/-! ## Predicates (R105, R133, R135) -/

/-- A predicate operation. -/
def xPred (c : CtxId) (f : FPL) (op : Bool → Bool → Bool) : X Adv := do
  let x ← xCtx c
  landP c 2 f.pd (op (pGet x f.pa) (pGet x f.pb))
  pure .seq

/-- PAND. -/
def execPand (h : Hd) (f : FPL) (s : State) : Out := issueOut h (encPL 0x00 h f) (xPred h.ctx f fun a b => a && b) s
/-- POR. -/
def execPor (h : Hd) (f : FPL) (s : State) : Out := issueOut h (encPL 0x01 h f) (xPred h.ctx f fun a b => a || b) s
/-- PXOR. -/
def execPxor (h : Hd) (f : FPL) (s : State) : Out := issueOut h (encPL 0x02 h f) (xPred h.ctx f fun a b => a != b) s
/-- PANDN. -/
def execPandn (h : Hd) (f : FPL) (s : State) : Out := issueOut h (encPL 0x03 h f) (xPred h.ctx f fun a b => a && !b) s
/-- PNOT. -/
def execPnot (h : Hd) (f : FPL) (s : State) : Out := issueOut h (encPL 0x04 h f) (xPred h.ctx f fun a _ => !a) s
/-- PMOV. -/
def execPmov (h : Hd) (f : FPL) (s : State) : Out := issueOut h (encPL 0x05 h f) (xPred h.ctx f fun a _ => a) s
/-- PFLAG (R105, R135). -/
def execPflag (h : Hd) (f : FPL) (s : State) : Out := issueOut h (encPL 0x10 h f) (do
  let x ← xCtx h.ctx
  landP h.ctx 2 f.pd (x.status.getLsbD f.flag.toNat)
  pure .seq) s

/-! ## Twist-major instructions (R163, R178, R186) -/

/-- QUO, REM, MOD: the type checks at issue; the routine does the rest. -/
def xDivide (h : Hd) (f : FA) (enc : BitVec 48) : X Adv := do
  let r ← xTwo h.ctx f.sa f.sb
  chkDispatch (cTyp r.1) (cTyp r.2)
  let int (t : BitVec 6) : Bool := t = tFIX || t = tBIG
  if !int (cTyp r.1) || !int (cTyp r.2) then typeFault (cTyp r.1) (cTyp r.2)
  xHand h.ctx enc [(6, .word f.dst)] r.1 r.2 f.dst

/-- QUO. -/
def execQuo (h : Hd) (f : FA) (s : State) : Out := issueOut h (encA 0x38 0x00 h f) (xDivide h f (encA 0x38 0x00 h f)) s
/-- REM. -/
def execRem (h : Hd) (f : FA) (s : State) : Out := issueOut h (encA 0x38 0x01 h f) (xDivide h f (encA 0x38 0x01 h f)) s
/-- MOD. -/
def execMod (h : Hd) (f : FA) (s : State) : Out := issueOut h (encA 0x38 0x02 h f) (xDivide h f (encA 0x38 0x02 h f)) s

/-- MEMQ, ASSQ, MEMV: the item and the list are checked at issue. -/
def xWalkIssue (h : Hd) (f : FA) (enc : BitVec 48) : X Adv := do
  let r ← xTwo h.ctx f.sa f.sb
  if cTyp r.2 ≠ tCONS ∧ !isNil r.2 then typeFault (cTyp r.1) (cTyp r.2)
  xHand h.ctx enc [(6, .word f.dst)] r.1 r.2 f.dst

/-- MEMQ. -/
def execMemq (h : Hd) (f : FA) (s : State) : Out := issueOut h (encA 0x38 0x08 h f) (xWalkIssue h f (encA 0x38 0x08 h f)) s
/-- ASSQ. -/
def execAssq (h : Hd) (f : FA) (s : State) : Out := issueOut h (encA 0x38 0x09 h f) (xWalkIssue h f (encA 0x38 0x09 h f)) s
/-- MEMV. -/
def execMemv (h : Hd) (f : FA) (s : State) : Out := issueOut h (encA 0x38 0x0A h f) (xWalkIssue h f (encA 0x38 0x0A h f)) s
/-- LENGTH. -/
def execLength (h : Hd) (f : FA) (s : State) : Out := issueOut h (encA 0x38 0x0B h f) (do
  let a ← xOne h.ctx f.sa
  if cTyp a ≠ tCONS ∧ !isNil a then typeFault (cTyp a) 0
  xHand h.ctx (encA 0x38 0x0B h f) [(6, .word f.dst)] a nilCell f.dst) s
/-- TYPEV (R178). -/
def execTypev (h : Hd) (f : FA) (s : State) : Out := issueOut h (encA 0x38 0x10 h f) (do
  let r ← xTwo h.ctx f.sa f.sb
  if cTyp r.1 ≠ tVEC ∨ cTyp r.2 ≠ tFIX ∨ (cDat r.2).toNat ≥ 128 then typeFault (cTyp r.1) (cTyp r.2)
  xHand h.ctx (encA 0x38 0x10 h f) [(6, .word f.dst)] r.1 r.2 f.dst) s

end Sys2Proof.Machine
end

