-- ==== Sys2Proof/Machine/FpInstr.lean ====
section
/-! DEFINITION. The FP-class instructions (R79, R195 to R200). -/

namespace Sys2Proof.Machine

/-- An f register read; a parity error raises the cell check fault (R79). -/
def fRead (c : CtxId) (r : BitVec 4) : X (BitVec 64) := fun s =>
  let q := spOf s c
  let p := getSp s q
  if p.fpBad.contains r then
    .error (.exc { code := 0x01 })
      (logEvent 0x0F 3 (spSk q).toNat (32 + physPos (getSk s (spSk q)) (spLs q)) (some c) none 0 s)
  else .ok (mapGet 0 p.fp r.toNat) s

/-- What an FP-class instruction computes: its landings and the exceptions it raised. -/
structure FpRes where
  lands : List (Nat × Tgt × BitVec 64)
  flags : BitVec 5 := 0
deriving DecidableEq, Repr

/-- FTOFIX (R197): the landed cell and the exceptions. -/
def ftofix (v : FVal) : Cell × BitVec 5 :=
  match v with
  | .fin s m e =>
    let t := fTrunc s m e
    if inFix t.1 then (fixInt t.1, if t.2 then fpFlags true false false false false else 0) else (unsetCell, flagIV)
  | _ => (unsetCell, flagIV)

/-- An FP-class operation by minor code on the file the context owns; `w` is the number of a word operand. -/
def fpCompute (c : CtxId) (minor : Nat) (dst sa sb : BitVec 5) (w : Num) : X FpRes := do
  let x ← xCtx c
  let rm := rmOf x
  let d4 : Tgt := .fp (dst.extractLsb' 0 4)
  let a : X (BitVec 64) := fRead c (sa.extractLsb' 0 4)
  let b : X (BitVec 64) := fRead c (sb.extractLsb' 0 4)
  let dec (v : BitVec 64) : FVal := fDecode f64 v.toNat
  let out (r : Nat × BitVec 5) : FpRes := { lands := [(4, d4, BitVec.ofNat 64 r.1)], flags := r.2 }
  let two (k : FVal → FVal → Nat × BitVec 5) : X FpRes := do
    let u ← a
    let v ← b
    pure (out (k (dec u) (dec v)))
  match minor with
  | 0x00 => two (fAdd f64 rm)
  | 0x01 => two (fSub f64 rm)
  | 0x02 => two (fMul f64 rm)
  | 0x03 => two (fDiv f64 rm)
  | 0x04 => do
    let u ← a
    let v ← b
    pure (out (fMinMax f64 false u.toNat v.toNat))
  | 0x05 => do
    let u ← a
    let v ← b
    pure (out (fMinMax f64 true u.toNat v.toNat))
  | 0x06 => do
    let u ← a
    pure (out ((u ^^^ (1#64 <<< 63)).toNat, 0))
  | 0x07 => do
    let u ← a
    pure (out ((u &&& ~~~(1#64 <<< 63)).toNat, 0))
  | 0x08 => do
    let u ← a
    pure (out (u.toNat, 0))
  | 0x09 => do
    let u ← a
    pure (out (fSqrt f64 rm (dec u)))
  | 0x10 => do
    let u ← a
    let v ← b
    let o := fOrder (dec u) (dec v)
    let fl := if fSig (dec u) || fSig (dec v) then flagIV else 0
    pure { lands := [(3, .status, (fcmpFlags (o = some .eq) (o = some .lt) o.isNone).setWidth 64)], flags := fl }
  | 0x20 =>
    let r : Nat × BitVec 5 := match w with
      | .int i => fRound f64 rm (decide (i < 0)) i.natAbs 0 false
      | .s64 b => (b.toNat, 0)
      | .s32 _ => match numVal w with
        | .nan g => (fQnan f64, if g then flagIV else 0)
        | .inf s => (fInf f64 s, 0)
        | .fin s m e => fRound f64 rm s m e false
    pure (out r)
  | 0x21 => do
    let u ← a
    let r : Nat × BitVec 5 := match dec u with
      | .nan g => (fQnan f32, if g then flagIV else 0)
      | .inf s => (fInf f32 s, 0)
      | .fin s m e => fRound f32 rm s m e false
    pure { lands := [(4, .word dst, f32Cell (BitVec.ofNat 32 r.1))], flags := r.2 }
  | _ => do
    let u ← a
    let r := ftofix (dec u)
    pure { lands := [(4, .word dst, r.1)], flags := r.2 }

/-- An FP-class instruction: FP-unavailable without a save area, an exchange when the context does not own the file (R199); FFROMW
of BIG or F64 is a twist case (R155). `w` is the word operand of FFROMW. -/
def xFp (h : Hd) (f : FA) (enc : BitVec 48) (w : Cell) : X Adv := do
  let c := h.ctx
  let x ← xCtx c
  if fpsaZero x then xFault 0x23
  let s ← get
  let lands := resumeLands enc
  if (getSp s (ctxSp x)).fpOwner ≠ some c then do
    lands.forM fun l => landWait c l.1 l.2
    xTwist c enc .fpx w nilCell f.dst
    pure .seq
  else if isHeavy (cTyp w) then xHand c enc lands w nilCell f.dst
  else do
    let r ← fpCompute c (bits enc.toNat 0 8) f.dst f.sa f.sb (cellNum w)
    landFp c r.lands r.flags
    pure .seq

/-- An FP-class instruction on f registers. -/
def fpOut (h : Hd) (f : FA) (enc : BitVec 48) (s : State) : Out := issueOut h enc (xFp h f enc nilCell) s

/-- FADD. -/
def execFadd (h : Hd) (f : FA) (s : State) : Out := fpOut h f (encA 0x30 0x00 h f) s
/-- FSUB. -/
def execFsub (h : Hd) (f : FA) (s : State) : Out := fpOut h f (encA 0x30 0x01 h f) s
/-- FMUL. -/
def execFmul (h : Hd) (f : FA) (s : State) : Out := fpOut h f (encA 0x30 0x02 h f) s
/-- FDIV. -/
def execFdiv (h : Hd) (f : FA) (s : State) : Out := fpOut h f (encA 0x30 0x03 h f) s
/-- FMIN. -/
def execFmin (h : Hd) (f : FA) (s : State) : Out := fpOut h f (encA 0x30 0x04 h f) s
/-- FMAX. -/
def execFmax (h : Hd) (f : FA) (s : State) : Out := fpOut h f (encA 0x30 0x05 h f) s
/-- FNEG. -/
def execFneg (h : Hd) (f : FA) (s : State) : Out := fpOut h f (encA 0x30 0x06 h f) s
/-- FABS. -/
def execFabs (h : Hd) (f : FA) (s : State) : Out := fpOut h f (encA 0x30 0x07 h f) s
/-- FMOV. -/
def execFmov (h : Hd) (f : FA) (s : State) : Out := fpOut h f (encA 0x30 0x08 h f) s
/-- FSQRT. -/
def execFsqrt (h : Hd) (f : FA) (s : State) : Out := fpOut h f (encA 0x30 0x09 h f) s
/-- FCMP (R196). -/
def execFcmp (h : Hd) (f : FA) (s : State) : Out := fpOut h f (encA 0x30 0x10 h f) s
/-- FFROMW (R197). -/
def execFfromw (h : Hd) (f : FA) (s : State) : Out := issueOut h (encA 0x30 0x20 h f) (do
  let x ← xCtx h.ctx
  if fpsaZero x then xFault 0x23
  let a ← xOne h.ctx f.sa
  if !isNum (cTyp a) then typeFault (cTyp a) 0
  xFp h f (encA 0x30 0x20 h f) a) s
/-- FTOF32 (R197). -/
def execFtof32 (h : Hd) (f : FA) (s : State) : Out := fpOut h f (encA 0x30 0x21 h f) s
/-- FTOFIX (R197). -/
def execFtofix (h : Hd) (f : FA) (s : State) : Out := fpOut h f (encA 0x30 0x22 h f) s

end Sys2Proof.Machine
end

