-- ==== Sys2Proof/Machine/Twist.lean ====
section
/-! DEFINITION. What the routines of the twist units compute: generic arithmetic and comparisons on BIG and F64, division, list walks,
TYPEV, FFROMW, exchanges of the f file (R155 to R171, R178, R186 to R188, R199, R200). -/

namespace Sys2Proof.Machine

/-! ## Memory accesses of a routine (R232) -/

/-- A cell that a routine loads, and its memory type. What an earlier performance has obtained of DEVICE or HOST memory is not translated again
(R400). -/
def rCell (c : CtxId) (lvl : BitVec 2) (va : VAddr) : X (Cell × Nat) := do
  match (← xKept c va) with
  | some k => pure (k.v, k.mt)
  | none => do
    let r ← xlate c lvl true va .read
    let v ← (if r.2 = 0 then xUnitRead c va r.1 else xIo c true va r.1 r.2)
    pure (v, r.2)

/-- A load of a routine as an access of its context at the request's level, through the load barrier. -/
def rLoad (c : CtxId) (lvl : BitVec 2) (va : VAddr) : X Cell := do
  let x ← xCtx c
  let r ← rCell c lvl va
  xBarrier c x.skein lvl r.1 (fieldOf va r.2)

/-- The length of an object whose header suits its class (R62, R170). -/
def rHeader (c : CtxId) (lvl : BitVec 2) (o : Cell) : X Nat := do
  let h ← rLoad c lvl (cDat o)
  if !hdrOk (cTyp o) h then xFault 0x14 (cDat o)
  pure (hdrLen h)

/-- Payload cells 1 to n of an object. -/
def rPayload (c : CtxId) (lvl : BitVec 2) (o : Cell) (n : Nat) : X (List Cell) :=
  (upto n).mapM fun (i : Nat) => do
    let va ← xEa c (cDat o) (i + 1) .read
    rLoad c lvl va

/-- The limb limit of R171. -/
def limbLimit : Nat := 8192

/-- The integer that limbs hold, least significant first (R68). -/
def limbsInt (ls : List Datum) : Int :=
  let n := ls.foldr (fun d acc => d.toNat + 2 ^ 48 * acc) 0
  let m : Nat := 2 ^ (48 * ls.length)
  if 2 * n < m then n else (n : Int) - m

/-- The normalised limbs of an integer outside the FIX range (R68). -/
def intLimbs (i : Int) : List Datum :=
  let m : Nat := if i < 0 then (-i - 1).toNat else i.toNat
  let n := (Nat.log2 m + 2 + 47) / 48
  (upto n).map fun k => BitVec.ofInt 48 (i / 2 ^ (48 * k))

/-- The integer of a FIX or BIG operand. The type codes are those of the instruction's operands, for the dispatch trap; `lim`: the limb limit
applies (R171). -/
def rIntLim (c : CtxId) (lvl : BitVec 2) (lim : Bool) (ta tb : BitVec 6) (v : Cell) : X Int := do
  if cTyp v ≠ tBIG then pure (fixVal v)
  else do
    let n ← rHeader c lvl v
    if lim && decide (n > limbLimit) then dispTrap 1 ta tb
    let ls ← rPayload c lvl v n
    pure (limbsInt (ls.map cDat))

/-- The integer of an operand under the limb limit. -/
def rInt (c : CtxId) (lvl : BitVec 2) (ta tb : BitVec 6) (v : Cell) : X Int := rIntLim c lvl true ta tb v

/-- A numeric operand (R170); `lim`: the limb limit applies. -/
def rNumLim (c : CtxId) (lvl : BitVec 2) (lim : Bool) (ta tb : BitVec 6) (v : Cell) : X Num := do
  if cTyp v = tF64 then do
    let n ← rHeader c lvl v
    let ls ← rPayload c lvl v n
    let w (i : Nat) : BitVec 32 := (ls.getD i 0).extractLsb' 0 32
    pure (.s64 (w 1 ++ w 0))
  else if cTyp v = tF32 then pure (.s32 (v.extractLsb' 0 32))
  else do
    let i ← rIntLim c lvl lim ta tb v
    pure (.int i)

/-- A numeric operand under the limb limit. -/
def rNum (c : CtxId) (lvl : BitVec 2) (ta tb : BitVec 6) (v : Cell) : X Num := rNumLim c lvl true ta tb v

/-- Allocate an object for a routine: lines zeroed, cells stored, ALLOC_PTR advanced (R189 to R193). -/
def rAlloc (c : CtxId) (lvl : BitVec 2) (cells : List Cell) : X VAddr := do
  let size := (cells.length + 1) / 2 * 2
  let p ← xAllocRoom c size
  let pas ← cells.zipIdx.mapM fun e => do
    let va := vAddW p e.2
    let pa ← xlateNormal c lvl true va .write
    pure (va, pa, e.1)
  let lns ← xAllocLines c lvl true p size
  lns.forM fun l => (upto 8).forM fun i => xUnitStore c 0 (paOf (l * 8 + i)) 0
  pas.forM fun e => xUnitStore c e.1 e.2.1 e.2.2
  xMod (setAx c 7 (vAddW p size))
  pure p

/-- A new pointer of the good colour. -/
def rBox (c : CtxId) (lvl : BitVec 2) (ty : BitVec 6) (payload : List Datum) : X Cell := do
  let h : Cell := mkCell 0 tHDR (dat payload.length)
  let p ← rAlloc c lvl (h :: payload.map rawCell)
  let s ← get
  pure (mkCell (goodOf s c) ty p)

/-- An integer result: FIX, or a BIG of at most the limb limit (R68, R171). -/
def rIntCell (c : CtxId) (lvl : BitVec 2) (ta tb : BitVec 6) (i : Int) : X Cell := do
  if inFix i then pure (fixInt i)
  else if (intLimbs i).length > limbLimit then dispTrap 1 ta tb
  else rBox c lvl tBIG (intLimbs i)

/-- A numeric result. -/
def rNumCell (c : CtxId) (lvl : BitVec 2) (ta tb : BitVec 6) (n : Num) : X Cell :=
  match n with
  | .int i => rIntCell c lvl ta tb i
  | .s32 b => pure (f32Cell b)
  | .s64 b => rBox c lvl tF64 [(b.extractLsb' 0 32).setWidth 48, (b.extractLsb' 32 32).setWidth 48]

/-- Record float exceptions; an enabled one is the precise FP exception fault (R169, R347). -/
def rFlags (c : CtxId) (fl : BitVec 5) : X Unit := do
  let x ← xCtx c
  xMod (updCtx c fun x => { x with fpflags := x.fpflags ||| fl })
  if fl &&& fpEnables x ≠ 0 then xFault 0x22 (fl.setWidth 48)

/-- What a routine delivers by target. -/
abbrev Results := Tgt → Option (BitVec 64)

/-- A word result, with STATUS. -/
def resWord (v : Cell) (st : BitVec 5) (t : Tgt) : Option (BitVec 64) :=
  match t with
  | .word _ => some v
  | .status => some (st.setWidth 64)
  | _ => none

/-- A truth value: t or nil in a word register, a bit in a predicate (R165). -/
def resBool (b : Bool) (t : Tgt) : Option (BitVec 64) :=
  match t with
  | .word _ => some (if b then tCell else nilCell)
  | .pred _ => some ((b1 b).setWidth 64)
  | _ => none

/-! ## Arithmetic (R157 to R164) -/

/-- ADD, SUB, MUL, NEG with a BIG or F64 operand, and the promotion of a FIX overflow. An F64 result that finds no room is the
allocation-limit trap before its exceptions count, and one with an enabled exception allocates nothing. -/
def rArith (c : CtxId) (r : TwReq) (o : NOp) : X Results := do
  let x ← xCtx c
  let ta := cTyp r.sa
  let tb : BitVec 6 := if o = .neg then 0 else cTyp r.sb
  let a ← rNum c r.level ta tb r.sa
  let b ← (if o = .neg then pure (.int 0) else rNum c r.level ta tb r.sb)
  let v := numOp (rmOf x) o a b
  match v.1 with
  | .s64 _ => do
    let _ ← xAllocRoom c 4
    if v.2 &&& fpEnables x ≠ 0 then rFlags c v.2
  | _ => pure ()
  let w ← rNumCell c r.level ta tb v.1
  rFlags c v.2
  let zn := numZN v.1
  pure (resWord w (numFlags zn.1 zn.2 (decide (ta = tFIX ∧ (o = .neg ∨ tb = tFIX)))))

/-- QUO, REM, MOD by minor code (R161, R163, R164). -/
def rDivide (c : CtxId) (r : TwReq) (minor : Nat) : X Results := do
  let x ← xCtx c
  let ta := cTyp r.sa
  let tb := cTyp r.sb
  let a ← rInt c r.level ta tb r.sa
  let b ← rInt c r.level ta tb r.sb
  if b = 0 then do
    if x.genctl.getLsbD 2 then xFault 0x21
    pure (resWord unsetCell 0)
  else
    let q := Int.tdiv a b
    let m := a - q * b
    let v := if minor = 0 then q else if minor = 2 ∧ m ≠ 0 ∧ decide (m < 0) ≠ decide (b < 0) then m + b else m
    if ta = tFIX ∧ tb = tFIX ∧ !inFix v ∧ !x.genctl.getLsbD 0 then do
      if x.genctl.getLsbD 1 then xFault 0x20
      pure (resWord (fixInt v) 0)
    else do
      let w ← rIntCell c r.level ta tb v
      pure (resWord w 0)

/-! ## Comparisons (R166, R167) -/

/-- EQL of two cells: numbers by value, the rest by identity; `lim`: the limb limit applies. -/
def rEql (c : CtxId) (lvl : BitVec 2) (lim : Bool) (a b : Cell) : X Bool := do
  if isNum (cTyp a) && isNum (cTyp b) then do
    let x ← rNumLim c lvl lim (cTyp a) (cTyp b) a
    let y ← rNumLim c lvl lim (cTyp a) (cTyp b) b
    pure (numEql x y)
  else pure (identical a b)

/-- The relation of an ordered comparison by the distance of its minor code from that of LT. -/
def relOf (n : Nat) : Rel :=
  match n with
  | 0 => .lt
  | 1 => .le
  | 2 => .gt
  | _ => .ge

/-- An ordered comparison. -/
def rOrd (c : CtxId) (r : TwReq) (rel : Rel) : X Results := do
  let a ← rNum c r.level (cTyp r.sa) (cTyp r.sb) r.sa
  let b ← rNum c r.level (cTyp r.sa) (cTyp r.sb) r.sb
  let v := numRel rel a b
  rFlags c v.2
  pure (resBool v.1)

/-! ## Walks (R186 to R188) -/

/-- A cell of a CONS: the alignment fault for an odd pointer (R59). -/
def rConsCell (c : CtxId) (lvl : BitVec 2) (l : Cell) (i : Nat) : X Cell := do
  if vOff (cDat l) % 2 = 1 then xFault 0x13 (cDat l)
  rLoad c lvl (vAddW (cDat l) i)

/-- What a walk looks for: MEMQ, ASSQ, MEMV by minor code, and LENGTH. MEMV never raises the dispatch trap: no limb limit applies (R186). -/
def rMatch (c : CtxId) (lvl : BitVec 2) (minor : Nat) (item l : Cell) : X (Option Cell) := do
  if minor = 0x0B then pure none
  else do
    let e ← rConsCell c lvl l 0
    if minor = 0x08 then pure (if identical e item then some l else none)
    else if minor = 0x0A then do
      let m ← rEql c lvl false e item
      pure (if m then some l else none)
    else if cTyp e = tCONS then do
      let k ← rConsCell c lvl e 0
      pure (if identical k item then some e else none)
    else if isNil e then pure none
    else typeFault (cTyp e) 0

/-- One CONS cell of a walk, `n` of them behind: the result of the walk, or the elements behind and the cell reached after it. -/
def rWalkOne (c : CtxId) (lvl : BitVec 2) (minor lim : Nat) (item : Cell) (n : Nat) (l : Cell) : X (Cell ⊕ (Nat × Cell)) := do
  if isNil l then pure (.inl (if minor = 0x0B then fixCell (dat n) else nilCell))
  else if cTyp l ≠ tCONS then typeFault (cTyp l) 0
  else do
    if lim ≠ 0 ∧ n + 1 > lim then xFault 0x16 (dat lim)
    let m ← rMatch c lvl minor item l
    match m with
    | some v => pure (.inl v)
    | none => do
      let d ← rConsCell c lvl l 1
      pure (.inr (n + 1, d))

/-- Walk a list: at most `fuel` CONS cells; `note` keeps what is reached (R188). A walk that has not ended by then does not end. -/
def rWalk (c : CtxId) (lvl : BitVec 2) (minor lim : Nat) (item : Cell) (note : Nat → Cell → X Unit) : Nat → Nat → Cell → X Cell
  | 0, _, _ => xWait
  | fuel + 1, n, l => do
    note n l
    let r ← rWalkOne c lvl minor lim item n l
    match r with
    | .inl v => pure v
    | .inr (n, l) => rWalk c lvl minor lim item note fuel n l

/-- The request is a walk: MEMQ, ASSQ, MEMV or LENGTH. -/
def isWalk (r : TwReq) : Bool := decide (r.kind = .op) && decide (r.major = 0x38) && decide (8 ≤ r.minor.toNat ∧ r.minor.toNat ≤ 0x0B)

/-- The list of a walk. -/
def walkList (r : TwReq) : Cell := if r.minor.toNat = 0x0B then r.sa else r.sb

/-- WALKLIM.LIMIT (R187). -/
def walkLim (x : Ctx) : Nat := bits (axGet x 3).toNat 0 41

/-- A walk instruction, from the cell it has reached. A list has fewer CONS cells than there are addresses, unless it is circular. -/
def rList (c : CtxId) (r : TwReq) (walk : Option (Nat × Cell)) (note : Nat → Cell → X Unit) : X Results := do
  let x ← xCtx c
  let w := walk.getD (0, walkList r)
  let v ← rWalk c r.level r.minor.toNat (walkLim x) r.sa note (2 ^ 48) w.1 w.2
  pure (resWord v 0)

/-- TYPEV from an element on (R178). -/
def rTypev (c : CtxId) (lvl : BitVec 2) (o : Cell) (ok : Cell → Bool) (len : Nat) : Nat → X Int
  | 0 => pure (-1)
  | k + 1 => do
    let va ← xEa c (cDat o) (len - k : Nat) .read
    let v ← rLoad c lvl va
    if ok v then rTypev c lvl o ok len k else pure ((len - k - 1 : Nat) : Int)

/-! ## The f register file (R199, R200) -/

/-- An exchange: the previous owner's file saved if written, the context's registers loaded if SAVED, ownership passed. -/
def rExchange (c : CtxId) : X Unit := do
  xMod fun s => fpSave (spOf s c) s
  let x ← xCtx c
  let d ← (fun s => .ok (axNow c 5 s).1 (axNow c 5 s).2 : X Datum)
  let cells ← (if x.fpSaved then
      (upto 32).mapM fun (i : Nat) => do
        let a := fpCellOf d i
        xUnit c a false
        xRead c (a.setWidth 48) a
    else pure [])
  let w (i : Nat) : BitVec 32 := (cells.getD i 0).extractLsb' 0 32
  xMod fun s => updSp (spOf s c) (fun p => { p with
    fp := (upto 16).foldl (fun m i => mapSet 0 m i (w (2 * i + 1) ++ w (2 * i))) []
    fpBad := [], fpOwner := some c, fpWritten := false }) s

/-- The FP-class instruction of a request: its results, its exceptions precise (R347). -/
def rFp (c : CtxId) (r : TwReq) : X Results := do
  let f (lo : Nat) : BitVec 5 := r.enc.extractLsb' lo 5
  let w ← (if isNum (cTyp r.sa) then rNum c r.level (cTyp r.sa) 0 r.sa else pure (.int 0))
  let o ← fpCompute c (bits r.enc.toNat 0 8) (f 31) (f 26) (f 21) w
  rFlags c o.flags
  pure fun t => match o.lands.find? fun l => l.2.1 = t with
    | some l => some l.2.2
    | none => none

/-! ## The routine of a request -/

/-- The effect of a request other than a slow path, and what it delivers. `walk`, `note`: how far a walk has come. -/
def routine (c : CtxId) (r : TwReq) (walk : Option (Nat × Cell)) (note : Nat → Cell → X Unit) : X Results :=
  let m := r.minor.toNat
  match r.kind with
  | .slow _ _ => xWait
  | .fpland => do
    rExchange c
    pure fun _ => none
  | .fpx => do
    rExchange c
    rFp c r
  | .op =>
    match r.major.toNat with
    | 0x08 =>
      if m = 0 then rArith c r .add
      else if m = 1 then rArith c r .sub
      else if m = 2 then rArith c r .neg
      else if m = 0x11 then do
        let b ← rEql c r.level true r.sa r.sb
        pure (resBool b)
      else rOrd c r (relOf (m - 0x12))
    | 0x09 => rArith c r (if m = 0 then .add else .sub)
    | 0x0A => rArith c r .mul
    | 0x30 => rFp c r
    | 0x38 =>
      if m ≤ 2 then rDivide c r m
      else if m ≤ 0x0B then rList c r walk note
      else do
        let n ← rHeader c r.level r.sa
        let k := (cDat r.sb).toNat
        let ok (v : Cell) : Bool := decide ((cTyp v).toNat = k % 64) || (bitN k 6 && isNil v)
        let i ← rTypev c r.level r.sa ok n n
        pure (resWord (fixInt i) 0)
    | _ =>
      if m = 2 then do
        let b ← rEql c r.level true r.sa r.sb
        pure (resBool b)
      else rOrd c r (relOf (m - 3))

end Sys2Proof.Machine
end

