-- ==== Sys2Proof/Machine/TwistUnit.lean ====
section
/-! DEFINITION. The twist units: the microword, its datapath, sequencing and faults, micro-traps and the micro-state record (R231 to
R253), the load-barrier slow path (R494 to R500). -/

namespace Sys2Proof.Machine

/-! ## Units and requests -/

/-- A twist unit of a skein. -/
def getUnit (s : State) (k : SkId) (u : BitVec 2) : TUnit := mapGet {} (getSk s k).units u.toNat

/-- Store a twist unit. -/
def setUnit (k : SkId) (u : BitVec 2) (x : TUnit) (s : State) : State :=
  updSk k (fun y => { y with units := mapSet {} y.units u.toNat x }) s

/-- Change a twist unit. -/
def updUnit (k : SkId) (u : BitVec 2) (f : TUnit → TUnit) (s : State) : State := setUnit k u (f (getUnit s k u)) s

/-- The flow with which the slot of a parked context began. -/
def parkBack (x : Ctx) : Flow :=
  match x.park with
  | some (.twist b) => b
  | some (.mem _ _ b) => b
  | some (.carder _ b) => b
  | some (.ext _ _ b) => b
  | _ => x.flow

/-- A parked context becomes eligible at its instruction, which will issue again (R247, R251). -/
def parkRedo (c : CtxId) (s : State) : State :=
  resumeParked c (updCtx c (fun x => { x with
    flow := parkBack x, ioVals := [], ioIdx := 0, hostReq := none, hostSent := false, land := x.land.filter fun l => l.arrived }) s)

/-- The routine of a context has executed a microword. -/
def twStarted (s : State) (c : CtxId) : Bool :=
  (getSk s (getCtx s c).skein).units.any fun u => u.2.started && (match u.2.req with
    | some r => decide (r.ctx = c)
    | none => false)

/-- A request for an f landing that is due: no interrupt comes before it takes effect (R200). -/
def landFirst (s : State) (c : CtxId) : Bool :=
  fileDue s c && (getSk s (getCtx s c).skein).units.all fun u => !unitOf u.2 c || (match u.2.req with
    | some r => decide (r.kind = .fpland)
    | none => true)

/-- An interrupt of a context whose request has not started: the request is discarded, the instruction issues again (R246, R251). -/
def twInterrupt (c : CtxId) (s : State) : State :=
  let x := getCtx s c
  if x.st = .parked ∧ twBusy s c ∧ !twStarted s c ∧ !landFirst s c ∧ (bestSource s x).isSome then parkRedo c (twDiscard c s) else s

/-- A claim of a unit returns to pending, with the access of its context (R495). -/
def unitRelease (k : SkId) (r : TwReq) (un : TUnit) (s : State) : State :=
  let x := getCtx s r.ctx
  releaseClaim k x.hv x.hank un.claim s

/-- A unit ends the routine of a context with a fault at the instruction: no record, nothing lands; a claimed granule returns to pending (R240,
R250). A record that the unit was to restore is consumed (R251). -/
def unitFault (k : SkId) (u : BitVec 2) (r : TwReq) (e : Exc) (s : State) : State :=
  let un := getUnit s k u
  let s := unitRelease k r un (setUnit k u (unitFree un) s)
  if (getCtx s r.ctx).gen ≠ r.gen then s
  else memFault r.ctx r.enc (parkBack (getCtx s r.ctx)) e (if un.restore.isSome then updCtx r.ctx (fun x => { x with ms := {} }) s else s)

/-! ## Starting (R231, R234, R251, R252) -/

/-- The unit's state from a record (R248, R251). -/
def unitOfRec (un : TUnit) (r : TwReq) (m : MicroRec) : TUnit :=
  { unitFree un with
    req := some r, restore := some m, upc := m.upc, flags := m.flags
    stack := (upto m.sdepth.toNat).map fun (i : Nat) => m.stack.extractLsb' (14 * i) 14
    k := mapSet 0 (mapSet 0 [] 0 m.k0) 1 m.k1
    t := mapSet 0 (mapSet 0 (mapSet 0 (mapSet 0 [] 0 m.t0) 1 m.t1) 2 m.t2) 3 m.t3, walk := m.walk, outs := m.outs }

/-- TWIST_START: a free unit takes the request at the head of its skein's queue. `entry` is the ROM address of the routine, which the
spec leaves to the ROM. A record of another patch generation is the micro-state fault (R252). -/
def execTwistStart (k : SkId) (u : BitVec 2) (entry : BitVec 14) (s : State) : Out := .next (
  let un := getUnit s k u
  match (getSk s k).twq with
  | [] => s
  | r :: rest =>
    if un.req.isSome || un.off || s.m.entering || decide (s.mode = .sleep) then s
    else
      let s := updSk k (fun y => { y with twq := rest }) s
      let x := getCtx s r.ctx
      if r.cont ∧ x.ms.mv ∧ x.ms.kind ≠ 4 then
        if x.ms.pgen ≠ s.pgen then
          memFault r.ctx r.enc (parkBack x) { code := 0x41, info := x.ms.upc.setWidth 48 } (updCtx r.ctx (fun x => { x with ms := {} }) s)
        else setUnit k u (unitOfRec un r x.ms) s
      else setUnit k u { unitFree un with req := some { r with cont := false }, upc := entry, t := mapSet 0 (mapSet 0 [] 0 r.sa) 1 r.sb } s)

/-- OVERFLOW_ADMISSION: the oldest overflow request enters the queue when an entry is free (R231). -/
def execOverflowAdmission (k : SkId) (s : State) : Out := .next (
  let y := getSk s k
  match y.twOvf with
  | [] => s
  | d :: rest =>
    if y.twq.length ≥ 64 then s
    else
      let x := getCtx s d
      let s := updSk k (fun y => { y with twOvf := rest }) s
      match x.deferred with
      | some r => updSk k (fun y => { y with twq := y.twq ++ [r] }) (updCtx d (fun x => { x with deferred := none }) s)
      | none =>
        match (if x.ms.mv ∧ x.ms.kind = 4 then x.ms.req else none) with
        | some r => updSk k (fun y => { y with twq := y.twq ++ [r] }) (updCtx d (fun x => { x with ms := {} }) s)
        | none => s)

/-! ## Micro-traps (R243 to R250) -/

/-- A scratch cell. -/
def tGet (un : TUnit) (i : Nat) : Cell := mapGet 0 un.t i

/-- Write a scratch cell. -/
def tSet (i : Nat) (v : Cell) (un : TUnit) : TUnit := { un with t := mapSet 0 un.t i v }

/-- An entry of a unit's memory operations: the scratch cell of a load, 16 for another operation, and 32 more once it has completed (R238). -/
def mopOut (m : Nat × Cell) : Bool := decide (m.1 < 32)

/-- A memory operation is outstanding. -/
def mopsOut (un : TUnit) : Bool := un.mops.any mopOut

/-- The oldest outstanding operation of a list completes; its value is not yet visible. -/
def mopEnd : List (Nat × Cell) → List (Nat × Cell)
  | [] => []
  | m :: ms => if mopOut m then (m.1 + 32, m.2) :: ms else m :: mopEnd ms

/-- Every memory operation has completed, and loaded cells become visible. -/
def mopsDone (un : TUnit) : TUnit :=
  un.mops.foldl (fun u m => if m.1 % 32 < 16 then tSet (m.1 % 32) m.2 u else u) { un with mops := [] }

/-- Issue one memory operation; a fifth one waits for the oldest (R238). -/
def mopAdd (i : Nat) (v : Cell) (un : TUnit) : TUnit :=
  let ms := if (un.mops.filter mopOut).length ≥ 4 then mopEnd un.mops else un.mops
  { un with mops := ms ++ [(i, v)] }

/-- The record of a routine at a safe point, its memory operations complete (R247, R248). -/
def unitRec (s : State) (un0 : TUnit) (r : TwReq) (kind : BitVec 3) : MicroRec :=
  let un := mopsDone un0
  let st (i : Nat) : BitVec 14 := un.stack.getD i 0
  { mv := true, kind := kind, level := r.level, sdepth := BitVec.ofNat 2 un.stack.length, major := r.major, minor := r.minor
    upc := un.upc, flags := un.flags, addr := r.addr, stack := st 2 ++ st 1 ++ st 0, pgen := s.pgen
    k0 := mapGet 0 un.k 0, k1 := mapGet 0 un.k 1, t0 := mapGet 0 un.t 0, t1 := mapGet 0 un.t 1, t2 := mapGet 0 un.t 2, t3 := mapGet 0 un.t 3
    walk := un.walk, outs := un.outs
    req := some { r with cont := true, op := match (getCtx s r.ctx).park with
      | some (.mem op _ _) => some op
      | _ => none } }

/-- Work waits in a skein's queue or overflow list. -/
def twWaiting (y : Skein) : Bool := !y.twq.isEmpty || !y.twOvf.isEmpty

/-- The micro-trap that is requested of a routine, by the KIND of its record (R245). A context that holds a record takes none but a
resumable fault (R249). -/
def trapKind (s : State) (k : SkId) (un : TUnit) (r : TwReq) : Option (BitVec 3) :=
  let x := getCtx s r.ctx
  if un.fault.isSome then some 1
  else if x.ms.mv then none
  else if s.m.entering then some 2
  else if x.st = .parked ∧ (bestSource s x).isSome ∧ !landFirst s r.ctx then some 0
  else if !fpPending x && (match x.mig with
      | some (d, _) => decide (d ≠ x.skein)
      | none => false) then some 3
  else if un.sinceStart ≥ 4096 ∧ twWaiting (getSk s k) then some 2
  else none

/-- Take a micro-trap at a safe point (R247, R249). -/
def takeTrap (k : SkId) (u : BitVec 2) (r : TwReq) (kind : BitVec 3) (s : State) : State :=
  let un := getUnit s k u
  let c := r.ctx
  let held := (getCtx s c).ms.mv
  let m := unitRec s un r kind
  let free (s : State) : State := unitRelease k r un (setUnit k u (unitFree un) s)
  let write (s : State) : State := updCtx c (fun x => { x with ms := m, hostReq := none, hostSent := false, ioVals := [] }) (free s)
  if kind = 1 then
    let e : Exc := un.fault.getD { code := 0x40 }
    let s := if held then free s else write s
    memFault c r.enc (parkBack (getCtx s c)) e s
  else if held then s
  else if kind = 0 then parkRedo c (write s)
  else if kind = 2 then twAdmit k { r with cont := true } (write s)
  else requeueTrap c (startMove c (write s))

/-- Held before its next safe point: the device issues nothing, or a FLIP holds the space (R522, R645). SLEEP entry lets routines run to
their micro-trap or to their end (R647). -/
def twHeld (s : State) (r : TwReq) : Bool := (!issuing s && !s.m.entering) || heldByFlip s (getCtx s r.ctx)

/-- The word that the sequencer gets at an address (R237, R241, R242): patch RAM, the substitute of a matched ROM address, or the ROM word. -/
def fetchWord (s : State) (upc : BitVec 14) : BitVec 144 :=
  if 0x2000 ≤ upc.toNat then mapGet 0 s.patch (upc.toNat - 0x2000)
  else match s.matchRegs.find? fun e => e.2.getLsbD 31 && decide (bits e.2.toNat 8 13 = upc.toNat) with
    | some e => mapGet 0 s.patch (bits e.2.toNat 0 8)
    | none => Config.rom upc.toNat

/-- The microword at an address is a safe point (R243). -/
def safeAt (s : State) (upc : BitVec 14) : Bool := (fetchWord s upc).getLsbD 118

/-- The exclusive-OR of a run of bits. -/
def parityOf (w : BitVec 144) (lo n : Nat) : Bool := (upto n).foldl (fun p i => xor p (w.getLsbD (lo + i))) false

/-- PAR is right (R235). -/
def parityOk (w : BitVec 144) : Bool := (upto 8).all fun k => parityOf w (8 + 17 * k) 17 == w.getLsbD k

/-- A microword as it is fetched, its parity right, shows a safe point (R240, R243). `up`: the bits that the fetch got wrong. -/
def safeFetch (s : State) (upc : BitVec 14) (up : BitVec 144) : Bool := parityOk (fetchWord s upc) && parityOk up && safeAt s upc

/-- MICRO_TRAP: the unit's routine stands at a microword; at a safe point a requested micro-trap is taken (R245, R247). `up`: the bits that the fetch
of the word got wrong, as for MICROWORD. -/
def execMicroTrap (k : SkId) (u : BitVec 2) (up : BitVec 144) (s : State) : Out := .next (
  let un := getUnit s k u
  match un.req with
  | none => s
  | some r =>
    if !un.started || un.restore.isSome || !safeFetch s un.upc up || twHeld s r then s
    else match trapKind s k un r with
      | some kd => takeTrap k u r kd s
      | none => s)

/-- TWIST_YIELD: after 4,096 microwords, with work waiting, the routine yields at its safe point (R245). `up` as for MICRO_TRAP. -/
def execTwistYield (k : SkId) (u : BitVec 2) (up : BitVec 144) (s : State) : Out := .next (
  let un := getUnit s k u
  match un.req with
  | none => s
  | some r =>
    if !un.started || un.restore.isSome || !safeFetch s un.upc up || twHeld s r || trapKind s k un r ≠ some 2 then s
    else takeTrap k u r 2 s)

/-! ## Micro-faults (R239, R240, R714) -/

/-- A retirement record (R715): kind, skein, position, the two further fields and the start count. -/
def retireEntry (kind : Nat) (k : SkId) (pos setNo line : Nat) (boots : BitVec 32) : BitVec 64 :=
  BitVec.ofNat 64 (2 ^ 60 * kind + 2 ^ 55 * k.toNat + 2 ^ 50 * pos + 2 ^ 38 * setNo + 2 ^ 32 * line + boots.toNat)

/-- Add a retirement record while fewer than 511 are held (R715). -/
def retireAdd (kind : Nat) (k : SkId) (pos setNo line : Nat) (s : State) : State :=
  if s.m.retire.length ≥ 511 then s
  else updM (fun m => { m with retire := m.retire ++ [retireEntry kind k pos setNo line m.boots] }) s

/-- Units of a skein in service. -/
def unitsIn (y : Skein) : Nat := ((upto 4).filter fun u => !(mapGet {} y.units u : TUnit).off).length

/-- Take a twist unit out of service (R714). -/
def unitRemove (k : SkId) (u : BitVec 2) (s : State) : State :=
  let s := updUnit k u (fun x => { x with off := true }) s
  let s := notify none (logOnly 0x10 4 k.toNat (64 + u.toNat) none none 0 s)
  condSet 6 false (retireAdd 3 k u.toNat 0 0 s)

/-- A micro-fault: the routine is abandoned, the twist-unit fault raised; the second within 24 hours removes the unit, unless it is
the last in service. -/
def microFault (k : SkId) (u : BitVec 2) (r : TwReq) (s : State) : State :=
  let un := getUnit s k u
  let s := unitFault k u r { code := 0x40, info := un.upc.setWidth 48 } s
  let s := logEvent 0x10 3 k.toNat (64 + u.toNat) (some r.ctx) none un.upc.toNat s
  let recent := un.faults.filter fun t => decide (s.tb < t + 86400000000000)
  let s := updUnit k u (fun x => { x with faults := s.tb :: recent }) s
  if !recent.isEmpty ∧ unitsIn (getSk s k) > 1 then unitRemove k u s else s

/-! ## The microword (R235, R236) -/

/-- A field of a microword. -/
def mw (w : BitVec 144) (lo n : Nat) : Nat := bits w.toNat lo n

/-- A micro-address exists (R237). -/
def upcOk (a : Nat) : Bool := decide (a < 0x2100)

/-- The resumable faults (R250): the translation faults (R387) and the allocation-limit trap. -/
def resumable (code : BitVec 8) : Bool :=
  decide (0x52 ≤ code.toNat ∧ code.toNat ≤ 0x58) || code = 0x5A || code = 0x24

/-- The causes of R333 and of the chapters it names that an instruction raises (R498). -/
def causeListed (n : Nat) : Bool :=
  decide ((1 ≤ n ∧ n ≤ 7) ∨ (0x10 ≤ n ∧ n ≤ 0x17) ∨ (0x20 ≤ n ∧ n ≤ 0x24) ∨ (0x30 ≤ n ∧ n ≤ 0x34) ∨ (0x38 ≤ n ∧ n ≤ 0x3A) ∨ n = 0x40 ∨ n = 0x41 ∨
    n = 0x44 ∨ n = 0x45 ∨ (0x50 ≤ n ∧ n ≤ 0x5C) ∨ n = 0x70 ∨ n = 0x71)

/-- TRAPC of XOP 3 names a listed cause, and that of XOP 4 a resumable one (R236, R250). -/
def trapcOk (w : BitVec 144) : Bool :=
  let n := bits w.toNat 13 8
  match bits w.toNat 29 4 with
  | 3 => causeListed n
  | 4 => resumable (BitVec.ofNat 8 n)
  | _ => true

/-- The word itself is a micro-fault (R236, R237, R239). -/
def wordBad (w : BitVec 144) : Bool :=
  let seq := mw w 126 4
  let top := mw w 95 4
  let tval := mw w 89 6
  decide (seq > 7) || decide (mw w 120 6 > 0x0C) || decide (mw w 113 5 > 19) || decide (top > 4) || decide (mw w 86 3 > 5) ||
    decide (mw w 68 2 > 1) || decide (mw w 64 4 > 4) || decide (mw w 29 4 > 6) || decide (mw w 8 5 ≠ 0) || !upcOk (mw w 130 14) || !trapcOk w ||
    (decide (seq = 4) && decide (mw w 130 14 % 64 ≠ 0)) ||
    ((decide (top = 1) || decide (top = 2)) && (decide (tval = 0x09) || decide (tval = 0x2A) || isReserved (BitVec.ofNat 6 tval)))

/-! ## The datapath -/

/-- What the ALU gives: a datum or a whole binary64, its flags Z N C V, and whether a compare was unordered. No value, and a flag
outside `known`: the spec gives none for the combination. -/
structure AluOut where
  val : Option (BitVec 64)
  flags : BitVec 4
  known : BitVec 4
  unord : Option Bool := none

/-- Nothing that the spec gives. -/
def aluNone : AluOut := { val := none, flags := 0, known := 0 }

/-- Flags of a 48-bit result. -/
def aluFlags (r : Datum) (c v : Bool) : BitVec 4 := b1 (decide (r = 0)) ++ b1 (r.getLsbD 47) ++ b1 c ++ b1 v

/-- Integer operations (ALUOP 0 to 10, 13), with the carry-in of limb mode, which an addition adds and a subtraction takes off. -/
def aluInt (o : Nat) (limb : Bool) (cin : Nat) (ca cb : Cell) : AluOut :=
  let a := cDat ca
  let b := cDat cb
  let n := min b.toNat 48
  let ci := if limb then cin else 0
  let sum (r : Datum) (c v : Bool) : AluOut := { val := some (r.setWidth 64), flags := aluFlags r c v, known := 0b1111 }
  let out (r : Datum) : AluOut := { val := some (r.setWidth 64), flags := aluFlags r false false, known := 0b1100 }
  if 6 ≤ o ∧ o ≤ 10 ∧ ci ≠ 0 then aluNone
  else match o with
    | 0 => out a
    | 1 => sum (a + b + dat ci) (decide (a.toNat + b.toNat + ci ≥ 2 ^ 48)) (!inFix (a.toInt + b.toInt + ci))
    | 2 => sum (a - b - dat ci) (decide (a.toNat < b.toNat + ci)) (!inFix (a.toInt - b.toInt - ci))
    | 3 => out (a &&& b)
    | 4 => out (a ||| b)
    | 5 => out (a ^^^ b)
    | 6 => out (a <<< n)
    | 7 => out (a >>> n)
    | 8 => out (a.sshiftRight n)
    | 9 => out (a * b)
    | 10 => out (if limb then dat (a.toNat * b.toNat / 2 ^ 48) else BitVec.ofInt 48 (a.toInt * b.toInt / 2 ^ 48))
    | 13 => { val := none, flags := b1 (identical ca cb) ++ (0 : BitVec 3), known := 0b1000 }
    | _ => aluNone

/-- Binary64 operations on whole scratch cells (ALUOP 0, 2, 14, 15, 18); a subtraction is the compare. -/
def aluF64 (o : Nat) (rm : BitVec 2) (a b : Cell) : AluOut :=
  let x := fDecode f64 a.toNat
  let y := fDecode f64 b.toNat
  let out (w r : Nat) : AluOut :=
    { val := some (BitVec.ofNat 64 r), flags := b1 (decide (r % 2 ^ (w - 1) = 0)) ++ b1 (bitN r (w - 1)) ++ (0 : BitVec 2), known := 0b1100 }
  match o with
  | 0 => out 64 a.toNat
  | 2 =>
    { out 64 (fSub f64 rm x y).1 with
      flags := b1 (decide (fOrder x y = some .eq)) ++ b1 (decide (fOrder x y = some .lt)) ++ (0 : BitVec 2), unord := some (fOrder x y).isNone }
  | 14 => out 64 (fAdd f64 rm x y).1
  | 15 => out 64 (fMul f64 rm x y).1
  | 18 =>
    out 32 (match x with
      | .nan _ => fQnan f32
      | .inf g => fInf f32 g
      | .fin g m e => (fRound f32 rm g m e false).1)
  | _ => aluNone

/-- The ALU of a microword. -/
def aluOut (w : BitVec 144) (rm : BitVec 2) (un : TUnit) : AluOut :=
  let a := tGet un (mw w 109 4)
  let b := tGet un (mw w 105 4)
  let aw := mw w 99 2
  if aw = 2 then aluF64 (mw w 113 5) rm a b else aluInt (mw w 113 5) (aw = 1) (b2n (un.flags.getLsbD 1)) a b

/-- The tag of the value written to AD (TOP). A binary64 keeps its 64 bits. -/
def topCell (s : State) (w : BitVec 144) (c : CtxId) (a b : Cell) (d : Datum) : Cell :=
  let tv : BitVec 6 := BitVec.ofNat 6 (mw w 89 6)
  let good := goodOf s c
  match mw w 95 4 with
  | 0 => mkCell (cCol a) (cTyp a) d
  | 1 => mkCell 0 tv d
  | 2 => mkCell good tv d
  | 3 => mkCell good (cTyp a) d
  | _ => mkCell (cCol b) (cTyp b) d

/-- ALU, tag and FLG of a microword, from the scratch cells as they were before it. An unstated result is a free value. -/
def doAlu (w : BitVec 144) (c : CtxId) (old un : TUnit) (s : State) : TUnit × State :=
  let o := aluOut w (rmOf (getCtx s c)) old
  let fr := freshNat s
  let mask : BitVec 4 := BitVec.ofNat 4 (mw w 21 4)
  let v : BitVec 64 := o.val.getD (BitVec.ofNat 64 fr.1)
  let free := o.val.isNone || decide (mask &&& ~~~o.known ≠ 0)
  let fl : BitVec 4 := if free then (o.flags &&& o.known) ||| (BitVec.ofNat 4 (fr.1 / 2 ^ 64) &&& ~~~o.known) else o.flags
  let s := if free then fr.2 else s
  let un := { un with flags := (un.flags &&& ~~~mask) ||| (fl &&& mask), unord := o.unord.getD un.unord }
  let cell : Cell := if mw w 99 2 = 2 ∧ mw w 113 5 ≠ 18 then v
    else topCell s w c (tGet old (mw w 109 4)) (tGet old (mw w 105 4)) (v.extractLsb' 0 48)
  (if mw w 99 2 = 3 then un else tSet (mw w 101 4) cell un, s)

/-- Counter operation (KOP). -/
def doCount (w : BitVec 144) (old un : TUnit) : TUnit :=
  let i := mw w 62 2
  let v := mapGet 0 old.k i
  let put (x : BitVec 20) : TUnit := { un with k := mapSet 0 un.k i x }
  match mw w 64 4 with
  | 1 => put (BitVec.ofNat 20 (mw w 38 20))
  | 2 => put ((tGet old (mw w 109 4)).extractLsb' 0 20)
  | 3 => put (v - 1)
  | 4 => put (v + 1)
  | _ => un

/-- Literal (LIT, LD, LE). -/
def doLit (w : BitVec 144) (un : TUnit) : TUnit :=
  if mw w 33 1 = 1 then tSet (mw w 34 4) (fixCell ((BitVec.ofNat 24 (mw w 38 24)).signExtend 48)) un else un

/-- The condition of a microword (COND, CINV). `trap`: a micro-trap is requested; `good`: the space's good colour now. -/
def condOf (w : BitVec 144) (trap : Bool) (good : BitVec 2) (un : TUnit) : Bool :=
  let a := tGet un (mw w 109 4)
  let v : Bool := match mw w 120 6 with
    | 0 => true
    | 1 => un.flags.getLsbD 3
    | 2 => un.flags.getLsbD 2
    | 3 => un.flags.getLsbD 1
    | 4 => un.flags.getLsbD 0
    | 5 => isPtr (cTyp a)
    | 6 => decide ((cTyp a).toNat = mw w 89 6)
    | 7 => isNil a
    | 8 => decide (mapGet 0 un.k (mw w 62 2) = 0)
    | 9 => mopsOut un
    | 0x0A => decide (good ≠ un.good)
    | 0x0B => trap
    | _ => un.unord
  xor v (mw w 119 1 = 1)

/-- A cell that a unit stores or delivers: one of a type that a unit never creates, and that it has not loaded or been given, is a micro-fault (R52,
R71, R221, R239). -/
def cellMade (r : TwReq) (un : TUnit) (v : Cell) : X Unit :=
  let copied := un.loaded.any (fun e => e.2 = v) || decide (v = r.sa) || decide (v = r.sb)
  if (cTyp v = tRETA ∨ cTyp v = tFWD ∨ isReserved (cTyp v)) ∧ !copied then xFault 0x40 (un.upc.setWidth 48) else pure ()

/-- A prefetch of a unit: a line for the skein cache, dropped where it cannot come (R236, R403). -/
def unitPref (r : TwReq) (va : VAddr) (s : State) : State :=
  match prefXlate r.ctx r.level va s with
  | (some pa, s) =>
    let x := getCtx s r.ctx
    let k := getSk s x.skein
    if (skFind k (lineOf pa)).isSome || canInstall k (wayMaskFor k (getHank s x.hank).cur.waymask x.hv) (lineOf pa) then unitAcc r.ctx x.skein pa false s
    else s
  | (none, s) => s

/-- The memory operation of a microword (MOP, MA, MD, MOFF, MB), as an access of the context (R232). A heal at an address that the unit never
loaded compares with the all-zero cell (DESIGN CHOICE: R236 gives no value). -/
def doMem (w : BitVec 144) (r : TwReq) (old un : TUnit) : X TUnit := do
  let op := mw w 86 3
  let c := r.ctx
  let md := mw w 82 4
  let moff : Int := (BitVec.ofNat 8 (mw w 70 8)).toInt
  let val := tGet old (mw w 78 4)
  if op = 0 then pure un
  else if op = 5 then do
    xMod fun s => match vAdd (cDat (tGet old md)) moff with
      | some va => unitPref r va s
      | none => s
    pure (mopAdd 16 0 un)
  else do
    let va ← xEa c (cDat (tGet old md)) moff (if op = 1 then .read else .write)
    match op with
    | 1 => do
      let p ← rCell c r.level va
      let x ← xCtx c
      let y ← (if mw w 68 2 = 1 then xBarrier c x.skein r.level p.1 (fieldOf va p.2) else pure p.1)
      let un := { un with loaded := mapSet 0 un.loaded va.toNat y }
      pure (mopAdd (mw w 78 4) y un)
    | 2 => do
      cellMade r old val
      let p ← xlate c r.level true va .write
      let x ← xCtx c
      let bar := decide (mw w 68 2 = 1)
      if bar then xCardRoom c x.skein (spaceTag x)
      if p.2 = 0 then do
        xUnit c p.1 true
        xMod (putCell (some c) p.1 val)
      else if p.2 = 1 then xMod (deviceStore c p.1 val)
      else do
        let s ← get
        if !linkDead s && !linkUp s then xWait
        xMod fun s => hostStore c p.1 (sealCell val) x.hostFirst (updCtx c (fun x => { x with hostFirst := false }) s)
      if bar then xMod (cardMark c x.skein (spaceTag x) p.1 va val)
      pure (mopAdd 16 0 un)
    | 3 => do
      cellMade r old val
      let p ← xlateNormal c r.level true va .rw
      let x ← xCtx c
      xUnit c p true
      xCardRoom c x.skein (spaceTag x)
      xMod (healField c x.skein (spaceTag x) va p (mapGet 0 un.loaded va.toNat) val)
      pure (mopAdd 16 0 un)
    | _ => do
      let a := vMk (vSeg va) (vOff va / 8 * 8)
      let p ← xlateNormal c r.level true a .write
      xUnit c p true
      xMod fun s => (upto 8).foldl (fun s (i : Nat) => putCell (some c) (paOf (p.toNat + i)) 0 s) s
      pure (mopAdd 16 0 un)

/-- The instruction of a request reads no SB: NEG, LENGTH and the FP class (R154). -/
def noSb (r : TwReq) : Bool :=
  decide (r.major = 0x30) || (decide (r.major = 0x08) && decide (r.minor = 0x02)) || (decide (r.major = 0x38) && decide (r.minor = 0x0B))

/-- TYPEA and TYPEB of a fault that XOP 3 raises (R154): those of SA and SB, and for a walk the type of the list cell that it has reached, with 0. A walk
that stands at a CONS cell or at nil has met another cell, whose type the unit does not hold: a free value. -/
def xopTypes (r : TwReq) (walk : Option (Nat × Cell)) (free : Nat) : BitVec 6 × BitVec 6 :=
  if isWalk r then
    let l := (walk.getD (0, walkList r)).2
    (if isNil l ∨ cTyp l = tCONS then BitVec.ofNat 6 free else cTyp l, 0)
  else (cTyp r.sa, if noSb r then 0 else cTyp r.sb)

/-- The exception that XOP 3 or 4 raises: INFO and DISPINFO where R154 and R333 state them for the instruction, and free values elsewhere. -/
def xopExc (w : BitVec 144) (r : TwReq) (un : TUnit) (x : Ctx) (free : Nat) : Exc :=
  let n := mw w 13 8
  let upc := un.upc
  let ty := xopTypes r un.walk (free / 4)
  let info : Datum :=
    match n with
    | 0x03 => r.enc
    | 0x04 => r.enc
    | 0x10 => if cTyp r.sa = tUNSET then 0 else if cTyp r.sb = tUNSET then 1 else dat (free % 2)
    | 0x11 => 0
    | 0x12 => 0
    | 0x16 => dat (walkLim x)
    | 0x20 => 0
    | 0x21 => 0
    | 0x23 => 0
    | 0x30 => 0
    | 0x31 => x.flow.lpEnd
    | 0x32 => x.flow.lpStart
    | 0x40 => upc.setWidth 48
    | 0x41 => upc.setWidth 48
    | 0x70 => cDat r.sa
    | 0x71 => 0
    | _ => dat free
  { code := BitVec.ofNat 8 n, info := info
    next := decide (n = 0x70)
    disp := if n = 0x11 then some (2, ty) else if n = 0x12 then some (BitVec.ofNat 2 (free % 2), ty) else none }

/-- The exchange operation of a microword (XOP). What it delivers lands when the routine ends (R240); the final fault of XOP 3 ends it. -/
def doXop (w : BitVec 144) (r : TwReq) (old un : TUnit) : X TUnit := do
  let c := r.ctx
  let xs := tGet old (mw w 25 4)
  match mw w 29 4 with
  | 1 => do
    cellMade r old xs
    pure { un with outs := mapIns 1 xs (mapDel 1 un.outs) }
  | 2 => pure { un with outs := mapIns 2 ((b1 (old.flags.getLsbD 3)).setWidth 64) (mapDel 2 un.outs) }
  | 4 => do
    let s ← get
    set (freshNat s).2
    pure { un with fault := some (un.fault.getD (xopExc w r old (getCtx s c) (freshNat s).1)) }
  | 5 => do
    let size := ((cDat xs).toNat + 1) / 2 * 2
    let p ← xAllocRoom c size
    if size ≠ 0 then do
      let _ ← xlateNormal c r.level true p .write
    let lns ← xAllocLines c r.level true p size
    lns.forM fun l => (upto 8).forM fun i => xUnitStore c 0 (paOf (l * 8 + i)) 0
    xMod (setAx c 7 (vAddW p size))
    let s ← get
    pure (tSet (mw w 101 4) (topCell s w c (tGet old (mw w 109 4)) (tGet old (mw w 105 4)) p) un)
  | 6 => do
    rExchange c
    pure un
  | _ => pure un

/-! ## Ending a routine -/

/-- The context of a routine that has ended, if it is still the one that asked: its landings are complete. A cell healed for an instruction that uses
it goes to its memory phase, which is performed again; an LR's reservation is set after the heal, while the field still holds the cell that lands
(R467). -/
def finishCtx (r : TwReq) (y : Option Cell) (s : State) : State :=
  let c := r.ctx
  if (getCtx s c).gen ≠ r.gen then s else
  match (getCtx s c).park with
  | some (.mem _ _ _) =>
    (match y with
     | some v => parkRun c (updCtx c (fun x => { x with ioVals := x.ioVals ++ [{ va := 0, pa := 0, mt := 3, v := v }] }) s)
     | none => s)
  | _ =>
    let s := updCtx c (fun x => { x with ioVals := [], ioIdx := 0 }) s
    let lr : Bool := decide (iMajor r.enc = 0x1A) && decide (bits r.enc.toNat 21 3 = 0)
    let s := match r.kind with
      | .slow _ (some fv) =>
        if lr then (match xNow (xlateNormal c r.level true fv .read) 8 s with
          | .ok pa s => if some (cellAt s pa) = y.map sealCell then updCtx c (fun x => { x with res := some (lineOf pa), resHold := true }) s else s
          | .error _ s => s) else s
      | _ => s
    resumeParked c s

/-- A bad operand of a request is healed before the routine works on it (R253). -/
def healReq (k : SkId) (r : TwReq) : X TwReq := do
  let a ← xBarrier r.ctx k r.level r.sa none
  let b ← xBarrier r.ctx k r.level r.sb none
  pure { r with sa := a, sb := b }

/-- The progress of a walk in its unit, the cell it has reached healed (R188, R253). -/
def walkAt (k : SkId) (u : BitVec 2) (r : TwReq) : X (Nat × Cell) := do
  let s ← get
  let w := (getUnit s k u).walk.getD (0, walkList r)
  let l ← xBarrier r.ctx k r.level w.2 none
  pure (w.1, l)

/-- Keep the progress of a walk. -/
def walkNote (k : SkId) (u : BitVec 2) (n : Nat) (l : Cell) : X Unit := xMod (updUnit k u fun x => { x with walk := some (n, l) })

/-- A walk goes on by one CONS cell at a safe point of its routine (DESIGN CHOICE: the ROM says where); its result waits for the routine's end. -/
def walkStep (k : SkId) (u : BitVec 2) (r0 : TwReq) : X Unit := do
  let r ← healReq k r0
  let x ← xCtx r.ctx
  let w ← walkAt k u r
  walkNote k u w.1 w.2
  let o ← rWalkOne r.ctx r.level r.minor.toNat (walkLim x) r.sa w.1 w.2
  match o with
  | .inl _ => pure ()
  | .inr (n, l) => walkNote k u n l

/-- What a slow path delivers: the healed cell, and for CPROBE and CDEL that the entry was found (R537). -/
def deliverSlow (c : CtxId) (y : Cell) (s : State) : State := deliverBy c (wordPred y true) s

/-- The slow path of a request, to its end: from its claim on, with the addresses translated before it and the entry read again, verified (R42,
R495), or as one step. -/
def slowEnd (k : SkId) (u : BitVec 2) (r : TwReq) (x : Cell) (fv : Option VAddr) : X Unit := do
  let c := r.ctx
  let s ← get
  let tag := spaceTag (getCtx s c)
  let y ← (match (getUnit s k u).claim with
    | some cl => do
      let t ← xTable c k 1 cl.ent
      let d ← xCopy c k tag x cl.src cl.srcP cl.ent cl.dstP t
      xRecolour c k tag x fv cl.field d
    | none => xSlow c k r.level tag x fv)
  xMod fun s => finishCtx r (some y) (deliverSlow c y (setUnit k u (unitFree (getUnit s k u)) s))

/-- The last microword of a routine (SEQ 6): what the microprogram has delivered lands, tested at this moment (R493), and elsewhere what the
operation's rules give. -/
def endRoutine (k : SkId) (u : BitVec 2) (r0 : TwReq) : X Unit := do
  let c := r0.ctx
  match r0.kind with
  | .slow x fv => slowEnd k u r0 x fv
  | _ => do
    let r ← healReq k r0
    let w ← (if isWalk r then some <$> walkAt k u r else pure none)
    let f ← routine c r w (walkNote k u)
    let s ← get
    let wv ← (match (getUnit s k u).outs.find? fun e => e.1 = 1 with
      | some e => some <$> xBarrier c k r.level e.2 none
      | none => pure none)
    xMod fun s =>
      let un := getUnit s k u
      let own (t : Tgt) : Option (BitVec 64) := match t with
        | .word _ => wv
        | .pred _ => (un.outs.find? fun e => e.1 = 2).map fun e => e.2
        | _ => none
      finishCtx r none (deliverBy c (fun t => match own t with
        | some v => some v
        | none => f t) (setUnit k u (unitFree un) s))

/-! ## One microword -/

/-- The next micro-address, the stack and the counter of SEQ; none on a micro-fault. -/
def nextUpc (w : BitVec 144) (cond : Bool) (old : TUnit) : Option (BitVec 14 × List (BitVec 14) × Option (BitVec 20)) :=
  let nx : BitVec 14 := BitVec.ofNat 14 (mw w 130 14)
  let inc := old.upc + 1
  let kv := mapGet 0 old.k (mw w 62 2)
  match mw w 126 4 with
  | 1 => some (if cond then nx else inc, old.stack, none)
  | 2 => if old.stack.length ≥ 3 then none else some (nx, inc :: old.stack, none)
  | 3 => match old.stack with
    | [] => none
    | a :: rest => some (a, rest, none)
  | 4 =>
    let a := nx.toNat + (cTyp (tGet old (mw w 109 4))).toNat
    if upcOk a then some (BitVec.ofNat 14 a, old.stack, none) else none
  | 5 => some (if kv ≠ 0 then (nx, old.stack, some (kv - 1)) else (inc, old.stack, none))
  | _ => some (nx, old.stack, none)

/-- Take up a record at its first microword (R251 to R253): the safe point is checked, the record ends, and bad pointers in t0 to t3
are healed. -/
def takeRecord (k : SkId) (u : BitVec 2) (r : TwReq) (w : BitVec 144) : X Unit := do
  let s ← get
  let un := getUnit s k u
  match un.restore with
  | none => xMod (updUnit k u fun x => { x with started := true, good := if x.started then x.good else goodOf s r.ctx })
  | some _ => do
    xMod (updCtx r.ctx fun x => { x with ms := {} })
    if !w.getLsbD 118 then xFault 0x41 (un.upc.setWidth 48)
    let ts ← [0, 1, 2, 3].mapM fun (i : Nat) => do
      let y ← xBarrier r.ctx k r.level (tGet un i) none
      pure (i, y)
    xMod (updUnit k u fun x =>
      ts.foldl (fun x e => tSet e.1 e.2 x) { x with started := true, restore := none, good := goodOf s r.ctx })

/-- A step of a routine whose resumable fault waits for the next safe point: the routine goes on (R245, R250). -/
def xHeld (m : TUnit → X TUnit) (un : TUnit) : X TUnit := fun s =>
  match m un s with
  | .error (.exc e) s' => if resumable e.code then .ok { un with fault := some (un.fault.getD e) } s' else .error (.exc e) s'
  | r => r

/-- The same for a step that keeps its unit in the state. -/
def xHeldUnit (k : SkId) (u : BitVec 2) (m : X Unit) : X Unit := fun s =>
  match m s with
  | .error (.exc e) s' => if resumable e.code then .ok () (updUnit k u (fun z => { z with fault := some (z.fault.getD e) }) s') else .error (.exc e) s'
  | r => r

/-- The end of a routine: no safe point follows it, and a resumable fault that is pending or that the end meets ends the routine in its place (R250;
DESIGN CHOICE: with no record, as R249). -/
def xEnd (k : SkId) (u : BitVec 2) (r : TwReq) : X (Option Exc) := fun s =>
  match (getUnit s k u).fault with
  | some e => .ok (some e) s
  | none => match endRoutine k u r s with
    | .error (.exc e) s' => if resumable e.code then .ok (some e) s' else .error (.exc e) s'
    | .error e s' => .error e s'
    | .ok _ s' => .ok none s'

/-- Everything a microword does, in the state of the unit as it begins; the answer is a fault that ends the routine. One outstanding memory
operation completes with each microword (DESIGN CHOICE: its time is the memory's). Where a literal, or the ALU or XOP 5, write one scratch cell, the
later named wins (DESIGN CHOICE: R238 states no order). -/
def runWord (k : SkId) (u : BitVec 2) (r : TwReq) (w : BitVec 144) : X (Option Exc) := do
  takeRecord k u r w
  let s ← get
  let unit := getUnit s k u
  let old := { unit with mops := mopEnd unit.mops }
  let seq := mw w 126 4
  let trap := (trapKind s k old r).isSome
  let good := goodOf s r.ctx
  let usesCond := decide (seq = 1)
  let cnd := condOf w trap good old
  match nextUpc w cnd old with
  | none => xFault 0x40 (old.upc.setWidth 48)
  | some (nx, stk, kd) => do
    let old1 := if usesCond && decide (mw w 120 6 = 9) && !mopsOut old then mopsDone old else old
    let un1 ← xHeld (doMem w r old) old1
    let un2 := doLit w (doCount w old un1)
    let s ← get
    let r3 := doAlu w r.ctx old un2 s
    set r3.2
    let un4 ← xHeld (doXop w r old) r3.1
    let un5 := if seq = 7 ∨ seq = 6 then mopsDone un4 else un4
    let un6 := { un5 with
      upc := nx, stack := stk, retry := false, gwait := false, k := match kd with
        | some v => mapSet 0 un5.k (mw w 62 2) v
        | none => un5.k
      good := if usesCond && decide (mw w 120 6 = 0x0A) then good else un5.good
      sinceSafe := if w.getLsbD 118 then 0 else old.sinceSafe + 1
      sinceStart := old.sinceStart + 1 }
    xMod (setUnit k u un6)
    xMod (updCtx r.ctx fun x => { x with ioVals := [], ioIdx := 0 })
    if mw w 29 4 = 3 then do
      let s ← get
      set (freshNat s).2
      pure (some (xopExc w r old (getCtx s r.ctx) (freshNat s).1))
    else do
      if w.getLsbD 118 && isWalk r && decide (seq ≠ 6) then xHeldUnit k u (walkStep k u r)
      if seq = 6 then xEnd k u r else pure none

/-- A fault of a microword: a micro-fault or a final fault ends the routine; a resumable one that its first microword after a restore meets is taken
there, at the record's safe point. -/
def wordFault (k : SkId) (u : BitVec 2) (r : TwReq) (e : Exc) (s0 s : State) : State :=
  if e.code = 0x40 then microFault k u r s0
  else if resumable e.code then
    let s := updUnit k u (fun x => { x with fault := some e, started := true, restore := none }) s
    takeTrap k u r 1 (updCtx r.ctx (fun x => { x with ioVals := [], ioIdx := 0 }) s)
  else unitFault k u r e s

/-- MICROWORD: a unit executes one microword (R238). `up`: the bits that the fetch got wrong; the parity catches them, and the word is fetched once
more (R240); bits that leave every parity right do nothing (DESIGN CHOICE). At a safe point a requested micro-trap is taken instead, and a held
routine pauses (R645). -/
def execMicroword (k : SkId) (u : BitVec 2) (up : BitVec 144) (s : State) : Out := .next (
  let un := getUnit s k u
  match un.req with
  | none => s
  | some r =>
    let w := fetchWord s un.upc
    let safe := w.getLsbD 118
    if !upcOk un.upc.toNat then microFault k u r s
    else if !parityOk w || !parityOk up then (if un.retry then microFault k u r s else updUnit k u (fun x => { x with retry := true }) s)
    else if wordBad w ∨ (!safe ∧ un.sinceSafe ≥ 256) then microFault k u r s
    else if safe && twHeld s r then s
    else
      let trap := if safe && un.started && un.restore.isNone then trapKind s k un r else none
      match trap with
      | some kd => takeTrap k u r kd s
      | none =>
        if (getCtx s r.ctx).hostReq.isSome then (hostIssue r.ctx s).2
        else match runWord k u r w s with
          | .ok none s => s
          | .ok (some e) s => unitFault k u r e s
          | .error (.exc e) s1 => wordFault k u r e s s1
          | .error _ s1 =>
            let t := keepLines s s1
            if (getCtx s1 r.ctx).hostReq.isSome then
              (hostIssue r.ctx (updCtx r.ctx (fun x => { x with hostReq := (getCtx s1 r.ctx).hostReq }) t)).2
            else updUnit k u (fun x => { x with gwait := true }) t)

/-! ## The slow path as the spec's own steps (R494, R495) -/

/-- The granule that a slow path must claim, if it finds one pending: every address is translated before the claim, a write that succeeds only while the
entry is pending (R491, R495). -/
def slowClaim (k : SkId) (r : TwReq) (x : Cell) (fv : Option VAddr) : X (Option Claim) := do
  let s ← get
  let tag := spaceTag (getCtx s r.ctx)
  xBlockAt r.ctx tag
  let fp ← xFieldPa r.ctx r.level fv
  let f ← xForward r.ctx k r.level (blockAt s k tag) tag x
  match f with
  | .to _ => pure none
  | .claim src srcP entP dstP t => do
    xUnitLine r.ctx k entP true 1
    xMod (putCell (some r.ctx) entP (rawCell (rlWith t 2)))
    pure (some { ent := entP, src := src, srcP := srcP, dstP := dstP, field := fp })

/-- One step of a slow path: take up its record if it has one (R251 to R253), claim a pending granule, or complete the path. -/
def slowStep (k : SkId) (u : BitVec 2) (r : TwReq) (x : Cell) (fv : Option VAddr) : X Unit := do
  let s ← get
  takeRecord k u r (fetchWord s (getUnit s k u).upc)
  let s ← get
  if (getUnit s k u).claim.isSome then slowEnd k u r x fv
  else do
    let a ← slowClaim k r x fv
    match a with
    | some p => xMod (updUnit k u fun z => { z with claim := some p, gwait := false })
    | none => slowEnd k u r x fv

/-- One step of the slow path of a unit's request: a final fault ends it at the instruction; a resumable one leaves a record at the next safe point of
the routine, where the unit may stand already (R243, R250). A granule that another agent copies makes it wait. -/
def slowRun (k : SkId) (u : BitVec 2) (s : State) : State :=
  let un := getUnit s k u
  match un.req with
  | some r =>
    (match r.kind with
     | .slow x fv =>
       if twHeld s r then s
       else if un.fault.isSome then (if safeAt s un.upc then takeTrap k u r 1 s else s)
       else match slowStep k u r x fv s with
         | .ok _ s => s
         | .error (.exc e) s =>
           if resumable e.code then
             let s := updUnit k u (fun z => { z with fault := some e, started := true, restore := none }) s
             if safeAt s un.upc then takeTrap k u r 1 s else s
           else unitFault k u r e s
         | .error _ t => updUnit k u (fun z => { z with gwait := true }) (keepLines s t)
     | _ => s)
  | none => s

/-- LOAD_BARRIER_SLOW_PATH: a step of forwarding, recolouring and healing a bad pointer. -/
def execLoadBarrierSlowPath (k : SkId) (u : BitVec 2) (s : State) : Out := .next (slowRun k u s)

/-- GRANULE_WAIT: after 64 handshakes a waiting slow path reads the relocation entry again. -/
def execGranuleWait (k : SkId) (u : BitVec 2) (s : State) : Out := .next (
  if (getUnit s k u).gwait then slowRun k u s else s)

end Sys2Proof.Machine
end

