-- ==== Sys2Proof/Machine/SchedCmds.lean ====
section
/-! DEFINITION. Events of the scheduler: plies, quantum, starvation, stealing, deadlines, migration, messages, extension messages,
exception entry, context commands, and writes of registers with behaviour of their own (R140 to R144, R198, R256, R264 to R318,
R321 to R340, R365, R380, R642). -/

namespace Sys2Proof.Machine

/-! ## Plies (R282 to R291) -/

/-- The READY contexts of a spindle that stand on none of its plies. -/
def readyOff (s : State) (q : SpId) : List (Nat × Ctx) :=
  (readyOn s q).filter fun e => !onPly s (BitVec.ofNat 16 e.1) && !heldByFlip s e.2 && spAllowed s e.2.hv e.2.hank q

/-- Load a context into the idle ply (R280, R285). -/
def loadIdle (q : SpId) (c : CtxId) (s : State) : State :=
  let s := annexLoad c s
  updSp q (fun p => if p.issB then { p with plyA := some c, prepared := true } else { p with plyB := some c, prepared := true }) s

/-- Empty the idle ply; what it held keeps its state. -/
def dropIdle (q : SpId) (s : State) : State :=
  match idleCtx (getSp s q) with
  | some d => updSp q (fun p => { p with prepared := false }) (offPly d s)
  | none => s

/-- The context whose ply was kept is READY again and not held (R284). -/
def keptReady (s : State) (q : SpId) : Option CtxId :=
  match issuingCtx (getSp s q) with
  | some c => if (getCtx s c).st = .ready ∧ !heldByFlip s (getCtx s c) then some c else none
  | none => none

/-- The context on the kept ply of a spindle comes before another one (R284, R287). -/
def keptFirst (s : State) (q : SpId) (y : Ctx) : Bool :=
  match keptReady s q with
  | some c => outranks s (getCtx s c) y
  | none => false

/-- PLY_PREPARE: the best READY context takes the idle ply; it displaces a prepared one of lower priority (R287, R288). Where the best one stands on
the kept ply, it is prepared there (R284). `up`: a cell of the loaded image and its upset bits. -/
def execPlyPrepare (q : SpId) (up : Option (BitVec 6 × Cell)) (s : State) : Out := .next (
  if !issuing s || outOfService s q || (getSk s (spSk q)).parked || (getSp s q).rst.isSome then s
  else match bestReady s (readyOff s q) with
    | none => s
    | some e =>
      let p := getSp s q
      let go : Bool := match idleCtx p with
        | some d => !p.prepared || decide (effPrio s (getCtx s d) < effPrio s e.2)
        | none => true
      let c : CtxId := BitVec.ofNat 16 e.1
      if !go || keptFirst s q e.2 then s
      else
        let s := loadIdle q c (dropIdle q s)
        match up with
        | some (n, m) => imageUpset (spSk q) c n m s
        | none => s)

/-- The prepared context starts to issue: the plies change places. -/
def flipPlies (q : SpId) (s : State) : State :=
  match idleCtx (getSp s q) with
  | some d =>
    updCtx d (fun x => { x with st := .running })
      (updSp q (fun p => { p with issB := !p.issB, prepared := false, quantum := 0 }) s)
  | none => s

/-- The prepared context of a spindle that may run: READY and not held. -/
def readyPrepared (s : State) (q : SpId) : Option CtxId :=
  let p := getSp s q
  match idleCtx p with
  | some d => if p.prepared ∧ (getCtx s d).st = .ready ∧ !heldByFlip s (getCtx s d) then some d else none
  | none => none

/-- A running context gives way to the prepared one, READY behind its equals (R283, R287). An FP exception of it is reported first
(R348). -/
def preempt (q : SpId) (c : CtxId) (s : State) : State :=
  if fpPending (getCtx s c) then updCtx c (fun x => { x with fpDue := true }) s
  else
    let s := flipPlies q s
    makeReady c (dropIdle q s)

/-- The context on the issuing ply runs on: it has not been switched out, and its slots count on (R284, R289). -/
def runKept (c : CtxId) (s : State) : State := updCtx c (fun x => { x with st := .running }) s

/-- The issuing ply of a context that does not run: the prepared context takes its place, or it resumes on its kept ply, whichever comes first
(R284, R287). While none is prepared it resumes, and one of a higher priority takes over once it is prepared (R288). A context with an FP exception
pending keeps its ply (R348). -/
def switchKept (q : SpId) (c : CtxId) (s : State) : State :=
  match keptReady s q, readyPrepared s q with
  | none, some _ => if fpPending (getCtx s c) then s else dropIdle q (flipPlies q s)
  | some _, some d =>
    if fpPending (getCtx s c) || outranks s (getCtx s c) (getCtx s d) then runKept c s else dropIdle q (flipPlies q s)
  | some _, none => runKept c s
  | none, none => s

/-- SWITCH_IN: the prepared context issues; it takes over from a running one only with a higher priority (R282, R284, R288). The context whose ply
was kept resumes on it where it comes first. -/
def execSwitchIn (q : SpId) (s : State) : Out := .next (
  let p := getSp s q
  if !issuing s || outOfService s q || p.rst.isSome then s
  else match issuingCtx p with
    | some c =>
      let x := getCtx s c
      if x.st = .running then
        if heldByFlip s x || x.invHold then s
        else (match readyPrepared s q with
         | some d => if effPrio s (getCtx s d) > (if x.boost then 8 else x.prio.toNat) then preempt q c s else s
         | none => s)
      else switchKept q c s
    | none =>
      (match readyPrepared s q with
       | some _ => flipPlies q s
       | none => s))

/-- QUANTUM_EXPIRY: after QUANTUM slots the running context gives way to a READY peer once that is prepared, or its count restarts (R289). A starved
context returns to its own priority (R290). -/
def execQuantumExpiry (q : SpId) (s : State) : Out := .next (
  let p := getSp s q
  match issuingCtx p with
  | none => s
  | some c =>
    let x := getCtx s c
    if x.st ≠ .running ∨ heldByFlip s x ∨ x.invHold ∨ s.quantum = 0 ∨ p.quantum < s.quantum.toNat then s
    else
      let s := updCtx c (fun x => { x with boost := false }) s
      match readyPrepared s q with
      | some d =>
        if effPrio s (getCtx s d) ≥ x.prio.toNat then preempt q c s
        else if peerReady s q x then s else updSp q (fun p => { p with quantum := 0 }) s
      | none => if peerReady s q x then s else updSp q (fun p => { p with quantum := 0 }) s)

/-- STARVATION: a READY context that has not issued for STARVE µs is prepared next (R290). -/
def execStarvation (c : CtxId) (s : State) : Out := .next (
  if (getCtx s c).st = .ready ∧ s.starve ≠ 0 ∧ (getCtx s c).issuedAt + 1000 * s.starve.toNat ≤ s.m.clock then updCtx c (fun x => { x with boost := true }) s else s)

/-- The spindle of a skein with the most READY contexts, at least two of them. -/
def busiest (s : State) (k : SkId) : Option SpId :=
  (upto 16).foldl (fun r l =>
    let p : SpId := k ++ BitVec.ofNat 4 l
    let n := (readyOn s p).length
    match r with
    | some b => if n > (readyOn s b).length then some p else r
    | none => if n ≥ 2 then some p else none) none

/-- STEALING: a spindle without READY contexts takes the oldest READY context of PIN 0 or 1 from the busiest of its skein (R291,
R553), one apart that has a move of its own to make (R304). -/
def execStealing (q : SpId) (s : State) : Out := .next (
  if !(readyOn s q).isEmpty || outOfService s q then s
  else match busiest s (spSk q) with
    | none => s
    | some b =>
      let ok (e : Nat × Ctx) : Bool :=
        decide (e.2.pin.toNat ≤ 1) && e.2.mig.isNone && canMove s (BitVec.ofNat 16 e.1) true && spAllowed s e.2.hv e.2.hank q
      let l := (readyOn s b).filter ok
      match l.foldl (fun (r : Option (Nat × Ctx)) e => match r with
          | some m => if e.2.readySeq < m.2.readySeq then some e else r
          | none => some e) none with
      | some e => startMove (BitVec.ofNat 16 e.1) (updCtx (BitVec.ofNat 16 e.1) (fun x => { x with mig := some (spSk q, spLs q), migSrc := none }) s)
      | none => s)

/-- DEADLINE_PASSES: a waiting context whose deadline has passed wakes (R295). -/
def execDeadlinePasses (c : CtxId) (s : State) : Out := .next (
  match (getCtx s c).wait with
  | some w => (match w.deadline with
    | some d => if passed s d then wakeCtx c 2 s else s
    | none => s)
  | none => s)

/-- MIGRATION_INSTALL: a moved image is installed (R307); a move still to begin begins when it may (R306). -/
def execMigrationInstall (c : CtxId) (s : State) : Out := .next (
  if (getCtx s c).st = .moving then installMove c s else startMove c s)

/-! ## Thermal migration (R642) -/

/-- A timing domain. -/
def getDom (s : State) (d : Nat) : Domain := mapGet {} s.m.pwr.doms d

/-- The hottest skein, and the coolest one of those that are not parked and satisfy p. -/
def hottest (s : State) : Nat :=
  (upto 32).foldl (fun b k => if (getDom s k).temp > (getDom s b).temp then k else b) 0
def coolestOf (p : SkId → Bool) (s : State) : Option Nat :=
  (upto 32).foldl (fun r k =>
    if (getSk s (BitVec.ofNat 5 k)).parked || !p (BitVec.ofNat 5 k) then r
    else match r with
      | some b => if (getDom s k).temp < (getDom s b).temp then some k else r
      | none => some k) none

/-- The coolest skein that is not parked, which gives the spread; and the target of a move, the coolest that has a free creel slot too. -/
def coolest (s : State) : Option Nat := coolestOf (fun _ => true) s
def migTarget (s : State) : Option Nat := coolestOf (fun k => decide (slotsUsed s k < 2048)) s

/-- THERMAL_MIGRATION: one context moves from the hottest skein to the coolest with a free slot, 100 µs or more after the one before. Temperatures are in
units of 0.125 °C. -/
def execThermalMigration (c : CtxId) (s : State) : Out := .next (
  let h := hottest s
  match coolest s with
  | none => s
  | some k =>
    let spread : Int := (getDom s h).temp - (getDom s k).temp
    let delta : Int := (objGet s 0x2104 4).toNat
    let throt : Int := ((objGet s 0x2103 1).setWidth 8 : BitVec 8).toInt
    let on := (objGet s 0x2104 1).getLsbD 2 && (decide (spread > 8 * delta) || (s.m.pwr.tmig && decide (spread > 8 * (delta - 2)))) &&
      decide ((getDom s h).temp ≥ 8 * (throt - 10))
    let s := updM (fun m => { m with pwr := { m.pwr with tmig := on } }) s
    let x := getCtx s c
    if !on || decide (s.m.clock < s.m.pwr.tmigAt) || decide (x.skein.toNat ≠ h) || !(decide (x.st = .ready) || decide (x.st = .waiting)) ||
        decide (x.pin ≠ 0) || x.mig.isSome || !canMove s c false then s
    else match migTarget s with
      | none => s
      | some k =>
        let kk : SkId := BitVec.ofNat 5 k
        if k = h then s
        else match anySpindle s kk x.hv x.hank with
          | some l =>
            startMove c (updCtx c (fun x => { x with mig := some (kk, l), migSrc := none })
              (updM (fun m => { m with pwr := { m.pwr with tmigAt := s.m.clock + 100000 } }) s))
          | none => s)

/-! ## Exception entry (R121, R336, R385) -/

/-- The fetch of a line by a spindle as the skein cache has it: an INVAL has met it (R427), or not. -/
def fetchAsk (q : SpId) (ln : Nat) (k : Skein) : Asker :=
  let hit (l : List Asker) : Bool := l.contains (.fetch q true)
  .fetch q ((k.held.any fun h => decide (h.ln = ln) && hit h.asks) || (match skFind k ln with
    | some w => hit (skAt k (skSet ln) w).fresh
    | none => false))

/-- A line of an instruction cache that holds a parity error is invalidated, and the fetch is repeated from the skein cache: a Transient error
(R437, R705). -/
def fetchParity (c : CtxId) (q : SpId) (ln : Nat) (s : State) : State :=
  match icFind (getSp s q) ln with
  | some w =>
    if (mapGet {} (getSp s q).ic (ln % 64 * 4 + w) : ILine).parity then
      logOnly 0x02 1 (spSk q).toNat (32 + physPos (getSk s (spSk q)) (spLs q)) (some c) (some (2 ^ 28 * (ln % 64) + 2 ^ 24 * w)) 0
        (updSp q (icInval (some ln)) s)
    else s
  | none => s

/-- The line of a fetch: in the instruction cache, or filled into it; a fill that waits for its victim keeps the fetch waiting (R404, R421). -/
def fetchLine (c : CtxId) (ln : Nat) : X Nat := fun s =>
  let x := getCtx s c
  let q := ctxSp x
  let s := fetchParity c q ln s
  match icFind (getSp s q) ln with
  | some w => .ok w (updSp q (icTouch (ln % 64) w) s)
  | none =>
    let a := fetchAsk q ln (getSk s x.skein)
    match skFill x.skein (wayMaskFor (getSk s x.skein) (getHank s x.hank).cur.waymask x.hv) ln false 1 a s with
    | (false, s) => .error .wait s
    | (true, s) =>
      let r := icFill c q ln (decide (a = .fetch q true)) s
      .ok r.1 r.2

/-- A corrected cell of an instruction fetch goes back to the line it was read from, and to memory where that still holds it (R43). -/
def fetchFix (q : SpId) (i : Nat) (a : PAddr) (v w : Cell) (s : State) : State :=
  let s := updSp q (fun p => { p with ic := mapSet {} p.ic i { (mapGet {} p.ic i : ILine) with
    cells := (mapGet {} p.ic i : ILine).cells.set (a.toNat % 8) w } }) s
  if cellAt s a = v then clearRes (lineOf a) none (putRaw a w s) else s

/-- The instruction fetch of a context at its PC: the cell, through the ITLB and the instruction cache, verified (R42 to R44). -/
def xFetch (c : CtxId) : X Cell := do
  let x ← xCtx c
  if x.flow.past then xlFault c 0x50 x.flow.pc 0 false false x.flow.pc .fetch
  let r ← xlate c x.level true x.flow.pc .fetch
  let ln := lineOf r.1
  let q := ctxSp x
  let w ← fetchLine c ln
  let s ← get
  let i := ln % 64 * 4 + w
  let l : ILine := mapGet {} (getSp s q).ic i
  let v := l.cells.getD (r.1.toNat % 8) 0
  if l.bad.getD (r.1.toNat % 8) false then
    set (logEvent 0x0F 3 36 0 (some c) (some r.1.toNat) 0 s)
    xFault 0x01
  else match verify v with
  | some (v, false) => pure v
  | some (v', true) =>
    set (logEvent 0x0E 0 36 0 (some c) (some r.1.toNat) (syndrome v).toNat (fetchFix q i r.1 v v' s))
    pure v'
  | none =>
    set (logEvent 0x0F 3 36 0 (some c) (some r.1.toNat) (syndrome v).toNat s)
    xFault 0x01

/-- The faults of a fetch (R148 step 1): what the cell holds must be an instruction that may issue. -/
def fetchCheck (c : CtxId) : X Unit := do
  let v ← xFetch c
  if cTyp v ≠ tCODEW then xFault 0x02 ((cTyp v).setWidth 48)
  let s ← get
  if !encOk (cDat v) s.extEn then xFault 0x03 (cDat v)

/-- EXCEPTION_ENTRY: at a slot boundary of a running context, an FP exception that is due, a stop, an interrupt, or a fault of the fetch at its PC
takes effect (R336), the last before a slot that ERET skips too (R148, R341). A parked context whose twist request has not started takes its interrupt
at the instruction (R251). -/
def execExceptionEntry (c : CtxId) (s : State) : Out := .next (
  let x := getCtx s c
  if !issuing s || heldByFlip s x then s
  else if x.st = .parked then twInterrupt c s
  else if x.st ≠ .running || x.invHold then s
  else if fileDue s c then fileLandPark c s
  else
    let s := applyDue c s
    let x := getCtx s c
    if x.st ≠ .running then s
    else if x.park.isSome then settle c s
    else match boundary c s with
      | some s => s
      | none => match fetchCheck c s with
        | .ok _ s => s
        | .error (.exc e) s' => raiseAt c 0 e s s'
        | .error _ s => s)

/-! ## Messages (R300 to R302) -/

/-- The first of the SENDs that wait is posted; after the last one the context becomes READY. -/
def postWaiting (c : CtxId) (s : State) : State :=
  let x := getCtx s c
  match x.sendWait with
  | [] => s
  | (d, v) :: rest =>
    if x.sendst = 7 ∨ !sbEmpty s c then s
    else
      let s := sendPost c d v (updCtx c (fun x => { x with sendst := 7, sendWait := rest }) s)
      let plain := x.wait = some {} ∧ rest = []
      if x.st = .waiting ∧ plain then makeReady c (updCtx c (fun x => { x with wait := none }) s)
      else if x.st = .suspended ∧ x.suspFrom = .waiting ∧ plain then updCtx c (fun x => { x with wait := none, wakeRec := true }) s
      else if x.st = .moving ∧ x.movedFrom = .waiting ∧ plain then updCtx c (fun x => { x with wait := none, movedFrom := .ready }) s
      else if x.st = .moving ∧ x.movedFrom = .suspended ∧ x.suspFrom = .waiting ∧ plain then
        updCtx c (fun x => { x with wait := none, wakeRec := true }) s
      else s

/-- SEND_ACKNOWLEDGED: SENDST and SENDERR are set (R302); a waiting SEND is posted (R300). -/
def execSendAcknowledged (c : CtxId) (s : State) : Out := .next (
  match (getCtx s c).sendOut with
  | some (some n) =>
    postWaiting c (updCtx c (fun x => { x with sendst := n, senderr := x.senderr || decide (n ≠ 0), sendOut := none }) s)
  | some none => s
  | none => postWaiting c s)

/-! ## Extension messages (R140 to R144, R591, R592) -/

/-- The fault of an EXTn whose context waits for a reply. -/
def extFault (c : CtxId) (e : Exc) (s : State) : State := parkFault c (parkBack (getCtx s c)) e s

/-- The 32 bytes of a message (R140). -/
def extWords (m : ExtMsg) : List (BitVec 64) :=
  [m.cella, m.cellb, m.gen ++ m.ctx ++ (0 : BitVec 1) ++ b1 m.hv ++ (if m.hv then m.hank else 0) ++ m.n ++ m.func,
   (0 : BitVec 32) ++ m.seq]

/-- EXTENSION_MESSAGE_SEND: the message leaves once the context's earlier stores are visible. One that cannot be sent is dropped, and
the timeout fault is taken (R591); while the link is in Recovery it waits. -/
def execExtensionMessageSend (c : CtxId) (s : State) : Out := .next (
  let x := getCtx s c
  match x.park with
  | some (.mem (.extn n a b func _) enc back) =>
    if !sbEmpty s c then s
    else
      let seq := s.extSeq
      let m : ExtMsg :=
        { seq := seq, gen := if x.hv then (getHank s x.hank).gen else 0, ctx := c, cgen := x.gen, n := n, func := func
          cella := a, cellb := b, hv := x.hv, hank := x.hank, due := s.tb + 1000 * s.host.extTmo.toNat }
      let go (s : State) : State := updCtx c (fun x => { x with park := some (.ext seq enc back) }) { s with extSeq := s.extSeq + 1 }
      if linkDead s then extFault c { code := 0x3A, info := seq.setWidth 48 } (go s)
      else if !linkUp s then s
      else
        let tgt : BitVec 64 := (mapGet 0 s.host.extTgt n.toNat : BitVec 59) ++ (0 : BitVec 5)
        linkSend (.write tgt (extWords m) false false false) { go (fabric (skSector x.skein) hostSector s) with extOut := s.extOut ++ [m] }
  | _ => s)

/-- The result of an accepted reply (R141, R143): a bad pointer takes the load barrier's slow path (R494). -/
def extAccept (c : CtxId) (status : BitVec 8) (v : Cell) (s : State) : State :=
  let v := sealCell v
  if status ≠ 0 then extFault c { code := 0x38, info := status.setWidth 48 } s
  else if cTyp v = tRETA ∨ cTyp v = tFWD ∨ isReserved (cTyp v) then extFault c { code := 0x39, info := (cTyp v).setWidth 48 } s
  else if isBad (blockOf s c) v ∧ (getCtx s c).land.any (fun l => !l.arrived) then
    let x := getCtx s c
    let back := parkBack x
    let enc : BitVec 48 := match x.park with
      | some (.ext _ e _) => e
      | _ => 0
    twSubmit { twReqOf x c enc (.slow v none) 0 0 (BitVec.ofNat 5 (bits enc.toNat 31 5)) with addr := back.pc }
      (updCtx c (fun x => { x with park := some (.twist back) }) s)
  else resumeParked c (deliverBy c (fun t => match t with
    | .word _ => some v
    | _ => none) s)

/-- A discarded reply is counted; one to a hank whose GEN has gone on is counted as stale too (R142, R568). -/
def extStale (hv : Bool) (h : BitVec 6) (gen : BitVec 16) (s : State) : State :=
  let s := logEvent 0x16 4 37 0 none none 0 s
  if hv ∧ (getHank s h).gen ≠ gen then updHank h (fun k => { k with stalecnt := min (2 ^ 32 - 1) (k.stalecnt + 1) }) s else s

/-- A reply (R141, R142): accepted for the outstanding message of its SEQ and GEN, otherwise discarded. -/
def extReply (seq : BitVec 32) (gen : BitVec 16) (status : BitVec 8) (v : Cell) (s : State) : State :=
  match s.extOut.find? fun m => m.seq = seq with
  | some m =>
    if m.gen = gen ∧ (m.hv → (getHank s m.hank).gen = gen) ∧ s.tb < m.due then
      extAccept m.ctx status v (reach hostSector (getCtx s m.ctx).skein { s with extOut := s.extOut.filter fun n => n.seq ≠ seq })
    else extStale m.hv m.hank gen s
  | none => match s.extGone.find? fun m => m.1 = seq with
    | some m => extStale true m.2.2 gen s
    | none => extStale false 0 gen s

/-- EXTREPLY: a reply of customer logic is matched to an outstanding message of the same GEN, that of the hank's present incarnation, or discarded and
counted, as one after the timeout is (R142, R568). -/
def execExtreply (seq : BitVec 32) (gen : BitVec 16) (status : BitVec 8) (v : Cell) (s : State) : Out := .next (
  hostWr (extReply seq gen status v) s)

/-- The end of an outstanding message without a reply. -/
def extExpire (m : ExtMsg) (s : State) : State :=
  extFault m.ctx { code := 0x3A, info := m.seq.setWidth 48 } { s with
    extOut := s.extOut.filter fun n => n.seq ≠ m.seq
    extGone := if m.hv then s.extGone ++ [(m.seq, m.gen, m.hank)] else s.extGone }

/-- EXTENSION_TIMEOUT: no reply within the timeout of the message, on the timebase (R144). -/
def execExtensionTimeout (seq : BitVec 32) (s : State) : Out := .next (
  match s.extOut.find? fun m => m.seq = seq with
  | some m => if s.tb < m.due then s else extExpire m s
  | none => s)

/-! ## Context commands (R313 to R318) -/

/-- A command reaches the scheduler: from a context that exists, by its CTXCMD; from the host, by HCTXCMD. An issuer whose previous
command is in progress is ignored (R315). -/
def sendCmd (op : Nat) (m : CtxCmd) (s : State) : State :=
  match m.src with
  | .ctx c =>
    if s.mode = .sleep ∨ (getCtx s c).st = .free ∨ bits (axGet (getCtx s c) 9).toNat 44 4 = 0xF then s else ctxCommand op m s
  | .host => hostWr (fun s => if bits s.hctxres.toNat 44 4 = 0xF then s else ctxCommand op m s) s
  | .hank _ => s

/-- CREATE. -/
def execCreate (m : CtxCmd) (s : State) : Out := .next (sendCmd 1 m s)

/-- DESTROY. -/
def execDestroy (m : CtxCmd) (s : State) : Out := .next (sendCmd 2 m s)

/-- SUSPEND. -/
def execSuspend (m : CtxCmd) (s : State) : Out := .next (sendCmd 3 m s)

/-- RESUME. -/
def execResume (m : CtxCmd) (s : State) : Out := .next (sendCmd 4 m s)

/-- MIGRATE. -/
def execMigrate (m : CtxCmd) (s : State) : Out := .next (sendCmd 5 m s)

/-- SETPRIO. -/
def execSetprio (m : CtxCmd) (s : State) : Out := .next (sendCmd 6 m s)

/-- WAKE. -/
def execWake (m : CtxCmd) (s : State) : Out := .next (sendCmd 7 m s)

/-- QUERY. -/
def execQuery (m : CtxCmd) (s : State) : Out := .next (sendCmd 8 m s)

/-- A non-hank context that exists: what DOORBELL and HIRQ reach. -/
def hostCtx (s : State) (c : CtxId) : Bool := decide ((getCtx s c).st ≠ .free) && !(getCtx s c).hv

/-- DOORBELL: the host rings a non-hank context (R303, R318). -/
def execDoorbell (c : CtxId) (s : State) : Out := .next (hostWr (fun s => if hostCtx s c then ringDoorbell c (hear hostSector c s) else s) s)

/-- HIRQ: the host sets interrupt source 2 of a non-hank context (R321). -/
def execHirq (c : CtxId) (s : State) : Out := .next (hostWr (fun s => if hostCtx s c then raiseIrq c 2 (hear hostSector c s) else s) s)

/-! ## Control register writes with behaviour of their own, at their landing -/

/-- A write of a control register lands in a context that exists; none does in SLEEP. -/
def landNow (c : CtxId) (n : Nat) (v : Datum) (s : State) : State := if s.mode = .sleep ∨ (getCtx s c).st = .free then s else crLand c n v s

/-- IPISEND (R330). -/
def execIpisend (c t : CtxId) (s : State) : Out := .next (landNow c 0x102 (t.setWidth 48) s)

/-- IPEND_WRITE (R329). -/
def execIpendWrite (c : CtxId) (v : Datum) (s : State) : Out := .next (landNow c 0x101 v s)

/-- XCTL_WRITE (R328). -/
def execXctlWrite (c : CtxId) (v : Datum) (s : State) : Out := .next (landNow c 0x100 v s)

/-- A write that the hank's grant refuses raises the hank-grant fault at the slot of its context, and the register is unchanged (R365, R380,
R554). -/
def grantWrite (c : CtxId) (n : Nat) (v : Datum) (s : State) : State :=
  match crGrant s (getCtx s c) n v with
  | some i => if (getCtx s c).st = .running ∧ s.mode ≠ .sleep then raiseAt c 0 { code := 0x5C, info := i } s s else s
  | none => landNow c n v s

/-- FPSA_WRITE (R198); a hank context may not write it (R554). -/
def execFpsaWrite (c : CtxId) (v : Datum) (s : State) : Out := .next (grantWrite c 0x048 v s)

/-- SPILL (R201). A spill that finds no room in the store buffer parks a running context at once. -/
def execSpill (c : CtxId) (s : State) : Out := .next (settle c (landNow c 0x049 2 s))

/-- DISCARD (R256). -/
def execDiscard (c : CtxId) (s : State) : Out := .next (landNow c 0x401 (dat (2 ^ 33)) s)

/-- SPACE_WRITE (R364, R365). -/
def execSpaceWrite (c : CtxId) (v : Datum) (s : State) : Out := .next (grantWrite c 0x200 v s)

/-- HPTCFG_WRITE (R380). -/
def execHptcfgWrite (c : CtxId) (v : Datum) (s : State) : Out := .next (grantWrite c 0x203 v s)

/-- INBBASE_WRITE (R312, R554). -/
def execInbbaseWrite (c : CtxId) (v : Datum) (s : State) : Out := .next (grantWrite c 0x0C4 v s)

end Sys2Proof.Machine
end

