-- ==== Sys2Proof/Machine/Hanks.lean ====
section
/-! DEFINITION. Hanks: their registers, grants, commands, queues, doorbell pages and dirty logs (R551 to R575). -/

namespace Sys2Proof.Machine

/-! ## Registers (R557) -/

/-- A 64-bit register from fields placed at bit positions. -/
def pack (fs : List (Nat × Nat)) : BitVec 64 := BitVec.ofNat 64 ((fs.map fun f => 2 ^ f.2 * f.1).foldl (· + ·) 0)

/-- A register of a hank block by register number: the value read. -/
def hankRead (k : Hank) (n : Nat) : BitVec 64 :=
  let g := k.stg
  if n = 1 then pack [(k.state.toNat, 60), (k.result.toNat, 56), (k.gen.toNat, 32)]
  else if 2 ≤ n ∧ n ≤ 9 then g.spmask.extractLsb' (64 * (n - 2)) 64
  else if n = 0x0A then pack [(g.ctxmax.toNat, 32), (g.waymask.toNat, 16), (b2n g.crepl, 15), (g.cquota.toNat, 0)]
  else if n = 0x0B then pack [(b2n g.bwcap, 58), (g.bwshare.toNat, 48), (g.reelq.toNat, 32), (g.bithi.toNat, 16), (g.bitlo.toNat, 0)]
  else if n = 0x0C then pack [(g.taghi.toNat, 16), (g.taglo.toNat, 0)]
  else if 0x10 ≤ n ∧ n ≤ 0x17 then ((mapGet 0 (if n % 2 = 0 then g.dbase else g.dlim) ((n - 0x10) / 2) : PAddr)).setWidth 64
  else if n = 0x18 then g.hwbase.setWidth 64
  else if n = 0x19 then g.hwlim.setWidth 64
  else if n = 0x1A then pack [(g.sqs.toNat, 60), (g.sqbase.toNat, 0)]
  else if n = 0x1B then pack [(g.cqs.toNat, 60), (b2n k.cqien, 59), (k.cqvec.toNat, 48), (g.cqbase.toNat, 0)]
  else if n = 0x1C then pack [(b2n k.even, 16), (k.evctx.toNat, 0)]
  else if n = 0x20 then pack [(b2n k.dlen, 63), (b2n k.sbusy, 61), (b2n k.out, 60), (k.dlpages.toNat, 0)]
  else if n = 0x21 then k.dlmap
  else if n = 0x22 then k.dllo
  else if n = 0x30 then BitVec.ofNat 64 k.stalecnt
  else if n = 0x31 then BitVec.ofNat 64 k.baddb
  else if n = 0x32 then BitVec.ofNat 64 k.dlmiss
  else 0

/-- What reading a register clears (RC, R7). -/
def hankReadClear (k : Hank) (n : Nat) : Hank :=
  if n = 0x30 then { k with stalecnt := 0 } else if n = 0x31 then { k with baddb := 0 } else if n = 0x32 then { k with dlmiss := 0 } else k

/-- A write of a staged field. -/
def stgWrite (g : HankCfg) (n : Nat) (v : BitVec 64) : HankCfg :=
  let w := v.toNat
  let a : PAddr := v.extractLsb' 0 40
  if 2 ≤ n ∧ n ≤ 9 then
    let i := 64 * (n - 2)
    { g with spmask := (g.spmask &&& ~~~((0xFFFFFFFFFFFFFFFF : BitVec 512) <<< i)) ||| (v.setWidth 512 <<< i) }
  else if n = 0x0A then
    { g with ctxmax := v.extractLsb' 32 16, waymask := v.extractLsb' 16 16, crepl := v.getLsbD 15, cquota := BitVec.ofNat 15 (min 16384 (bits w 0 15)) }
  else if n = 0x0B then
    { g with bwcap := v.getLsbD 58, bwshare := v.extractLsb' 48 10, reelq := v.extractLsb' 32 6, bithi := v.extractLsb' 16 16, bitlo := v.extractLsb' 0 16 }
  else if n = 0x0C then { g with taghi := v.extractLsb' 16 12, taglo := v.extractLsb' 0 12 }
  else if 0x10 ≤ n ∧ n ≤ 0x17 then
    if n % 2 = 0 then { g with dbase := mapSet 0 g.dbase ((n - 0x10) / 2) a } else { g with dlim := mapSet 0 g.dlim ((n - 0x10) / 2) a }
  else if n = 0x18 then { g with hwbase := a }
  else if n = 0x19 then { g with hwlim := a }
  else if n = 0x1A then { g with sqs := v.extractLsb' 60 4, sqbase := a }
  else if n = 0x1B then { g with cqs := v.extractLsb' 60 4, cqbase := a }
  else g

/-! ## Checks (R559, R560) -/

/-- Contexts of a hank that exist. -/
def hankCtxs (s : State) (h : BitVec 6) : List CtxId :=
  (s.ctxs.filter fun e => decide (e.2.st ≠ .free) && e.2.hv && decide (e.2.hank = h)).map fun e => BitVec.ofNat 16 e.1

/-- A queue field fails its rule: its size is 0 or 4 to 12, its base a multiple, in the host-window region while the queue is enabled. -/
def queueBad (sz : BitVec 4) (base : PAddr) (mult : Nat) : Bool :=
  decide (sz ≠ 0 ∧ (sz.toNat < 4 ∨ 12 < sz.toNat)) || decide (base.toNat % mult ≠ 0) ||
    (decide (sz ≠ 0) && !decide (0x8000000000 ≤ base.toNat ∧ base.toNat < 0xC000000000))

/-- A staged value fails its alignment or range rule (R559). -/
def cfgBad (g : HankCfg) : Bool :=
  let hw (a : PAddr) : Bool := decide (a.toNat % 512 ≠ 0 ∨ a.toNat < 0x8000000000 ∨ 0xC000000000 ≤ a.toNat)
  (upto 4).any (fun k => decide ((mapGet 0 g.dbase k : PAddr).toNat % 2 ^ 21 ≠ 0 ∨ (mapGet 0 g.dlim k : PAddr).toNat % 2 ^ 21 ≠ 0)) ||
    hw g.hwbase || hw g.hwlim || decide (g.reelq.toNat > 32) || queueBad g.sqs g.sqbase 4 || queueBad g.cqs g.cqbase 2

/-- Two intervals share a value. -/
def meets (a b : Nat × Nat) : Bool := decide (a.1 < b.2 ∧ b.1 < a.2)

/-- The tables that no hank's DRAM may overlap: annex, frame and hank FP save tables, 2^21 cells each. -/
def tableRanges (s : State) : List (Nat × Nat) :=
  let t (en : Bool) (b : PAddr) : List (Nat × Nat) := if en then [(b.toNat, b.toNat + 2 ^ 21)] else []
  t s.annexEn s.annexBase ++ t s.hfpEn s.hfpBase ++ ((upto 4).map fun n => t (frameTab s (n + 1)).1 (frameTab s (n + 1)).2).flatten

/-- The other hanks that are not FREE. -/
def otherHanks (s : State) (h : BitVec 6) : List HankCfg :=
  (s.hanks.filter fun e => decide (e.1 ≠ h.toNat) && decide (e.2.state ≠ 0)).map fun e => e.2.cur

/-- A conflict with another hank or with a table (R559). -/
def cfgConflict (s : State) (h : BitVec 6) (g : HankCfg) : Bool :=
  let mine := dramRanges g
  let tags (c : HankCfg) : Nat × Nat := (c.taglo.toNat, c.taghi.toNat + 1)
  (otherHanks s h).any (fun o => decide (o.spmask &&& g.spmask ≠ 0) ||
      (decide (g.taglo.toNat ≤ g.taghi.toNat) && decide (o.taglo.toNat ≤ o.taghi.toNat) && meets (tags g) (tags o)) ||
      (dramRanges o).any fun r => mine.any (meets r)) ||
    (tableRanges s).any fun r => mine.any (meets r)

/-- The spindle of a context, or the one that it moves to (R553). -/
def placeOf (x : Ctx) : SpId := if x.st = .moving then x.toSkein ++ x.toLspin else ctxSp x

/-- Where a context goes that may no longer stand on its spindle: another spindle of its skein, or with PIN 0 the lowest skein that
has one (R291, R307, R560). -/
def relocTo (s : State) (x : Ctx) : Option (SkId × BitVec 4) :=
  let k := spSk (placeOf x)
  if x.pin = 2 then none
  else match anySpindle s k x.hv x.hank with
    | some l => some (k, l)
    | none =>
      if x.pin = 1 then none
      else match (upto 32).find? fun (k : Nat) => (anySpindle s (BitVec.ofNat 5 k) x.hv x.hank).isSome && decide (slotsUsed s (BitVec.ofNat 5 k) < 2048) with
        | some k => (anySpindle s (BitVec.ofNat 5 k) x.hv x.hank).map fun l => (BitVec.ofNat 5 k, l)
        | none => none

/-- The contexts that stand on spindles their owner no longer has, or are on the way to one. -/
def displaced (s : State) : List CtxId :=
  (s.ctxs.filter fun e => decide (e.2.st ≠ .free) && !spAllowed s e.2.hv e.2.hank (placeOf e.2)).map fun e => BitVec.ofNat 16 e.1

/-- The hank with its staged values installed. -/
def installed (h : BitVec 6) (st : BitVec 4) (s : State) : State := updHank h (fun k => { k with cur := k.stg, state := st }) s

/-- Spindles of a set. -/
def spList (m : BitVec 512) : List SpId := ((upto 512).filter fun i => m.getLsbD i).map fun i => BitVec.ofNat 9 i

/-- The tag range of a configuration shrinks to that of another: some tag leaves it. -/
def tagsLost (old g : HankCfg) : Bool :=
  decide (old.taglo.toNat ≤ old.taghi.toNat) && (!tagIn g old.taglo || !tagIn g old.taghi)

/-- The BUSY conditions of R560. -/
def cfgBusy (s : State) (h : BitVec 6) (create : Bool) : Bool :=
  let k := getHank s h
  let old : HankCfg := if create then {} else k.cur
  let g := k.stg
  let changed := old.spmask ^^^ g.spmask
  let s' := installed h 1 s
  let q (c : HankCfg) := (c.sqs, c.sqbase, c.cqs, c.cqbase)
  s.ctxs.any (fun e => decide (e.2.st ≠ .free) && changed.getLsbD (homeSp (BitVec.ofNat 16 e.1)).toNat) ||
    (displaced s').any (fun c => (relocTo s' (getCtx s' c)).isNone) ||
    (!create && ((tagsLost old g && (hankCtxs s h).any (fun c => !tagIn g (spaceTag (getCtx s c)))) ||
      (decide (g.spmask = 0) && !(hankCtxs s h).isEmpty) || (decide (q old ≠ q g) && decide (k.state ≠ 2))))

/-- The result of the checks of CREATE and COMMIT: 0, or BADVAL, CONFLICT, BUSY. -/
def hankCheck (create : Bool) (h : BitVec 6) (s : State) : Nat :=
  let g := (getHank s h).stg
  let share := ((otherHanks s h).map fun o => o.bwshare.toNat).foldl (· + ·) 0
  if cfgBad g || decide (share + g.bwshare.toNat > 1024) then 3
  else if cfgConflict s h g then 2
  else if cfgBusy s h create then 1
  else 0

/-! ## What an install and a removal do -/

/-- Apply a function to every spindle that holds state. -/
def updAllSp (f : Spindle → Spindle) (s : State) : State :=
  { s with spindles := (s.spindles.map fun p => (p.1, f p.2)).filter fun p => p.2 ≠ {} }

/-- Remove every entry, locked ones included, and every descriptor of tags lo to hi on every spindle. -/
def tagFlush (lo hi : Nat) (s : State) : State := updAllSp (invApply (.space (lo, hi) true true)) s

/-- Clear the bits lo to hi of every skein. -/
def bitClear (f : Nat → Bool) (s : State) : State := updAllSk (fun k => { k with bits := k.bits.filter fun b => !f b.1 }) s

/-- Bit n lies in the bit range of a configuration. -/
def inBits (g : HankCfg) (n : Nat) : Bool := decide (g.bitlo.toNat ≤ n ∧ n ≤ g.bithi.toNat)

/-- A DRAM or host-window range became smaller. -/
def memReduced (old g : HankCfg) : Bool :=
  (dramRanges old).any (fun r => !covered (dramRanges g) r.1 (r.2 - r.1)) ||
    (decide (old.hwbase.toNat < old.hwlim.toNat) && !covered [(g.hwbase.toNat, g.hwlim.toNat)] old.hwbase.toNat (old.hwlim.toNat - old.hwbase.toNat))

/-- The effects of installing changed values (R560): bits that leave, tags that leave, memory that shrinks, queues that change. -/
def installEffects (h : BitVec 6) (old g : HankCfg) (s : State) : State :=
  let s := bitClear (fun n => inBits old n && !inBits g n) s
  let s := (upto 4096).foldl (fun s t => if tagIn old (BitVec.ofNat 12 t) && !tagIn g (BitVec.ofNat 12 t) then tagFlush t t s else s) s
  let s := if memReduced old g then tagFlush old.taglo.toNat old.taghi.toNat s else s
  if (old.sqs, old.sqbase, old.cqs, old.cqbase) = (g.sqs, g.sqbase, g.cqs, g.cqbase) then s
  else updHank h (fun k => { k with sqtail := 0, sqhead := 0, cqhead := 0, cqtail := 0, phase := true }) s

/-- A context is to move to another place than before. A move that it still had to make is given up: DENIED (DESIGN CHOICE: no rule says how that
command ends). -/
def redirect (c : CtxId) (d : SkId × BitVec 4) (s : State) : State :=
  startMove c (updCtx c (fun x => { x with mig := some d }) (if (getCtx s c).mig.isSome then endMig c 3 s else s))

/-- A displaced context leaves its ply and moves when it may (R306, R560); one on the way gets another target. It goes after a pending FP exception is reported (R348) and its broadcast INVAL
has taken effect (R428). -/
def relocate (c : CtxId) (s : State) : State :=
  let x := getCtx s c
  if x.st = .moving then (match relocTo s x with
    | some (k, l) =>
      let n := if k = x.toSkein then x.imgTo else freeSlot s k
      updCtx c (fun x => { x with toSkein := k, toLspin := l, imgTo := n }) s
    | none => s)
  else if x.st = .running ∧ x.invHold then s
  else if fpPending x then updCtx c (fun x => { x with fpDue := true }) s
  else
    let s := offPly c s
    let s := if x.st = .running then makeReady c s else s
    match relocTo s (getCtx s c) with
    | none => s
    | some d => redirect c d s

/-- The next generation: 0 is skipped (R569). -/
def genNext (g : BitVec 16) : BitVec 16 := if g = 0xFFFF then 1 else g + 1

/-- No store of a context numbered in the hank waits in a store buffer. -/
def hankDrained (s : State) (h : BitVec 6) : Bool :=
  s.spindles.all fun p => p.2.sb.all fun e => hankOfNum s e.ctx ≠ some h

/-- A flush read goes on (R466, R476, R477): sent once the link carries requests, ended on a dead target or at its completion timeout. -/
def flushStep (f : Flush) (s : State) : Flush × State :=
  let dead : Flush × State := (.none, logEvent 0x19 4 37 0 none none 0 s)
  match f with
  | .none => (.none, s)
  | .want a =>
    if linkDead s then dead
    else if !linkUp s then (f, s)
    else (.out (s.m.clock + ctoNs s.host.cto), linkSend (.read a 0 false) s)
  | .out due => if linkDead s || decide (due ≤ s.m.clock) then dead else (f, s)

/-- The flush read behind the hank's host writes (R570, R571): true once it has returned, or where there is no such write. -/
def hankFlush (h : BitVec 6) (s : State) : Bool × State :=
  let k := getHank s h
  let f : Flush := match k.flush, k.sent with
    | .none, some a => .want a
    | f, _ => f
  let r := flushStep f (updHank h (fun k => { k with sent := if k.flush = .none then none else k.sent }) s)
  (decide (r.1 = .none), updHank h (fun k => { k with flush := r.1 }) r.2)

/-- The flush read of a synchronisation goes on; SBUSY falls at its end (R574). -/
def syncStep (h : BitVec 6) (s : State) : State :=
  let k := getHank s h
  if k.sync = .none then s
  else
    let r := flushStep k.sync s
    updHank h (fun k => { k with sync := r.1, sbusy := k.sbusy && decide (r.1 ≠ .none) }) r.2

/-- Descriptors of a hank, queued or running, stop with RESULT 5; a claim is released first (R512, R571). -/
def reelStopHank (h : BitVec 6) (s : State) : State :=
  (upto 32).foldl (fun s i =>
    let k : SkId := BitVec.ofNat 5 i
    let mine (d : ReelDesc) : Bool := d.hv && decide (d.hank = h)
    let x := getSk s k
    let ds := (reelActive x ++ x.reelQ).filter mine
    if ds.isEmpty then s
    else
      let s := updSk k (fun x => { x with
        reelQ := x.reelQ.filter fun d => !mine d
        reels := (x.reels.map fun e => (e.1, e.2.filter fun d => !mine d)).filter fun e => e.2 ≠ [] }) s
      ds.foldl (fun s d => reelFinish k d 5 (releaseClaim k d.hv d.hank d.claim s)) s) s

/-- Steps 2 to 7 of RESET and REMOVE (R571), once moves have ended and the stores have drained. -/
def hankTear (h : BitVec 6) (remove : Bool) (s : State) : State :=
  let k := getHank s h
  let live := hankCtxs s h
  let s := live.foldl (fun s c => if (getCtx s c).st = .moving then s else destroyCtx c s) s
  let s := reelStopHank h s
  let n := k.cmds.length
  let s := updHank h (fun k => { k with cmds := [], stalecnt := min (2 ^ 32 - 1) (k.stalecnt + n) }) s
  if !(hankCtxs s h).isEmpty || !hankDrained s h then s
  else match hankFlush h s with
    | (false, s) => s
    | (true, s) =>
      let o := ownerBits true h
      let gone (r : CReq) : Bool := r.hv && decide (r.hank = h)
      let s := updAllSk (fun x => { x with cardQ := x.cardQ.filter fun r => !gone r, cardHeld := x.cardHeld.filter fun r => !gone r }) s
      let s := s.skeins.foldl (fun s e => cardClear (BitVec.ofNat 5 e.1) o s) s
      let s := bitClear (inBits k.cur) s
      let s := tagFlush k.cur.taglo.toNat k.cur.taghi.toNat s
      updHank h (fun k =>
        let k := { k with pend := 0, result := 0, sqtail := 0, sqhead := 0, cqhead := 0, cqtail := 0, phase := true }
        if remove then { k with state := 0, cur := {} } else { k with state := 1 }) s

/-- PAUSE goes on (R570): contexts stop, commands and stores end, the flush read returns, the hank is PAUSED. -/
def hankPauseGo (h : BitVec 6) (s : State) : State :=
  let s := (hankCtxs s h).foldl (fun s c =>
    let x := getCtx s c
    if x.st = .suspended ∨ x.st = .moving ∨ x.stopReq then s else suspendCtx c s) s
  if (hankCtxs s h).any (fun c => (getCtx s c).st ≠ .suspended) || !(getHank s h).cmds.isEmpty || !hankDrained s h then s
  else match hankFlush h s with
    | (false, s) => s
    | (true, s) => updHank h (fun k => { k with pend := 0, result := 0, state := 2 }) s

/-- CREATE and COMMIT complete once every displaced context has moved; COMMIT then raises source 5 (R559, R560). -/
def hankMoveGo (h : BitVec 6) (s : State) : State :=
  let s := (displaced s).foldl (fun s c => relocate c s) s
  if !(displaced s).isEmpty then s
  else
    let k := getHank s h
    let s := updHank h (fun k => { k with pend := 0, result := 0 }) s
    if k.pend = 2 ∧ k.even then raiseIrq k.evctx 5 s else s

/-- A hank command in progress, and a synchronisation, go as far as they can. -/
def hankSettle (h : BitVec 6) (s0 : State) : State :=
  let s := syncStep h s0
  match (getHank s h).pend with
  | 0 => s
  | 3 => hankPauseGo h s
  | 5 => hankTear h false s
  | 6 => hankTear h true s
  | _ => hankMoveGo h s

/-- Every hank command in progress goes as far as it can. -/
def hanksSettle (s : State) : State :=
  s.hanks.foldl (fun s e => if e.2.pend = 0 ∧ e.2.sync = .none then s else hankSettle (BitVec.ofNat 6 e.1) s) s

/-! ## Commands (R558 to R571) -/

/-- A hank command may begin in a state. -/
def hankAllows (op : Nat) (st : BitVec 4) : Bool :=
  match op with
  | 1 => decide (st = 0)
  | 3 => decide (st = 1)
  | 4 => decide (st = 2)
  | _ => decide (st = 1 ∨ st = 2)

/-- RESUME (R266, R570): the contexts resume; one stopped by a third fault stays. -/
def hankResumeAll (h : BitVec 6) (s : State) : State :=
  (hankCtxs s h).foldl (fun s c =>
    let x := getCtx s c
    if x.st = .suspended ∧ !(axPeek s c 27).getLsbD 46 then resumeCtx c s else s) s

/-- A hank command by OP. -/
def hankCommand (op : Nat) (h : BitVec 6) (s : State) : State :=
  let k := getHank s h
  let res (n : Nat) (s : State) : State := updHank h (fun k => { k with result := BitVec.ofNat 4 n }) s
  let go (s : State) : State := hankSettle h (updHank h (fun k => { k with result := 0xF, pend := op }) s)
  if k.result = 0xF then s
  else if op = 0 ∨ op > 6 then res 4 s
  else if !hankAllows op k.state then res 1 s
  else if op = 1 then
    (match hankCheck true h s with
     | 0 => go (updHank h (fun k => { k with gen := genNext k.gen, sqtail := 0, sqhead := 0, cqhead := 0, cqtail := 0, phase := true
                                             msixSent := false, cmds := [] }) (installed h 1 s))
     | n => res n s)
  else if op = 2 then
    (match hankCheck false h s with
     | 0 => go (installEffects h k.cur k.stg (installed h k.state s))
     | n => res n s)
  else if op = 3 then go s
  else if op = 4 then hankResumeAll h (updHank h (fun k => { k with state := 1, result := 0 }) s)
  else go (updHank h (fun k => { k with state := if op = 5 then 3 else 4, gen := genNext k.gen }) s)

/-- HANK_CREATE (R559). -/
def execHankCreate (h : BitVec 6) (s : State) : Out := .next (hostWr (hankCommand 1 h) s)

/-- COMMIT (R560). -/
def execCommit (h : BitVec 6) (s : State) : Out := .next (hostWr (hankCommand 2 h) s)

/-- PAUSE (R570). -/
def execPause (h : BitVec 6) (s : State) : Out := .next (hostWr (hankCommand 3 h) s)

/-- HANK_RESUME (R570). -/
def execHankResume (h : BitVec 6) (s : State) : Out := .next (hostWr (hankCommand 4 h) s)

/-- HANK_RESET (R571). -/
def execHankReset (h : BitVec 6) (s : State) : Out := .next (hostWr (hankCommand 5 h) s)

/-- REMOVE (R571). -/
def execRemove (h : BitVec 6) (s : State) : Out := .next (hostWr (hankCommand 6 h) s)

/-! ## The doorbell page (R562) -/

/-- A doorbell-page write passes its GEN check, in a hank that is neither RESETTING nor REMOVING. A FREE hank has no queue and no
contexts: there the write only counts in BADDB where it names a context. -/
def pageWrite (h : BitVec 6) (v : BitVec 64) (f : State → State) (s : State) : State :=
  hostWr (fun s =>
    let k := getHank s h
    if v.extractLsb' 48 16 ≠ k.gen then updHank h (fun k => { k with stalecnt := min (2 ^ 32 - 1) (k.stalecnt + 1) }) s
    else if k.state = 3 ∨ k.state = 4 then s else f s) s

/-- SQTAIL is written. -/
def sqtailWrite (h : BitVec 6) (v : BitVec 64) : State → State := pageWrite h v fun s =>
  updHank h (fun k => if k.cur.sqs = 0 then k else { k with sqtail := BitVec.ofNat 16 (bits v.toNat 0 16 % 2 ^ k.cur.sqs.toNat) }) s

/-- CQHEAD is written: the next completion may send its MSI-X message (R567). -/
def cqheadWrite (h : BitVec 6) (v : BitVec 64) : State → State := pageWrite h v fun s =>
  updHank h (fun k => if k.cur.cqs = 0 then k
    else { k with cqhead := BitVec.ofNat 16 (bits v.toNat 0 16 % 2 ^ k.cur.cqs.toNat), msixSent := false }) s

/-- SQTAIL. -/
def execSqtail (h : BitVec 6) (v : BitVec 64) (s : State) : Out := .next (sqtailWrite h v s)

/-- CQHEAD. -/
def execCqhead (h : BitVec 6) (v : BitVec 64) (s : State) : Out := .next (cqheadWrite h v s)

/-- A doorbell-page write that names a context: BADDB counts one outside the hank or FREE. -/
def pageCtx (h : BitVec 6) (v : BitVec 64) (f : CtxId → State → State) (s : State) : State :=
  pageWrite h v (fun s =>
    let c : CtxId := v.extractLsb' 0 16
    let x := getCtx s c
    if x.st = .free ∨ !x.hv ∨ x.hank ≠ h then updHank h (fun k => { k with baddb := min (2 ^ 32 - 1) (k.baddb + 1) }) s
    else f c s) s

/-- GUEST_DOORBELL. -/
def execGuestDoorbell (h : BitVec 6) (v : BitVec 64) (s : State) : Out := .next (pageCtx h v (fun c s => ringDoorbell c (hear hostSector c s)) s)

/-- GUEST_INTERRUPT. -/
def execGuestInterrupt (h : BitVec 6) (v : BitVec 64) (s : State) : Out := .next (pageCtx h v (fun c s => raiseIrq c 2 (hear hostSector c s)) s)

/-! ## Submission and completion queues (R563 to R568) -/

/-- Write a completion (R565 to R568): not written when its GEN is stale; one write of 16 bytes; the MSI-X message after one that was written. -/
def hankComplete (h : BitVec 6) (c : SubCmd) (status : Nat) (result : BitVec 64) (s : State) : State :=
  let k := getHank s h
  if c.gen ≠ k.gen then updHank h (fun k => { k with stalecnt := min (2 ^ 32 - 1) (k.stalecnt + 1) }) s
  else
    let n := 2 ^ k.cur.cqs.toNat
    let w0 := pack [(c.gen.toNat, 48), (c.cid.toNat, 32), (k.sqhead.toNat, 16), (status, 8), (b2n k.phase, 0)]
    let drop : Bool × State := (false, logEvent 0x17 3 37 0 none none 0 s)
    let (wrote, s) := match busAddr s (paOf (k.cur.cqbase.toNat + 2 * k.cqtail.toNat)) with
      | some a => if linkDead s then drop else (true, linkWrite (some h) a [w0, result] false false false s)
      | none => drop
    let last := decide (k.cqtail.toNat + 1 ≥ n)
    let s := updHank h (fun k => { k with cqtail := if last then 0 else k.cqtail + 1, phase := xor k.phase last }) s
    if wrote && k.cqien && !k.msixSent then msixRaise k.cqvec.toNat (updHank h (fun k => { k with msixSent := true }) s) else s

/-- A command of the queue, by its place among those outstanding, may go on: no FENCE stands before it, and the link holds nothing
back. -/
def cmdAt (s : State) (h : BitVec 6) (i : Nat) (op : BitVec 8) : Option SubCmd :=
  let k := getHank s h
  match k.cmds[i]? with
  | some c => if c.op = op ∧ !(k.cmds.take i).any (fun d => d.op = 4) ∧ (linkDead s || linkUp s) ∧ (k.state = 1 ∨ k.state = 2) then some c else none
  | none => none

/-- Entries that were refused at their fetch complete once no FENCE stands before them (R566): they stand in the list with OP 0. -/
def refusedEnd (h : BitVec 6) : Nat → State → State
  | 0, s => s
  | n + 1, s =>
    let k := getHank s h
    match ((k.cmds.takeWhile fun d => decide (d.op ≠ 4)).zipIdx.find? fun e => decide (e.1.op = 0)) with
    | some (c, i) => refusedEnd h n (hankComplete h c c.stat.toNat 0 (updHank h (fun k => { k with cmds := k.cmds.eraseIdx i }) s))
    | none => s

/-- Remove a command and complete it; refused entries behind a FENCE and a PAUSE may go on. -/
def cmdEnd (h : BitVec 6) (i : Nat) (c : SubCmd) (status : Nat) (result : BitVec 64) (s : State) : State :=
  let s := hankComplete h c status result (updHank h (fun k => { k with cmds := k.cmds.eraseIdx i }) s)
  hankSettle h (refusedEnd h (getHank s h).cmds.length s)

/-- A command goes on later with its progress. -/
def cmdSet (h : BitVec 6) (i : Nat) (c : SubCmd) (s : State) : State := updHank h (fun k => { k with cmds := k.cmds.set i c }) s

/-- The device may fetch the hank's next submission entry (R566, R570, R584, R646). -/
def mayFetch (s : State) (h : BitVec 6) : Bool :=
  let k := getHank s h
  let n := 2 ^ k.cur.cqs.toNat
  decide (k.state = 1) && decide (k.pend = 0 ∨ k.pend = 1 ∨ k.pend = 2) && (issuing s || (decide (s.mode = .standby) && !s.m.entering)) &&
    decide (k.cur.sqs ≠ 0) && decide (k.sqtail ≠ k.sqhead) &&
    decide (k.cmds.length + (k.cqtail.toNat + n - k.cqhead.toNat) % n < n - 1) && linkUp s &&
    (busAddr s (paOf (k.cur.sqbase.toNat + 4 * k.sqhead.toNat))).isSome

/-- The status of a fetched entry that does not run: stale generation, bad operation, or a transfer outside the grant (R564, R568). The
spec gives no status for a LEN outside 1 to 1,048,576: a free one of bad operation and outside grant. -/
def entryStatus (h : BitVec 6) (c : SubCmd) (s : State) : Nat × State :=
  let k := getHank s h
  if c.gen ≠ k.gen then (1, s)
  else if c.op = 0 ∨ c.op.toNat > 4 then (2, s)
  else if c.op.toNat ≤ 2 then
    let n := c.arg2.toNat
    if n = 0 ∨ n > 1048576 then
      let r := freshNat s
      (2 + r.1 % 2, r.2)
    else
      let a := bits c.arg0.toNat 0 40
      let w := bits c.arg1.toNat 0 40
      let g := k.cur
      (if covered (dramRanges g ++ frameRanges s g) a n ∧ g.hwbase.toNat ≤ w ∧ w + n ≤ g.hwlim.toNat then 0 else 3, s)
  else (0, s)

/-- SUBMISSION_FETCH: the device reads the next entry, whose four words the host returns (R563, R566, R568). One that does not run completes with its
status, behind an earlier FENCE. -/
def execSubmissionFetch (h : BitVec 6) (w0 w1 w2 w3 : BitVec 64) (s : State) : Out := .next (
  if !mayFetch s h then s
  else
    let k := getHank s h
    let s := match busAddr s (paOf (k.cur.sqbase.toNat + 4 * k.sqhead.toNat)) with
      | some a => linkSend (.read a 4 false) s
      | none => s
    let s := updHank h (fun k => { k with sqhead := BitVec.ofNat 16 ((k.sqhead.toNat + 1) % 2 ^ k.cur.sqs.toNat) }) s
    let c : SubCmd :=
      { gen := w0.extractLsb' 48 16, cid := w0.extractLsb' 32 16, op := w0.extractLsb' 24 8, arg0 := w1, arg1 := w2, arg2 := w3, stat := 0, done := 0 }
    match entryStatus h c s with
    | (0, s) => updHank h (fun k => { k with cmds := k.cmds ++ [c] }) s
    | (n, s) =>
      let s := if n = 1 then updHank h (fun k => { k with stalecnt := min (2 ^ 32 - 1) (k.stalecnt + 1) }) s else s
      let c : SubCmd := { c with gen := k.gen, op := 0, stat := BitVec.ofNat 8 n }
      let s := updHank h (fun k => { k with cmds := k.cmds ++ [c] }) s
      refusedEnd h (getHank s h).cmds.length s)

/-- Send cells to consecutive host cells as runs of one poison state (R564). Answers false when a target is dead. -/
def sendRun (h : BitVec 6) (run : List (BitVec 64)) (a : BitVec 64) (poison : Bool) (s : State) : State :=
  if run.isEmpty then s else linkWrite (some h) a run poison false false s

/-- READ of cells: the runs are sent as they end; the count of cells sent, whether one was poisoned, whether a target was dead. -/
def readCells (h : BitVec 6) (src dst : Nat) : Nat → Nat → List (BitVec 64) × BitVec 64 × Bool → Bool → State → Nat × Bool × Bool × State
  | 0, i, run, bad, s => (i, bad, false, sendRun h run.1 run.2.1 run.2.2 s)
  | n + 1, i, run, bad, s =>
    match busAddr s (paOf (dst + i)) with
    | none => (i, bad, true, sendRun h run.1 run.2.1 run.2.2 s)
    | some b =>
      let s := hostReach (lineOf (paOf (src + i))) false s
      match readCell none (paOf (src + i)) s with
      | (r, s) =>
        let v := cellAt s (paOf (src + i))
        let joins := !run.1.isEmpty && decide (run.1.length < maxWrite s) && run.2.2 == r.isNone && decide (b = run.2.1 + BitVec.ofNat 64 (8 * run.1.length))
        if joins then readCells h src dst n (i + 1) (run.1 ++ [v], run.2.1, run.2.2) (bad || r.isNone) s
        else readCells h src dst n (i + 1) ([v], b, r.isNone) (bad || r.isNone) (sendRun h run.1 run.2.1 run.2.2 s)

/-- READ: the next block of 512 cells of a command goes to the host window (R564, R573). -/
def execRead (h : BitVec 6) (i : Nat) (s : State) : Out := .next (
  match cmdAt s h i 1 with
  | none => s
  | some c =>
    if linkDead s then cmdEnd h i c 4 (BitVec.ofNat 64 c.done) s
    else
      let n := min 512 (c.arg2.toNat - c.done)
      match readCells h (bits c.arg0.toNat 0 40 + c.done) (bits c.arg1.toNat 0 40 + c.done) n 0 ([], 0, false) false s with
      | (m, bad, dead, s) =>
        let c' := { c with done := c.done + m, stat := if bad then 5 else c.stat }
        if dead then cmdEnd h i c' 4 (BitVec.ofNat 64 c'.done) s
        else if c'.done = c.arg2.toNat then cmdEnd h i c' c'.stat.toNat (BitVec.ofNat 64 c'.done) s
        else cmdSet h i c' s)

/-- Read a run of host cells: one read for each slice of the window that it lies in (R564, R586). -/
def readRuns (src : Nat) : Nat → Nat → Option (BitVec 64 × Nat) → State → State
  | 0, _, run, s => match run with
    | some (b, m) => linkSend (.read b m false) s
    | none => s
  | n + 1, j, run, s =>
    match busAddr s (paOf (src + j)), run with
    | some b, some (b0, m) =>
      if b = b0 + BitVec.ofNat 64 (8 * m) ∧ m < maxRead s then readRuns src n (j + 1) (some (b0, m + 1)) s
      else readRuns src n (j + 1) (some (b, 1)) (linkSend (.read b0 m false) s)
    | some b, none => readRuns src n (j + 1) (some (b, 1)) s
    | none, _ => readRuns src 0 0 run s

/-- WRITE: the next block of 512 cells of a command, as far as the host returns data: `data` the cells, `ok` that no completion was
poisoned or refused (R564). -/
def execWrite (h : BitVec 6) (i : Nat) (data : List Cell) (ok : Bool) (s : State) : Out := .next (
  match cmdAt s h i 2 with
  | none => s
  | some c =>
    let n := min 512 (c.arg2.toNat - c.done)
    let src := bits c.arg1.toNat 0 40 + c.done
    let dst := bits c.arg0.toNat 0 40 + c.done
    if linkDead s then cmdEnd h i c 4 (BitVec.ofNat 64 c.done) s
    else
      let reach := ((upto n).takeWhile fun j => (busAddr s (paOf (src + j))).isSome).length
      let got := (data.take n).take reach
      let s := readRuns src reach 0 none s
      let s := got.zipIdx.foldl (fun s e =>
        let a := paOf (dst + e.2)
        putCell none a e.1 (hostReach (lineOf a) true s)) s
      let c' := { c with done := c.done + got.length }
      if !ok || got.length < n then cmdEnd h i c' 4 (BitVec.ofNat 64 c'.done) s
      else if c'.done = c.arg2.toNat then cmdEnd h i c' 0 (BitVec.ofNat 64 c'.done) s
      else cmdSet h i c' s)

/-- SUBMISSION_CTXCMD: a context command of the hank at L1 (R564); it completes when its CTXRES is no longer in progress. -/
def execSubmissionCtxcmd (h : BitVec 6) (i : Nat) (s : State) : Out := .next (
  match cmdAt s h i 3 with
  | none => s
  | some c =>
    let busy (s : State) : Bool := bits (getHank s h).res.toNat 44 4 = 0xF
    let fin (s : State) : State :=
      if busy s then cmdSet h i { c with done := 1 } s else cmdEnd h i c 0 ((getHank s h).res.setWidth 64) s
    if c.done = 1 then fin s
    else if busy s then s
    else
      let v : Datum := c.arg0.extractLsb' 0 48
      fin (ctxCommand (bits v.toNat 44 4) (ctxCmdOf (.hank h) v) (updHank h (fun k => { k with arg := c.arg1.extractLsb' 0 48 }) s)))

/-- FENCE: completes once every earlier entry has (R564). -/
def execFence (h : BitVec 6) (s : State) : Out := .next (
  match cmdAt s h 0 4 with
  | none => s
  | some c => cmdEnd h 0 c 0 0 s)

/-! ## The dirty log (R573, R574) -/

/-- Start a synchronisation: the record of marks empties, the flush read leaves as the link carries it. -/
def hankSync (h : BitVec 6) (s : State) : State :=
  let k := getHank s h
  if k.sbusy then s
  else syncStep h (updHank h (fun k => { k with sbusy := true, marked := [], sync := .want (k.sent.getD k.dlmap) }) s)

/-- SYNC. -/
def execSync (h : BitVec 6) (s : State) : Out := .next (hostWr (hankSync h) s)

/-- A flush read that was sent. -/
def flushOut (f : Flush) : Bool :=
  match f with
  | .out _ => true
  | _ => false

/-- SYNC_COMPLETE: the flush reads that the hank has sent return: SBUSY falls, and a PAUSE, RESET or REMOVE that waited goes on (R570, R571, R574). -/
def execSyncComplete (h : BitVec 6) (s : State) : Out := .next (
  let k := getHank s h
  let s := if flushOut k.sync then updHank h (fun k => { k with sync := .none, sbusy := false }) s else s
  hankSettle h (if flushOut k.flush then updHank h (fun k => { k with flush := .none }) s else s))

/-! ## Register writes (R557) and the doorbell page's reads (R562) -/

/-- A host write of a register of a hank block. -/
def hankWrite (h : BitVec 6) (n : Nat) (v : BitVec 64) (s : State) : State :=
  if n = 0 then hankCommand (bits v.toNat 60 4) h s
  else if n = 0x1C then updHank h (fun k => { k with even := v.getLsbD 16, evctx := v.extractLsb' 0 16 }) s
  else if n = 0x20 then
    let s := updHank h (fun k => { k with dlen := v.getLsbD 63, out := k.out && !v.getLsbD 60, dlpages := v.extractLsb' 0 28 }) s
    if v.getLsbD 62 then hankSync h s else s
  else if n = 0x21 then updHank h (fun k => { k with dlmap := v }) s
  else if n = 0x22 then updHank h (fun k => { k with dllo := v }) s
  else updHank h (fun k =>
    { k with stg := stgWrite k.stg n v
             cqien := if n = 0x1B then v.getLsbD 59 else k.cqien
             cqvec := if n = 0x1B then v.extractLsb' 48 11 else k.cqvec }) s

/-- A read of a doorbell page by offset. NSPIN leaves out spindles out of service (R712). -/
def pageRead (s : State) (k : Hank) (off : Nat) : BitVec 64 :=
  if off = 0x20 then pack [(k.gen.toNat, 48), (k.state.toNat, 44)]
  else if off = 0x28 then
    pack [(((spList k.cur.spmask).filter fun p => !outOfService s p).length, 32), (k.cur.waymask.toNat, 16), (k.cur.cquota.toNat, 0)]
  else 0

end Sys2Proof.Machine
end

