-- ==== Sys2Proof/Machine/Timebase.lean ====
section
/-! DEFINITION. Compares, captures and the reference of the timebase (R612 to R628). -/

namespace Sys2Proof.Machine

/-! ## The count (R612, R625, R628) -/

/-- Ticks of the slow clock in its first `ns` nanoseconds, one each 30,517.578125 ns (R626). -/
def slowTick (ns : Nat) : Nat := ns * 64 / 1953125

/-- The TB that `k` ticks after the `n`-th advance it by, at the measured period (R626, R628). -/
def slowAdv (s : State) (n k : Nat) : Nat := (n + k) * s.m.slow.p / 2 ^ 20 - n * s.m.slow.p / 2 ^ 20

/-- An armed compare whose V the count has left more than 1 ns behind when it resumes fires with LATE (R619). -/
def cmpLate (s : State) : State :=
  let late (c : Cmp) : Cmp := if c.en && !c.done && decide (c.v.toNat + 1 < s.tb) then { c with late := true } else c
  { s with cmps := (s.cmps.map fun e => (e.1, late e.2)).filter fun e => e.2 ≠ {} }

/-- The measurement of P starts again at tick `n`. -/
def slowStart (n : Nat) (s : State) : State := updM (fun m => { m with slow := { m.slow with tb := s.tb, n := n, wTb := s.tb, wN := n } }) s

/-- Tick `n` of the slow clock while the device runs: its TB is kept (T0, S0 of R626), and each 32,768 ticks counted from the reference measure
P in units of 2^-20 ns. -/
def slowEdge (n : Nat) (s : State) : State :=
  let w := s.m.slow
  let s := updM (fun m => { m with slow := { m.slow with tb := s.tb, n := n } }) s
  if n - w.wN < 32768 then s
  else updM (fun m => { m with slow := { m.slow with p := (s.tb - w.wTb) * 2 ^ 20 / (n - w.wN), wTb := s.tb, wN := n } }) s

/-- The nanosecond that has just passed on the slow clock passes for TB: it counts from the reference, or under HOLD by the measured period of the
slow clock at each tick. At the first tick after the reference has returned HOLD ends. -/
def tbTick (s : State) : State :=
  if !s.tbRun || decide (s.mode = .sleep) then s
  else
    let n := slowTick s.m.clock
    let old := slowTick (s.m.clock - 1)
    let d := if s.tbHold then slowAdv s old (n - old) else 1
    let s := { s with tb := (s.tb + d) % 2 ^ 64 }
    if n ≤ old then s
    else if s.tbRet then slowStart n (cmpLate { s with tbHold := false, tbRet := false })
    else if s.tbHold then slowStart n s
    else slowEdge n s

/-- The time a capture stamps: TB, and under HOLD the TB of the tick that follows (R628). -/
def tbStamp (s : State) : Nat :=
  if s.tbHold then (s.tb + slowAdv s (slowTick s.m.clock) 1) % 2 ^ 64 else s.tb

/-! ## Compares and captures -/

/-- Set source 0 of a compare's context; MISS when it is FREE (R619). -/
def cmpIrq (c : CtxId) (n : Nat) (s : State) : State :=
  if (getCtx s c).st = .free then setCmp s n { getCmp s n with miss := true } else raiseIrq c 0 s

/-- An interrupt or bit action: held while the device is in HALT (R625). -/
def timeAct (a : HeldAct) (s : State) : State :=
  if s.mode = .halt then { s with heldActs := s.heldActs ++ [a] }
  else match a with
    | .irq c n => cmpIrq c n s
    | .bit k b => bit2Put k b true s

/-- The held actions are delivered in firing order on leaving HALT (R625). -/
def deliverHeld (s : State) : State := s.heldActs.foldl (fun s a => timeAct a s) { s with heldActs := [] }

/-- The level of pin CMPO(n mod 4) after a pin action (R618). -/
def pinAction (n : Nat) (act : BitVec 2) (o : BitVec 4) : BitVec 4 :=
  if act = 0 then o else setBit o (n % 4) (if act = 1 then true else if act = 2 then false else !o.getLsbD (n % 4))

/-- The compare after a firing (R619): FIRED, LATE, and the next V of a periodic one. -/
def cmpNext (tb : Nat) (x : Cmp) : Cmp :=
  let x := { x with fired := true, lateF := x.lateF || x.late }
  let p := x.period.toNat
  if p = 0 then { x with en := false, done := true, late := false }
  else
    let k := (tb - x.v.toNat) / p + 1
    { x with v := BitVec.ofNat 64 (x.v.toNat + k * p), done := false, late := decide (k > 1) }

/-- An armed compare whose V the timebase has reached, and that has not fired for it (R619). -/
def cmpDue (s : State) (i : Nat) : Bool :=
  let x := getCmp s i
  x.en && !x.done && decide (x.v.toNat ≤ s.tb)

/-- The flags that a firing sets in the nanosecond in which a write of its CTL arrives are not cleared by that write (R9, R620). -/
def cmpKeep (i : Nat) (x : Cmp) (s : State) : State :=
  if s.cmpW.any fun w => w.1.toNat = 0x3E0 + i then
    let y := getCmp s i
    setCmp s i { y with kept := some (s.m.clock, b1 true ++ b1 x.late ++ b1 (x.irq && y.miss && !x.miss)) }
  else s

/-- A compare fires (R619): its flags and its next V, the pin, the interrupt, the bit. -/
def cmpFire (i : Nat) (s : State) : State :=
  let x := getCmp s i
  let s := { (setCmp s i (cmpNext s.tb x)) with cmpo := pinAction i x.pinact s.cmpo }
  let s := if x.irq then timeAct (.irq x.bind i) s else s
  let s := if x.bite then timeAct (.bit x.bskein x.bit) s else s
  cmpKeep i x s

/-- COMPARE_FIRE: a compare that is due fires, after those of lower number that are due with it (R619). -/
def execCompareFire (n : BitVec 3) (s : State) : Out := .next (
  let i := n.toNat
  if !cmpDue s i || (upto i).any (cmpDue s) || decide (s.mode = .sleep) then s else cmpFire i s)

/-- Before TB goes on, every compare that is due fires, in ascending number: no armed V passes without its firing (R619). -/
def cmpFireDue (s : State) : State :=
  if s.mode = .sleep then s else (upto 8).foldl (fun s i => if cmpDue s i then cmpFire i s else s) s

/-- The oldest register write on its way to domain 38 arrives (R620, R621). -/
def cmpArrive (s : State) : State :=
  match s.cmpW with
  | [] => s
  | (n, v) :: r => cmpWrite n.toNat v { s with cmpW := r }

/-- COMPARE_WRITE: the oldest register write on its way to domain 38 takes effect (R620, R621); in SLEEP the domain is off (R625). -/
def execCompareWrite (s : State) : Out := .next (if s.mode = .sleep then s else cmpArrive s)

/-- A recorded edge (R622, R623). `alone`: the only recorded edge of a phase too short for both, which pairs with nothing. Two edges of one stamp,
which HOLD alone can give, are no pair either: a pair is at least 1 ns wide. -/
def capRecord (tb : Nat) (up alone ren : Bool) (x : Cap) : Cap :=
  if up then
    { x with rise := BitVec.ofNat 64 tb, rseq := x.rseq + 1, rovr := x.rovr || x.rv, rv := true, pair := false, lastRise := true }
  else
    { x with fall := BitVec.ofNat 64 tb, fseq := x.fseq + 1, fovr := x.fovr || x.fv, fv := true,
             pair := x.lastRise && ren && !alone && decide (x.rise ≠ BitVec.ofNat 64 tb), lastRise := false }

/-- Domain 38 samples the capture inputs: it is powered, and not in SLEEP. -/
def capSamples (s : State) : Bool := decide (s.mode ≠ .sleep) && !s.m.pwr.off

/-- Sampling begins: LVL of every input is its level (R622). -/
def capLevels (s : State) : State := (upto 8).foldl (fun s i => setCap s i { getCap s i with lvl := s.m.capPins.getLsbD i }) s

/-- CAPTURE_EDGE: an edge of a capture input is sampled, and recorded when it is enabled (R621 to R623, R625). After a phase of which one
edge alone is recorded the level is again what it was. -/
def execCaptureEdge (n : BitVec 3) (e : CapEdge) (s : State) : Out := .next (
  let i := n.toNat
  let up := decide (e = .rise ∨ e = .loneRise)
  let alone := decide (e = .loneRise ∨ e = .loneFall)
  let s := updM (fun m => { m with capPins := setBit m.capPins i (up != alone) }) s
  if !capSamples s then s
  else
    let ren := s.capctl.getLsbD i
    let en := if up then ren else s.capctl.getLsbD (8 + i)
    let x := { getCap s i with lvl := up != alone }
    if !en then setCap s i x
    else
      let s := setCap s i (capRecord (tbStamp s) up alone ren x)
      let m := getCmp s i
      if s.capctl.getLsbD (16 + i) then timeAct (.bit m.bskein m.bit) s else s)

/-- REFERENCE_LOSS: TB counts from the slow clock; HOLD = 1 (R628). -/
def execReferenceLoss (s : State) : Out := .next (
  if !s.tbRun || (s.tbHold && !s.tbRet) || decide (s.mode = .sleep) then s
  else logEvent 0x1B 4 38 0 none none 0 { s with tbHold := true, tbRet := false })

/-- REFERENCE_RETURN: TB counts from the reference at the next slow tick (R628). The return is recorded and not counted as a loss. A CAN port that
was enabled without the reference starts (R598). -/
def execReferenceReturn (s : State) : Out := .next (
  if !s.tbHold || s.tbRet then s
  else
    let s := acceptRec { seq := 0, tb := 0, event := 0x1B, sev := 4, domain := 38, unit := 0, ctx := none, addr := none, detail := 1 }
      { s with tbRet := true }
    if s.m.nmt = .off ∧ (s.mode ≠ .bringup ∨ s.m.step > 3) then canStart s else s)

end Sys2Proof.Machine
end

