-- ==== Sys2Proof/Machine/Restart.lean ====
section
/-! DEFINITION. Lifecycle and debug level as fused, spares and retirement, the entry to BRINGUP, the start-up sequence (R683, R694,
R710 to R715, R721 to R731). -/

namespace Sys2Proof.Machine

/-! ## Lifecycle (R683) -/

/-- The lifecycle state: 0 BLANK, 1 DEV, 2 PROD, 3 RETURN, 4 END; the highest-numbered blown pair. -/
def lcOf (v : BitVec 8) : Nat :=
  let pair (i : Nat) : Bool := v.getLsbD (2 * i) && v.getLsbD (2 * i + 1)
  if pair 3 then 4 else if pair 2 then 3 else if pair 1 then 2 else if pair 0 then 1 else 0

/-- The lifecycle state of the device. -/
def lcState (s : State) : Nat := lcOf s.m.fuses.lc

/-- LCPEND: a pair is half blown. -/
def lcPend (v : BitVec 8) : Bool := (upto 4).any fun i => xor (v.getLsbD (2 * i)) (v.getLsbD (2 * i + 1))

/-- The debug level a lifecycle state opens without a token (R694). -/
def openLevel (lc : Nat) : BitVec 2 := if lc = 0 then 3 else if lc = 1 ∨ lc = 3 then 2 else 0

/-! ## Entry to BRINGUP (R643, R723, R731) -/

/-- What a device reset keeps: MRAM (banks, log, retirement records, start count, certificate, FAILCNT), fuses, the slow clock, the pins, the TAP,
conditions that still hold outside (R673), and what has left the device. With `lost`, distaff RAM is lost too: counters and queued records (R720).
`step`: where the start-up sequence resumes. -/
def bringup (cause : BitVec 8) (step : Nat) (lost : Bool) (s : State) : State :=
  let m := s.m
  let lv := openLevel (lcState s)
  { pending := s.pending
    fresh := s.fresh
    counters := if lost then [] else s.counters
    recQ := if lost then [] else s.recQ
    recSeq := s.recSeq
    log := s.log
    host := { out := s.host.out, perst := s.host.perst }
    m :=
      { cause := cause, step := step, clock := m.clock
        bankA := m.bankA, bankB := m.bankB, cur := m.cur, loadMark := m.loadMark
        canErr := m.canErr, txErrs := m.txErrs, rxErrs := m.rxErrs, capPins := m.capPins, canOut := m.canOut, conds := m.conds &&& 0x0087
        retire := m.retire, retClr := m.retClr, boots := m.boots, bootsDue := m.bootsDue, fuses := m.fuses, fuseW := m.fuseW
        dbg := { level := lv, high := lv, failcnt := m.dbg.failcnt, waitEnd := m.dbg.waitEnd }
        att := { cert := m.att.cert, certLen := m.att.certLen }
        pwr := { vin := m.pwr.vin, iin := m.pwr.iin, pin := m.pwr.pin, inhibit := m.pwr.inhibit, thermtrip := m.pwr.thermtrip
                 critical := m.pwr.critical, cold := m.pwr.cold
                 doms := (m.pwr.doms.map fun d => (d.1, ({ temp := d.2.temp } : Domain))).filter fun d => d.2 ≠ {} }
        tap := m.tap, testEn := m.testEn, resetN := m.resetN } }

/-- A fatal-error restart (R714): the record, BUCAUSE 7, start-up from step 2. -/
def fatalRestart (what unit : Nat) (s : State) : State :=
  bringup 7 2 false (logEvent 0x29 3 39 0 none none (what + 256 * unit) s)

/-! ## Spares (R710 to R712) -/

/-- The contexts assigned to a spindle. -/
def ctxsOn (s : State) (p : SpId) : List CtxId :=
  (s.ctxs.filter fun e => decide (e.2.st ≠ .free) && decide (ctxSp e.2 = p)).map fun e => BitVec.ofNat 16 e.1

/-- A failed spindle stops at a slot boundary: a pending FP exception is reported there (R348), both plies saved, a written f file saved to its
owner (R711). -/
def stopSpindle (p : SpId) (s : State) : State :=
  let s := fpSave p s
  (ctxsOn s p).foldl (fun s c =>
    if !onPly s c then s
    else
      let run := decide ((getCtx s c).st = .running)
      let s := match firstFp (getCtx s c) with
        | some f => if run then reportFp c f false s else s
        | none => s
      let run := decide ((getCtx s c).st = .running)
      let s := offPly c s
      if run then makeReady c s else s) s

/-- Every level-1 line of a spindle leaves its skein's presence records. -/
def l1Flush (p : SpId) (s : State) : State := (getSp s p).l1.foldl (fun s e => if e.2.valid then l1Drop p e.2.ln s else s) s

/-- The spare takes the number (R711): its spindle state is at reset; stores of the contexts still drain. UNIT of the record names the failed
position, as POS does (DESIGN CHOICE: R17 and R717 do not say whether it is that or the spare's position 16). -/
def spareIn (p : SpId) (s : State) : State :=
  let k := spSk p
  let s := retireAdd 1 k (spLs p).toNat 0 0 s
  let s := l1Flush p (stopSpindle p s)
  let s := updSp p (fun x => { ({} : Spindle) with sb := x.sb, ibusy := x.ibusy, ibCtx := x.ibCtx, ibLine := x.ibLine }) s
  let s := updSk k (fun x => { x with spareFor := some (spLs p) }) s
  condSet 5 false (notify none (logOnly 0x11 4 k.toNat (32 + (spLs p).toNat) none none 0 s))

/-- The number goes out of service (R712): PIN 2 becomes PIN 1, the contexts are served by the skein's other spindles. -/
def spindleOut (p : SpId) (s : State) : State :=
  let k := spSk p
  let pos := physPos (getSk s k) (spLs p)
  let s := retireAdd 2 k pos 0 0 s
  let s := l1Flush p (stopSpindle p s)
  let s := updSk k (fun x => { x with outOf := setBit x.outOf (spLs p).toNat true }) s
  let s := updAllCtx (fun c x =>
    if x.st ≠ .free ∧ x.pin = 2 ∧ (ctxSp x = p ∨ homeSp c = p) then { x with pin := 1 } else x) s
  let s := (ctxsOn s p).foldl (fun s c =>
    match anySpindle s k (getCtx s c).hv (getCtx s c).hank with
    | some l => redirect c (k, l) s
    | none => s) s
  condSet 5 false (notify none (logOnly 0x12 4 k.toNat (32 + pos) none none 0 s))

/-- A spindle is declared failed (R710 to R712); `ok` that the spare passes its self-test. -/
def spindleFail (p : SpId) (ok : Bool) (s : State) : State :=
  let x := getSk s (spSk p)
  if x.outOf.getLsbD (spLs p).toNat then s
  else if x.spareFor.isNone && !x.spareBad && ok then spareIn p s
  else
    let s := if x.spareFor = some (spLs p) ∨ (x.spareFor.isNone ∧ !x.spareBad) then updSk (spSk p) (fun x => { x with spareBad := true }) s else s
    spindleOut p s

/-- The spare of a skein fails: the number it serves goes out of service, or it is marked failed (R668, R712, R725). -/
def spareFail (k : SkId) (s : State) : State :=
  match (getSk s k).spareFor with
  | some l => spindleFail (k ++ l) false s
  | none => updSk k (fun x => { x with spareBad := true }) s

/-! ## Retirement (R437, R438, R715) -/

/-- The record of a retired way (R715). With 511 records held it takes the place of the first line record of that way, which it covers. -/
def retireWayRec (k : SkId) (w : Nat) (s : State) : State :=
  if s.m.retire.length < 511 then retireAdd 4 k w 0 0 s
  else match s.m.retire.findIdx? fun e => decide (bits e.toNat 50 14 = 2 ^ 10 * 5 + 2 ^ 5 * k.toNat + w) with
    | some i => updM (fun m => { m with retire := m.retire.set i (retireEntry 4 k w 0 0 m.boots) }) s
    | none => s

/-- Retire a way of a skein cache: cleaned, never used again. -/
def retireWay (k : SkId) (w : Nat) (s : State) : State :=
  let s := wayClean k w s
  let s := updSk k (fun x => { x with retWays := setBit x.retWays w true }) s
  logEvent 0x07 2 k.toNat (96 + w) none none 0 (retireWayRec k w s)

/-- Retire a line of a skein cache and record it; the fourth in a way retires the way too, and with a full map the way is retired
instead (R438, R715, R720). -/
def retireLine (k : SkId) (set w : Nat) (s : State) : State :=
  let full := decide (s.m.retire.length ≥ 511)
  let s := match skAt (getSk s k) set w with
    | l => if l.st = .inv then s else skDrop k l.ln s
  let s := updSk k (fun x => { x with cache := mapSet {} x.cache (set * 16 + w) { retired := true } }) s
  let n := ((getSk s k).cache.filter fun e => decide (e.1 % 16 = w) && e.2.retired).length
  let s := logEvent 0x06 2 k.toNat (96 + w) none (some (2 ^ 28 * set + 2 ^ 24 * w)) 0 s
  let s := if full then s else retireAdd 5 k w set 0 s
  if full ∨ n ≥ 4 then retireWay k w s else s

/-- Retire a level-1 line; the fourth of a spindle declares it failed (R438, R710). -/
def retireL1 (p : SpId) (ln : Nat) (s : State) : State :=
  let pos := physPos (getSk s (spSk p)) (spLs p)
  let old := l1At (getSp s p) ln
  let s := if old.valid then l1Drop p old.ln s else s
  let s := updSp p (fun x => { x with l1 := mapSet {} x.l1 ln { retired := true } }) s
  let s := logEvent 0x06 2 (spSk p).toNat (32 + pos) none none ln (retireAdd 6 (spSk p) pos 0 ln s)
  if ((getSp s p).l1.filter fun e => e.2.retired).length ≥ 4 then spindleFail p true s else s

/-- Apply one stored retirement record at a start (R715). Lines belong to a physical position: those of one that a spare replaces are not
applied to the spare (R17). -/
def applyRetire (e : BitVec 64) (s : State) : State :=
  let kind := bits e.toNat 60 4
  let k : SkId := e.extractLsb' 55 5
  let pos := bits e.toNat 50 5
  let x := getSk s k
  let logical : BitVec 4 := if pos = 16 then x.spareFor.getD 0 else BitVec.ofNat 4 pos
  let gone : Bool := if pos = 16 then x.spareFor.isNone else decide (x.spareFor = some (BitVec.ofNat 4 pos))
  match kind with
  | 1 => updSp (k ++ BitVec.ofNat 4 pos) (fun p => { p with l1 := [] }) (updSk k (fun x => { x with spareFor := some (BitVec.ofNat 4 pos) }) s)
  | 2 => updSk k (fun x => { x with outOf := setBit x.outOf logical.toNat true, spareBad := x.spareBad || decide (pos = 16) || x.spareFor.isNone }) s
  | 3 => updUnit k (BitVec.ofNat 2 pos) (fun u => { u with off := true }) s
  | 4 => updSk k (fun x => { x with retWays := setBit x.retWays (pos % 16) true }) s
  | 5 => updSk k (fun x => { x with cache := mapSet {} x.cache (bits e.toNat 38 12 * 16 + pos % 16) { retired := true } }) s
  | 6 => if gone then s else updSp (k ++ logical) (fun p => { p with l1 := mapSet {} p.l1 (bits e.toNat 32 6) { retired := true } }) s
  | _ => s

/-- A unit that fails the self-test of step 5 (R725); true when the start-up fails, with its reason and unit. -/
def failUnit (u : UnitFail) (s : State) : Option (Nat × Nat) × State :=
  match u with
  | .spindle p => (none, spindleFail p true s)
  | .spare k => (none, spareFail k s)
  | .way k w => (none, retireWay k w.toNat s)
  | .line k set w => (none, retireLine k set.toNat w.toNat s)
  | .l1Line p ln => (none, retireL1 p ln.toNat s)
  | .twist k u =>
    let s := unitRemove k u s
    (if unitsIn (getSk s k) = 0 then some (2, k.toNat) else none, s)

/-- A corrected error of a DRAM device of a channel; the 64th within 24 hours logs the device once as degraded (R709). -/
def dramError (ch : Nat) (dev : BitVec 16) (s : State) : State :=
  let key := 65536 * ch + dev.toNat
  let l := s.tb :: (mapGet [] s.dramErrs key).filter fun t => decide (s.tb < t + 86400000000000)
  let s := { s with dramErrs := mapSet [] s.dramErrs key l }
  if l.length ≥ 64 ∧ !mapGet false s.dramDeg key then
    logEvent 0x0D 4 36 (192 + ch) none none key { s with dramDeg := mapSet false s.dramDeg key true }
  else s

/-- The severity of the record of an array error (R704, R716). -/
def arrSev (event : Nat) : Nat := if event = 0x05 ∨ event = 0x08 then 0 else if event = 0x09 then 1 else if event = 0x03 then 2 else 3

/-- Record an array error at its place (R717), count it for its DRAM device (R709), and retire the place where its class asks for it (R438). -/
def arrSettle (e : ArrDue) (s : State) : State :=
  let noted (p : Nat × Nat × Nat) : State := if e.event = 0 then s else logInj e.inj e.event (arrSev e.event) p.1 p.2.1 none p.2.2 0 s
  match e.place with
  | .dram ln dev =>
    let t := noted (36, 192 + chanOf ln, 8 * ln)
    if e.event = 0x08 then dramError (chanOf ln) dev t else t
  | .unit u =>
    let t := noted (match u with
      | .line k set w => (k.toNat, 96 + w.toNat, 2 ^ 28 * set.toNat + 2 ^ 24 * w.toNat)
      | .l1Line q i => ((spSk q).toNat, 32 + physPos (getSk s (spSk q)) (spLs q), 2 ^ 28 * i.toNat)
      | _ => (0, 0, 0))
    if e.retire then (failUnit u t).2 else t

/-- The array errors that the accesses of the last step met are recorded, and their places retired (R435, R437, R438). -/
def arrTick (s : State) : State := s.arrDue.foldl (fun s e => arrSettle e s) { s with arrDue := [] }

/-! ## The link's own reset (R583, R662) -/

/-- The host-link domain is reset: configuration space, the MSI-X table, windows, routes, EXTTMO and APERTURE; outstanding messages end
at their timeout (R144); requests waiting for the host end at a dead target. -/
def linkReset (s : State) : State :=
  let h := s.host
  let s := { s with host := { out := h.out, ans := h.ans, mbox := h.mbox, perst := h.perst
                              ssvid := (objGet s 0x1E00 3).setWidth 16, ssid := (objGet s 0x1E00 4).setWidth 16 }
                    extEn := 0 }
  hostResume s

/-! ## The start-up sequence (R721 to R729) -/

/-- The output of a domain when it is powered (R629): fixed, or what gives 1,600 M hs/s, which the spec does not state. -/
def startVolt (d : Nat) : Nat :=
  if d = 36 then 750 else if d = 37 then 850 else if d = 38 ∨ d = 39 then 800 else 600 + 5 * (Config.volt1600 d % 65)

/-- The second output of the memory and the host link domain (R629). -/
def secondVolt (d : Nat) : Nat := if d = 36 then 1100 else if d = 37 then 1200 else 0

/-- Power on every domain of a range at 1,600 M hs/s. The input stage feeds them all (R629). -/
def domsOn (lo hi : Nat) (s : State) : State :=
  updM (fun m => { m with pwr := { m.pwr with
    off := false
    bus := 1800
    doms := (upto (hi + 1 - lo)).foldl (fun ds i =>
      mapSet {} ds (lo + i) { (mapGet {} ds (lo + i) : Domain) with
        volt := startVolt (lo + i), vset := startVolt (lo + i), volt2 := secondVolt (lo + i), target := 1600, rate := 1600 }) m.pwr.doms } }) s

/-- The bank that a device reset loads: the valid one with the highest sequence number, unless "load" has marked it (R670, R671). -/
def bankToLoad (m : Mgmt) : Option Bool :=
  if m.loadMark then none
  else if m.bankA.valid ∧ (!m.bankB.valid ∨ m.bankA.seq ≥ m.bankB.seq) then some false
  else if m.bankB.valid then some true
  else none

/-- Step 2: parameters loaded, retirement records cleared when asked, BOOTS counted once the inhibit lets it (R671, R692, R719, R730). -/
def initDistaff (s : State) : State :=
  let m := s.m
  let s := match bankToLoad m with
    | some b => updM (fun m => { m with cur := b, objs := (if b then m.bankB else m.bankA).vals }) s
    | none =>
      let s := updM (fun m => { m with objs := [] }) s
      if m.loadMark then s
      else acceptRec { seq := 0, tb := 0, event := 0, sev := 4, domain := 39, unit := 0, ctx := none, addr := none, detail := 2 } s
  updM (fun m => { m with boots := if m.pwr.inhibit then m.boots else m.boots + 1, bootsDue := m.pwr.inhibit, retire := if m.retClr then [] else m.retire, retClr := false }) s

/-- A start-up failure (R727): the record, BUCAUSE 6; the device stays at its step. -/
def startFail (step reason unit : Nat) (s : State) : State :=
  updM (fun m => { m with failed := true, cause := 6 })
    (acceptRec { seq := 0, tb := 0, event := 0, sev := 4, domain := 39, unit := 0, ctx := none, addr := none
                 detail := step + 2 ^ 8 * reason + 2 ^ 16 * unit } s)

/-- The sequence goes on to its next step. -/
def nextStep (s : State) : State := updM (fun m => { m with step := m.step + 1 }) s

/-- Step 8: STANDBY; a debug halt held since BRINGUP follows at once (R721, R730). -/
def startDone (s : State) : State :=
  let s := { s with mode := .standby, skeins := (s.skeins.map fun k => (k.1, { k.2 with dis := false })).filter fun k => k.2 ≠ {} }
  let s := updM (fun m => { m with step := 0, scrub := 0 }) s
  if s.m.haltHeld then
    updM (fun m => { m with haltHeld := false, haltOrg := 2, saved := .standby }) { s with mode := .halt }
  else s

/-- The population that training reports keeps R594: every channel the same DIMMs, one or two of them, at one of the three rates. -/
def popOk (pop : List (List Dimm)) (rate : Nat) : Bool :=
  let c := pop.headD []
  decide (pop.length = 12) && pop.all (fun d => decide (d = c)) && decide (c.length = 1 ∨ c.length = 2) &&
    c.all (fun d => decide (d = c.headD {})) && decide (rate = 128 ∨ rate = 112 ∨ rate = 96)

/-- Step 6 (R594, R721, R726, R727): the installed DRAM is 12 × DIMMs per channel × capacity; another population is a start-up failure. -/
def dramTrained (pop : List (List Dimm)) (rate : Nat) (s : State) : State :=
  if popOk pop rate then
    let c := pop.headD []
    let d := c.headD {}
    nextStep { (updM (fun m => { m with
      pwr := { m.pwr with dramReset := false }
      dimms := { per := c.length, gib := d.gib, ranks := d.ranks, width := d.width, rate := rate } }) s) with
      dram := min (2 ^ 27 * (12 * c.length * d.gib)) 0x6000000000 }
  else startFail 6 2 0xFF s

/-- A step of the sequence completes (R721). -/
def stepDone (o : StepOut) (s : State) : State :=
  match s.m.step with
  | 1 => nextStep (updM (fun m => { m with pwr := { m.pwr with inhibit := false } }) s)
  | 2 => nextStep (initDistaff s)
  | 3 => nextStep (canStart (slowStart (slowTick s.m.clock) { s with tb := 0, tbRun := true }))
  | 4 => nextStep (capLevels (domsOn 36 38 s))
  | 5 =>
    let s := domsOn 0 35 (s.m.retire.foldl (fun s e => applyRetire e s) s)
    let l : List UnitFail := match o with
      | .units l => l
      | _ => []
    let r := l.foldl (fun (acc : Option (Nat × Nat) × State) u =>
      if acc.1.isSome then acc else failUnit u acc.2) (none, s)
    (match r with
     | (some (reason, unit), s) => startFail 5 reason unit s
     | (none, s) => nextStep s)
  | 6 => (match o with
    | .dram pop rate => dramTrained pop rate s
    | _ => s)
  | 7 => nextStep { s with mem := [], poisoned := [], arrErr := [], arrDue := [], dramBad := [] }
  | 8 => startDone s
  | _ => s

/-- The sequence is held (R652, R724, R727): a failure, an asserted THERMTRIP_N or RESET_N, and at step 2 TEST_EN, LC_END, the cold
limit. -/
def startHeld (s : State) : Bool :=
  let m := s.m
  m.failed || m.pwr.thermtrip || !m.resetN || decide (s.mode ≠ .bringup) || (decide (lcState s = 4) && decide (m.step = 2 ∨ m.step = 8)) ||
    (decide (m.step = 2) && (m.testEn || m.pwr.cold))

/-- START_UP: the running step of the sequence ends. In LC_END the sequence stops there (R730). -/
def execStartUp (o : StepOut) (s : State) : Out := .next (
  if startHeld s then s
  else match o with
    | .fail r u => startFail s.m.step r.toNat u.toNat s
    | _ =>
      let t := stepDone o s
      if lcState s = 4 ∧ s.m.step ≠ 1 ∧ t.m.step ≠ s.m.step then updM (fun m => { m with step := s.m.step, failed := true }) t else t)

/-- RESET_N: asserted for 10 µs, operation is abandoned; released, the sequence starts at step 2 (R730). THERMTRIP_N is released when
the junction is below 85 °C (S) or 95 °C (X) (R652). `te`: the level of TEST_EN (R604). -/
def execResetN (high te : Bool) (s : State) : Out := .next (
  if high then updM (fun m => { m with resetN := true, testEn := te }) s
  else
    let hot := s.m.pwr.doms.any fun d => decide (d.1 ≤ 38 ∧ d.2.temp ≥ (if Config.orderX then 760 else 680))
    let s := bringup 1 2 false s
    updM (fun m => { m with resetN := false, testEn := te, pwr := { m.pwr with thermtrip := m.pwr.thermtrip && hot } }) s)

/-- LOST_MEMORY_CHANNEL: a fatal-error restart (R714). -/
def execLostMemoryChannel (ch : BitVec 4) (s : State) : Out := .next (
  if s.mode = .bringup ∧ s.m.step ≤ 6 ∧ s.m.step ≠ 0 then s else fatalRestart 3 ch.toNat s)

/-- FABRIC_CRC_ERROR: a flit is resent `n` times; a fifth failure restarts the device (R705, R714, R716). -/
def execFabricCrcError (sector : BitVec 2) (n : Nat) (s : State) : Out := .next (
  let d := 32 + sector.toNat
  if s.m.pwr.off ∨ s.mode = .sleep ∨ (s.mode = .bringup ∧ s.m.step ≤ 4) then s else
  let s := (upto (min n 4)).foldl (fun s _ => logEvent 0x1F 1 d 0 none none n s) s
  if n ≥ 5 then fatalRestart 1 sector.toNat s else s)

/-- A spindle has failed (R710): a Hard register-file error, a declaration by SUBST (R719), four retired level-1 lines, or two spindle
resets within 24 hours that count. -/
def spindleFailed (p : SpId) (hard : Bool) (s : State) : Bool :=
  let x := getSp s p
  hard || (getSk s (spSk p)).failed.getLsbD (spLs p).toNat || decide ((x.l1.filter fun e => e.2.retired).length ≥ 4) ||
    decide ((x.resets.filter fun t => decide (s.tb < t + 86400000000000)).length ≥ 2)

/-- SUBSTITUTION: a failed spindle's number moves to its skein's spare, or out of service (R711, R712); `hard`: it suffered a Hard
register-file error, `ok`: the spare passes its self-test. In a parked skein it starts when the skein wakes (R720). -/
def execSubstitution (p : SpId) (hard ok : Bool) (s : State) : Out := .next (
  if s.mode = .bringup ∨ s.mode = .sleep ∨ (getSk s (spSk p)).parked ∨ !spindleFailed p hard s then s
  else spindleFail p ok (updSk (spSk p) (fun x => { x with failed := setBit x.failed (spLs p).toNat false }) s))

/-- LOG_RECORD_WRITE: the oldest queued record, held for 1 s by TB, is written to the log ring, unless the inhibit is in force (R654, R718). -/
def execLogRecordWrite (s : State) : Out := .next (
  match s.recQ with
  | [] => s
  | r :: q => if s.m.pwr.inhibit || (decide (r.tb ≤ s.tb ∧ s.tb < r.tb + 1000000000) && s.tbRun) then s else { s with recQ := q, log := (r :: s.log).take 3200 })

end Sys2Proof.Machine
end

