-- ==== Sys2Proof/Machine/Secure.lean ====
section
/-! DEFINITION. The patch loader, fuses and lifecycle, attestation, the end of a debug session (R258 to R263, R680 to R697). -/

namespace Sys2Proof.Machine

/-! ## Bytes -/

/-- A little-endian number from bytes. -/
def leNat : List (BitVec 8) → Nat
  | [] => 0
  | b :: r => b.toNat + 256 * leNat r

/-- The low `n` bytes of a number. -/
def leBytes : Nat → Nat → List (BitVec 8)
  | 0, _ => []
  | n + 1, v => BitVec.ofNat 8 v :: leBytes n (v / 256)

/-- A run of a byte list. -/
def slice (l : List (BitVec 8)) (off n : Nat) : List (BitVec 8) := (l.drop off).take n

/-- All bytes of a run are zero. -/
def zeros (l : List (BitVec 8)) (off n : Nat) : Bool := (slice l off n).all fun b => b = 0

/-! ## The patch loader (R258 to R263, R687) -/

/-- The bytes of the image as they stand in memory. -/
def imageBytes (s : State) : List (BitVec 8) :=
  (upto s.m.patch.glen.toNat).map fun i => mapGet 0 s.mem (s.m.patch.gaddr.toNat * 8 + i)

/-- The header is as R258 gives (check 0x02). -/
def imgHeader (b : List (BitVec 8)) : Bool :=
  decide (slice b 0 4 = [0x55, 0x50, 0x54, 0x31]) && decide (leNat (slice b 4 2) = 1) && decide (leNat (slice b 6 2) = 64) &&
    decide (leNat (slice b 8 4) = 0x5480) && decide (leNat (slice b 12 2) = 0xB0) && decide ((leNat (slice b 17 1)) / 2 = 0) &&
    zeros b 20 4 && zeros b 28 4 && zeros b 44 4 && zeros b 52 12

/-- The match entries and microwords of a plaintext body. -/
def bodyMatch (body : List (BitVec 8)) : List (BitVec 32) := (upto 32).map fun i => BitVec.ofNat 32 (leNat (slice body (4 * i) 4))
def bodyWords (body : List (BitVec 8)) (w : Nat) : List (BitVec 144) := (upto w).map fun i => BitVec.ofNat 144 (leNat (slice body (128 + 18 * i) 18))

/-- Check 0x0A: reserved bits zero, indexes below W, no ROM address enabled twice (R259). -/
def matchOk (w : Nat) (ms : List (BitVec 32)) : Bool :=
  let en := ms.filter fun m => m.getLsbD 31
  let addr (m : BitVec 32) : BitVec 13 := m.extractLsb' 8 13
  ms.all (fun m => decide (m.extractLsb' 21 10 = 0) && decide (bits m.toNat 0 8 < w)) &&
    en.all fun m => decide ((en.filter fun n => addr n = addr m).length = 1)

/-- The body in plaintext, none when the tag fails or the state refuses it (check 0x09, R687). -/
def imgBody (lc : Nat) (b : List (BitVec 8)) (w : Nat) : Option (List (BitVec 8)) :=
  let body := slice b 112 (128 + 18 * w)
  if leNat (slice b 17 1) % 2 = 0 then (if lc = 2 then none else some body)
  else if lc = 3 then none
  else Config.gcmOpen (slice b 0 112) body (slice b (240 + 18 * w) 16)

/-- The checks 0x02 to 0x0B of R261 in order: the code, and on success the match entries and words. -/
def imgCheck (s : State) : Nat × List (BitVec 32) × List (BitVec 144) :=
  let b := imageBytes s
  let lc := lcState s
  let w := leNat (slice b 18 2)
  if !imgHeader b then (0x02, [], [])
  else if leNat (slice b 14 2) ≠ 3 then (0x03, [], [])
  else if w = 0 ∨ w > 256 ∨ leNat (slice b 48 4) ≠ 128 + 18 * w ∨ s.m.patch.glen.toNat ≠ 16480 + 18 * w then (0x04, [], [])
  else if lc = 0 ∨ Config.sha256 (slice b 64 48) ≠ Config.vkh then (0x05, [], [])
  else if !Config.slhVerify (slice b 64 48) (slice b 0 (256 + 18 * w)) (slice b (256 + 18 * w) 16224) then (0x06, [], [])
  else if leNat (slice b 24 4) < s.m.fuses.svn then (0x07, [], [])
  else if leNat (slice b 16 1) < s.pgen.toNat then (0x08, [], [])
  else match imgBody lc b w with
    | none => (0x09, [], [])
    | some body =>
      let ms := bodyMatch body
      let ws := bodyWords body w
      if !matchOk w ms then (0x0A, [], [])
      else if !ws.all (fun x => parityOk x && decide (x.extractLsb' 8 5 = 0)) then (0x0B, [], [])
      else (0, ms, ws)

/-- A failed load (R729). -/
def loadFail (code : Nat) (s : State) : State :=
  condSet 8 false (logEvent 0x1C 4 39 0 none none code (updM (fun m => { m with patch := { m.patch with busy := false, code := BitVec.ofNat 8 code } }) s))

/-- GO (R261, R262): check 0x01 decides at once; the image is checked while BUSY is 1. -/
def loadGo (s : State) : State :=
  let p := s.m.patch
  if p.busy then s
  else if p.locked ∨ p.ran then loadFail 0x01 s
  else updM (fun m => { m with patch := { m.patch with busy := true, gaddr := p.addr, glen := p.len } }) s

/-- PATCH_LOAD: the host writes GO. -/
def execPatchLoad (s : State) : Out := .next (hostWr loadGo s)

/-- An armed injection into a microword (R719): its next write, of patch RAM. -/
def injPatch (s : State) : State :=
  let i := bits s.injAddr.toNat 0 14
  match s.injArmed with
  | some x =>
    if bits s.injAddr.toNat 60 4 = 5 ∧ 0x2000 ≤ i ∧ i - 0x2000 < s.nwords then
      bump 0x22 { s with injArmed := none, patch := mapSet 0 s.patch (i - 0x2000) ((mapGet 0 s.patch (i - 0x2000)) ^^^ x.setWidth 144) }
    else s
  | none => s

/-- PATCH_LOAD_COMPLETE: the load ends (R261, R263). -/
def execPatchLoadComplete (s : State) : Out := .next (
  if !s.m.patch.busy then s
  else match imgCheck s with
    | (0, ms, ws) =>
      let b := imageBytes s
      let s := { s with
        patch := ws.zipIdx.foldl (fun m e => mapSet 0 m e.2 e.1) []
        matchRegs := ms.zipIdx.foldl (fun m e => mapSet 0 m e.2 e.1) []
        pgen := BitVec.ofNat 8 (leNat (slice b 16 1)), nwords := ws.length }
      condClear 8 (injPatch (updM (fun m => { m with patch := { m.patch with
        busy := false, code := 0, psvn := BitVec.ofNat 32 (leNat (slice b 24 4)), pdig := Config.sha256 b
        plain := decide (leNat (slice b 17 1) % 2 = 0) } }) s))
    | (c, _, _) => loadFail c s)

/-- PATCH_LOCK: the host writes LOCK; no further load until reset (R260). -/
def execPatchLock (s : State) : Out := .next (hostWr (updM fun m => { m with patch := { m.patch with locked := true } }) s)

/-! ## Fuses and lifecycle (R682 to R690, R703): the abort code of a request, and the write it starts -/

/-- A fuse write starts (R682): refused under the inhibit, and while another runs. -/
def fuseStart (o : FuseOp) (s : State) : BitVec 32 × State :=
  if s.m.pwr.inhibit then (0x08000020, s)
  else if s.m.fuseW.isSome then (0x08000022, s)
  else (0, updM (fun m => { m with fuseW := some o }) s)

/-- A lifecycle request (R684): code and value, by a path. -/
def lcRequest (p : DPath) (code : Nat) (v : BitVec 32) (s : State) : BitVec 32 × State :=
  let lc := lcState s
  let f := s.m.fuses
  let modeOk := decide (s.mode = .bringup) || decide (s.mode = .standby)
  let go (ok : Bool) : BitVec 32 × State := if modeOk && ok then fuseStart (.lc (code - 1)) s else (0x08000022, s)
  if lc = 4 then (0x08000022, s)
  else if lc = 0 ∧ code = 1 then go (decide (p = .debug) && f.keys && decide (v = 0))
  else if lc = 1 ∧ code = 2 then go (decide (p ≠ .can) && decide (v = Config.serial))
  else if lc = 2 ∧ code = 3 then go (decide (p = .debug) && s.m.dbg.perm && decide (v = 0))
  else if code = 4 then go (decide (p ≠ .can) && decide (v = Config.serial ^^^ 0x454E4421))
  else (0x06090030, s)

/-- SVNCOMMIT (R689, R702). -/
def svnCommit (v : Nat) (s : State) : BitVec 32 × State :=
  if s.m.patch.busy then (0x08000022, s)
  else if s.pgen = 0 ∨ v > s.m.patch.psvn.toNat ∨ v ≤ s.m.fuses.svn ∨ v > 64 then (0x06090030, s)
  else fuseStart (.svn v) s

/-- POLICYSET (R703). -/
def policySet (p : DPath) (v : BitVec 8) (s : State) : BitVec 32 × State :=
  let lc := lcState s
  if p = .can ∨ (lc ≠ 1 ∧ lc ≠ 2) then (0x08000022, s) else fuseStart (.policy v) s

/-- ODKHSET (R703). -/
def odkhSet (v : BitVec 256) (s : State) : BitVec 32 × State :=
  let lc := lcState s
  if s.m.fuses.odkh.isSome then (0x06090030, s)
  else if lc ≠ 1 ∧ lc ≠ 2 then (0x08000022, s)
  else fuseStart (.odkh v) s

/-- A debug session ends: the level is what the state opens without a token (R694). -/
def endSession (s : State) : State :=
  updM (fun m => { m with dbg := { m.dbg with level := openLevel (lcOf m.fuses.lc), perm := false } }) s

/-- What a transition does when it takes effect (R684, R702): the session ends, a verification is abandoned with result 8; LC_RETURN
erases both parameter banks. -/
def lcEffect (s : State) : State :=
  let s := endSession s
  let s := updM (fun m => { m with dbg := { m.dbg with
    high := if m.dbg.level.toNat > m.dbg.high.toNat then m.dbg.level else m.dbg.high
    verify := false, tok := [], chal := if m.dbg.verify then none else m.dbg.chal
    result := if m.dbg.verify then 8 else m.dbg.result } }) s
  if lcState s = 3 then updM (fun m => { m with bankA := {}, bankB := {} }) s else s

/-- The lowest set bit that is clear in another byte. -/
def lowBit (v old : BitVec 8) : BitVec 8 :=
  match (upto 8).find? fun i => v.getLsbD i && !old.getLsbD i with
  | some i => setBit 0 i true
  | none => 0

/-- The fuse write in progress ends; `full` that every bit was written. The inhibit stops a write after its current
bit (R682, R683). -/
def fuseEnd (full : Bool) (s : State) : State :=
  match s.m.fuseW with
  | none => s
  | some o =>
    let s := updM (fun m => { m with fuseW := none }) s
    let whole := full || !s.m.pwr.inhibit
    match o with
    | .lc i =>
      let before := lcState s
      let s := updM (fun m =>
        let a := setBit m.fuses.lc (2 * i) true
        let b := if whole ∨ m.fuses.lc.getLsbD (2 * i) then setBit a (2 * i + 1) true else a
        { m with fuses := { m.fuses with lc := b } }) s
      if lcState s = before then s else lcEffect s
    | .svn v => updM (fun m => { m with fuses := { m.fuses with svn := if whole then v else min v (m.fuses.svn + 1) } }) s
    | .policy v => updM (fun m => { m with fuses := { m.fuses with policy := m.fuses.policy ||| (if whole then v else lowBit v m.fuses.policy) } }) s
    | .odkh v => if whole then updM (fun m => { m with fuses := { m.fuses with odkh := some v } }) s else s

/-- FUSE_WRITE_COMPLETE. -/
def execFuseWriteComplete (full : Bool) (s : State) : Out := .next (fuseEnd full s)

/-! ## Attestation (R691 to R693) -/

/-- The code of a mode (R643). -/
def modeCode (m : Mode) : Nat :=
  match m with
  | .bringup => 0
  | .standby => 1
  | .run => 2
  | .drowse => 3
  | .sleep => 4
  | .halt => 5

/-- An identity exists (R691). -/
def hasIdentity (lc : Nat) : Bool := decide (lc ≠ 0 ∧ lc ≠ 3)

/-- IDPK as 32 bytes: zero where no identity exists. -/
def idpkBytes (s : State) : List (BitVec 8) := leBytes 32 (if hasIdentity (lcState s) then (Config.idpk (lcState s)).toNat else 0)

/-- The 256 bytes of a report (R692). -/
def reportBytes (s : State) (nonce : List (BitVec 8)) : List (BitVec 8) :=
  let m := s.m
  let lc := lcState s
  let p := m.patch
  let has := decide (s.pgen ≠ 0)
  let bank := if m.cur then m.bankB else m.bankA
  let dbg := m.dbg.level.toNat + m.dbg.high.toNat * 4 + b2n (lcPend m.fuses.lc) * 16
  let flags := b2n p.plain + b2n (m.fuses.policy.getLsbD 0) * 2 + b2n (m.fuses.policy.getLsbD 1) * 4 + b2n m.fuses.odkh.isSome * 8
  [0x55, 0x41, 0x54, 0x52] ++ leBytes 2 1 ++ leBytes 2 256 ++ leBytes 4 Config.serial.toNat ++ leBytes 1 (b2n Config.orderX) ++
    leBytes 1 0xB0 ++ leBytes 1 lc ++ leBytes 1 dbg ++ leBytes 2 3 ++ leBytes 1 s.pgen.toNat ++ leBytes 1 (modeCode s.mode) ++
    leBytes 4 (if has then p.psvn.toNat else 0) ++ leBytes 4 m.fuses.svn ++ leBytes 1 flags ++ leBytes 3 0 ++
    leBytes 32 (if has then p.pdig.toNat else 0) ++ nonce ++ leBytes 8 s.tb ++ leBytes 4 (m.att.aseq.toNat + 1) ++ leBytes 4 m.boots.toNat ++
    idpkBytes s ++ leBytes 32 (Config.pardig bank.seq bank.vals).toNat ++ leBytes 80 0

/-- A NONCE write (R693). -/
def nonceWrite (nonce : List (BitVec 8)) (s : State) : BitVec 32 × State :=
  if s.m.att.astat = 1 then (0x08000022, s)
  else if !hasIdentity (lcState s) then (0, updM (fun m => { m with att := { m.att with astat := 3 } }) s)
  else (0, updM (fun m => { m with att := { m.att with astat := 1, snap := reportBytes s nonce } }) s)

/-- ATTESTATION_SIGNED: the signature completes (R693). The report's LC byte names the key. -/
def execAttestationSigned (s : State) : Out := .next (
  if s.m.att.astat ≠ 1 then s
  else updM (fun m =>
    let r := m.att.snap
    let sig := (upto 17088).map (Config.attSign (leNat (slice r 14 1)) r)
    { m with att := { m.att with astat := 2, aseq := m.att.aseq + 1, report := r ++ sig, snap := [] } }) s)

/-- A CERTCHUNK write (R693): LC_BLANK and LC_DEV only, as an A-class write. -/
def certWrite (bs : List (BitVec 8)) (s : State) : BitVec 32 × State :=
  let off := s.m.att.certOff.toNat
  if lcState s > 1 then (0x06010002, s)
  else if s.m.pwr.inhibit then (0x08000020, s)
  else if off + bs.length > 20480 then (0x06090030, s)
  else (0, updM (fun m => { m with att := { m.att with
    cert := bs.zipIdx.foldl (fun c e => mapSet 0 c (off + e.2) e.1) m.att.cert
    certLen := if bs.isEmpty then m.att.certLen else BitVec.ofNat 16 (max m.att.certLen.toNat (off + bs.length)) } }) s)

end Sys2Proof.Machine
end

