-- ==== Sys2Proof/Machine/Power.lean ====
section
/-! DEFINITION. Device modes, SLEEP, the whorl, parking, temperature and supply (R626, R627, R629 to R656, R690). -/

namespace Sys2Proof.Machine

/-- Change the power state. -/
def updPwr (f : Power → Power) (s : State) : State := updM (fun m => { m with pwr := f m.pwr }) s

/-- Change a timing domain. -/
def updDom (d : Nat) (f : Domain → Domain) (s : State) : State :=
  updPwr (fun p => { p with doms := mapSet {} p.doms d (f (mapGet {} p.doms d)) }) s

/-- A self-timed domain is parked. -/
def domParked (s : State) (d : Nat) : Bool :=
  if d < 32 then (getSk s (BitVec.ofNat 5 d)).parked else decide (d < 36) && s.m.pwr.sectors.getLsbD (d - 32)

/-- The self-timed domains that the whorl controls now. A parked one keeps its setting and its rate (R630). -/
def whorlDoms (s : State) : List Nat := (upto 36).filter fun d => !domParked s d

/-- Every self-timed domain that is not parked goes to 1,600 M hs/s. -/
def slowAll (s : State) : State :=
  (whorlDoms s).foldl (fun s d => updDom d (fun x => { x with target := 1600, rate := min x.rate 1600 }) s) s

/-! ## Mode transitions (R643 to R646, R690) -/

/-- The result of the last mode request. -/
def modeRes (n : Nat) (s : State) : State := updM (fun m => { m with modeRes := BitVec.ofNat 8 n }) s

/-- RUN is entered: the patch loader is locked (R262); no sector stays parked (R27). -/
def enterRun (s : State) : State :=
  updM (fun m => { m with patch := { m.patch with locked := true, ran := true }, pwr := { m.pwr with sectors := 0 } }) { s with mode := .run }

/-- A mode other than SLEEP and HALT is entered. Outside DROWSE no sector is parked (R640). -/
def enterMode (m : Mode) (s : State) : State :=
  match m with
  | .run => enterRun s
  | .drowse => { s with mode := .drowse }
  | m => updPwr (fun p => { p with sectors := 0 }) { s with mode := m }

/-- HALT is entered from a mode (R645). -/
def enterHalt (org : BitVec 8) (s : State) : State :=
  slowAll (updM (fun m => { m with saved := s.mode, haltOrg := org, pwr := { m.pwr with sectors := 0 } }) { s with mode := .halt })

/-- HALT is left: held compare actions are delivered (R625). -/
def leaveHalt (s : State) : State :=
  deliverHeld (enterMode s.m.saved (updM (fun m => { m with haltOrg := 0 }) s))

/-- RUN may be entered: POLICY.REQPATCH asks for a patch (R690). -/
def runAllowed (s : State) : Bool := !s.m.fuses.policy.getLsbD 0 || decide (s.pgen ≠ 0)

/-! ## SLEEP (R647 to R650) -/

/-- The save area is usable: enabled, aligned, in installed DRAM, outside every hank grant. -/
def sleepAreaOk (s : State) : Bool :=
  let v := objGet s 0x2001 1
  let b := bits v.toNat 0 40
  v.getLsbD 63 && decide (b % 2 ^ 23 = 0) && decide (b + 2 ^ 23 ≤ s.dram) &&
    !(s.hanks.any fun h => decide (h.2.state ≠ 0) && (dramRanges h.2.cur).any (meets (b, b + 2 ^ 23)))

/-- A FLIP, a hank command or a broadcast invalidation is in progress. -/
def sleepBusy (s : State) : Bool :=
  !s.flips.isEmpty || !s.bcasts.isEmpty || s.hanks.any (fun h => decide (h.2.pend ≠ 0)) || s.spindles.any (fun p => !p.2.ibusy.isEmpty)

/-- A context still waits for an extension message to be sent or answered. -/
def extWaiting (x : Ctx) : Bool :=
  match x.park with
  | some (.ext _ _ _) => true
  | some (.mem (.extn ..) _ _) => true
  | _ => false

/-- Steps 1 to 4 of R647 have ended: no twist routine runs, no submission command and no extension message is outstanding, the store
buffers and carder queues are empty, no granule is claimed. -/
def sleepDrained (s : State) : Bool :=
  s.skeins.all (fun k => (k.2.units.all fun u => u.2.req.isNone) && k.2.cardQ.isEmpty && k.2.cardHeld.isEmpty &&
    (reelActive k.2).all fun d => d.claim.isNone) &&
    s.hanks.all (fun h => h.2.cmds.isEmpty) && s.extOut.isEmpty && s.ctxs.all (fun c => !extWaiting c.2) &&
    s.spindles.all (fun p => p.2.sb.isEmpty)

/-- A spindle without power: translations, caches, prefetch trackers and cached region entries are lost; registers and retired lines
stay (R647, R648). -/
def spindleOff (p : Spindle) : Spindle :=
  { p with
    desc := [], dtlb := [], itlb := [], dVict := 0, iVict := 0, l1Tree := 0, ic := [], icTree := [], trackers := [], regs := []
    l1 := (p.l1.map fun e => (e.1, ({ retired := e.2.retired } : L1Line))).filter fun e => e.2 ≠ {}
    fp := [], fpBad := [], fpOwner := none, fpWritten := false }

/-- A skein without power: its cache is cleaned and lost, its carder entries are lost; the creel, bits and queues are saved. -/
def skeinOff (k : Skein) : Skein :=
  { k with
    cache := (k.cache.map fun e => (e.1, ({ retired := e.2.retired } : SkLine))).filter fun e => e.2 ≠ {}
    held := [], regs := [], card := [], parked := false }

/-- SLEEP is reached (R647 steps 4 to 7). -/
def sleepNow (s : State) : State :=
  let s := s.cmpW.foldl (fun s _ => cmpArrive s) s
  let s := s.spindles.foldl (fun s p => stopSpindle (BitVec.ofNat 9 p.1) s) s
  let s := updAllCtx (fun _ x => { x with res := none, resHold := false }) s
  let s := updAllSk skeinOff (updAllSp spindleOff s)
  updM (fun m => { m with
    saved := s.mode, entering := false, reqBusy := false
    modeRes := if m.modeRes = 1 then 0 else m.modeRes
    exiting := m.exiting || m.haltHeld, pwr := { m.pwr with sectors := 0 } }) { s with mode := .sleep, dirs := [], wq := [] }

/-- SLEEP entry goes as far as it can; every hank's host writes are flushed (R466) before the domains turn off. -/
def sleepSettle (s : State) : State :=
  if !s.m.entering || !sleepDrained s then s
  else
    let r := s.hanks.foldl (fun (r : Bool × State) e =>
      match hankFlush (BitVec.ofNat 6 e.1) r.2 with
      | (ok, s) => (r.1 && ok, s)) (true, s)
    if r.1 then sleepNow r.2 else r.2

/-- A request for SLEEP (R647). -/
def sleepRequest (s : State) : State :=
  if !sleepAreaOk s then modeRes 5 s
  else if sleepBusy s then modeRes 2 s
  else sleepSettle (updM (fun m => { m with entering := true, reqBusy := true }) (modeRes 1 s))

/-- A mode request (R644). -/
def modeRequest (code : Nat) (s : State) : State :=
  let m := s.m
  if m.reqBusy then modeRes 2 s
  else if code > 5 then modeRes 4 s
  else match s.mode with
    | .bringup => modeRes 3 s
    | .sleep =>
      if code = modeCode m.saved then updM (fun m => { m with exiting := true, reqBusy := true, modeRes := 1 }) s else modeRes 3 s
    | .halt => if code = modeCode m.saved ∧ (code ≠ 2 ∨ runAllowed s) then modeRes 0 (leaveHalt s) else modeRes 3 s
    | .standby =>
      if code = 2 ∧ runAllowed s then modeRes 0 (enterRun s)
      else if code = 4 then sleepRequest s
      else if code = 5 then modeRes 0 (enterHalt 1 s)
      else modeRes 3 s
    | .run =>
      if code = 1 then modeRes 0 (enterMode .standby s)
      else if code = 3 then modeRes 0 (enterMode .drowse s)
      else if code = 4 then sleepRequest s
      else if code = 5 then modeRes 0 (enterHalt 1 s)
      else modeRes 3 s
    | .drowse =>
      if code = 1 then modeRes 0 (enterMode .standby s)
      else if code = 2 ∧ runAllowed s then modeRes 0 (enterRun s)
      else if code = 4 then sleepRequest s
      else if code = 5 then modeRes 0 (enterHalt 1 s)
      else modeRes 3 s

/-- A debug halt (R644, R649, R656, R730): held in BRINGUP and during SLEEP entry, and after the exit that it starts. -/
def debugHalt (s : State) : State :=
  if s.m.entering then updM (fun m => { m with haltHeld := true }) s
  else match s.mode with
    | .bringup => updM (fun m => { m with haltHeld := true }) s
    | .sleep => updM (fun m => { m with haltHeld := true, exiting := true }) s
    | .halt => updM (fun m => { m with haltOrg := 2 }) s
    | _ => enterHalt 2 s

/-- The slow-clock ticks, counted from S0, at which the earliest armed compare starts the exit (R627); the exit time is 99 ticks. -/
def wakeTick (s : State) : Option Nat :=
  let p := s.m.slow.p
  s.cmps.foldl (fun r e =>
    let c := e.2
    if !(c.en && (c.irq || c.bite)) ∨ p = 0 then r
    else
      let t := (2 ^ 20 * (c.v.toNat - s.m.slow.tb) + p - 1) / p - 99
      match r with
      | some u => some (min t u)
      | none => some t) none

/-- SLEEP is left (R626, R649): TB is reconstructed at the slow-clock edge S1 = S0 + `ticks` from the measured period; `p`, in units of 2^-20 ns, is
the mean period that the slow clock really had, by which the time has gone on. The mode held before returns. -/
def sleepWake (ticks p : Nat) (s : State) : State :=
  let w := s.m.slow
  let d := ticks * w.p / 2 ^ 20
  let s := { s with
    tb := (w.tb + max 1 d) % 2 ^ 64, tbRecon := true, tbUnc := BitVec.ofNat 32 (min (2 ^ 32 - 1) (4 + (2 * d + 999999) / 1000000)) }
  let s := updM (fun m => { m with
    clock := max m.clock (w.n * 1953125 / 64 + ticks * p / 2 ^ 20), exiting := false, reqBusy := false
    modeRes := if m.modeRes = 1 then 0 else m.modeRes }) s
  let s := slowStart (slowTick s.m.clock) (capLevels (cmpLate s))
  let s := enterMode s.m.saved s
  if s.m.haltHeld then updM (fun m => { m with haltHeld := false }) (enterHalt 2 s) else s

/-- SLEEP_EXIT: the exit completes once it has started, by a request or by a compare's wake tick; `ok` that the saved state passes its
check. A failed check enters BRINGUP (R649, R731). -/
def execSleepExit (ticks p : Nat) (ok : Bool) (s : State) : Out := .next (
  if s.mode ≠ .sleep then s
  else if !s.m.exiting && (match wakeTick s with
      | some t => decide (ticks < t)
      | none => true) then s
  else if ok then sleepWake ticks p s
  else bringup 5 2 false (logEvent 0x1D 3 39 0 none none 0 s))

/-! ## The whorl (R631 to R637) -/

/-- The cap in force (R634 order 4). -/
def capW (s : State) : Nat := (if s.mode = .drowse then objGet s 0x2100 2 else objGet s 0x2100 1).toNat

/-- The floor and the ceiling of a domain; RMIN is not applied in DROWSE, and HALT holds the voltage for 1,600 M hs/s (R643). -/
def rmin (s : State) (d : Nat) : Nat := if s.mode = .drowse ∨ s.mode = .halt then 1600 else (objGet s 0x2102 (d + 1)).toNat
def rmax (s : State) (d : Nat) : Nat := (objGet s 0x2101 (d + 1)).toNat

/-- The throttle point in units of 0.125 °C. -/
def tjThrot (s : State) : Int := 8 * ((objGet s 0x2103 1).setWidth 8 : BitVec 8).toInt

/-- The domains, with the step of each, that the next round lowers (R635, R636): those of greatest positive excess, or, with every domain at its floor, all
above 1,600 together. -/
def roundDoms (s : State) : List (Nat × Nat) :=
  let ds := whorlDoms s
  let ex (d : Nat) : Nat := (getDom s d).target - rmin s d
  let top := ds.foldl (fun m d => max m (ex d)) 0
  if top > 0 then (ds.filter fun d => ex d = top).map fun d => (d, min 100 top)
  else (ds.filter fun d => decide ((getDom s d).target > 1600)).map fun d => (d, min 100 ((getDom s d).target - 1600))

/-- Order 4: one round lower in each period in which the measured power exceeds the cap, one round back, by what it had taken, when the
cap has been raised (R635). The power is measured once a period, so each round waits for the next reading (log 186). -/
def capRound (s : State) : State :=
  let cap := capW s
  if s.m.pwr.pin > 1000 * cap then
    let ds := roundDoms s
    if ds.isEmpty then s
    else
      let s := ds.foldl (fun s d => updDom d.1 (fun x => { x with target := x.target - d.2 }) s) s
      updPwr (fun p => { p with rounds := (cap, ds) :: p.rounds }) s
  else match s.m.pwr.rounds with
    | (c, ds) :: r =>
      if cap > c then
        updPwr (fun p => { p with rounds := r }) (ds.foldl (fun s d => updDom d.1 (fun x => { x with target := x.target + d.2 }) s) s)
      else s
    | [] => s

/-- What the whorl measured of a domain (R631). -/
def whorlMeasure (x : DomMeas) (s : State) : State :=
  updDom x.dom (fun d => { d with temp := x.temp, rate := x.rate, demand := x.demand }) s

/-- A regulator is above its current limit (R632). -/
def overCur (x : DomMeas) : Bool := decide (x.cur > (if x.dom < 32 then 14000 else 10000))

/-- Orders 2 and 3 for a domain: over-current lowers its target; at TJTHROT it is throttled until it is 2 °C below. -/
def whorlLimit (x : DomMeas) (s : State) : State :=
  if x.dom ≥ 36 ∨ domParked s x.dom then s
  else
    let t := tjThrot s
    updDom x.dom (fun d =>
      { d with
        target := if overCur x then max 1600 (d.target - 100) else d.target
        thr := if decide (x.temp ≥ t) then true else d.thr && decide (x.temp ≥ t - 16) }) s

/-- The last round that lowered a domain lowers it no more: its target has been raised. -/
def roundDrop (d : Nat) : List (Nat × List (Nat × Nat)) → List (Nat × List (Nat × Nat))
  | [] => []
  | (c, l) :: r =>
    if l.any fun e => e.1 = d then (c, l.filter fun e => e.1 ≠ d) :: r else (c, l) :: roundDrop d r

/-- The target that orders 5 to 7 choose: `held` that a round has lowered the domain, `ok` that the cap holds, `cut` that over-current has
lowered it in this period. No constraint loosens an earlier one: nothing rises in a period that cut the domain or while the power
exceeds the cap, and a domain that a round lowered below its floor comes back by one step a period. -/
def rateChoice (held ok cut : Bool) (lo hi demand t : Nat) : Nat :=
  let t := min t hi
  let t := if cut then t else if held then (if ok && decide (t < lo) then min lo (t + 100) else t) else max lo t
  if demand > 90 ∧ ok ∧ !cut then min hi (t + 100) else if demand < 50 ∧ t ≥ lo then max lo (t - 100) else t

/-- Orders 5 to 7 for a domain. -/
def whorlRate (x : DomMeas) (s : State) : State :=
  if x.dom ≥ 36 ∨ domParked s x.dom then s
  else
    let held := s.m.pwr.rounds.any fun r => r.2.any fun e => e.1 = x.dom
    let was := (getDom s x.dom).target
    let t := rateChoice held (decide (s.m.pwr.pin ≤ 1000 * capW s)) (overCur x) (rmin s x.dom) (rmax s x.dom) x.demand was
    let s := updDom x.dom (fun d => { d with target := t }) s
    if t > was ∧ held then updPwr (fun p => { p with rounds := roundDrop x.dom p.rounds }) s else s

/-- A voltage on the regulators' 5 mV grid, within their operating range (R629). -/
def voltGrid (v : Nat) : Nat := max 600 (min 920 (5 * ((v + 4) / 5)))

/-- The voltage of a domain (R629, R630, R632, R634, R637): the setting is the lowest on the grid that achieves the target with the margin,
or one 10 mV step lower in each throttled period, never below the margin; the output slews at most 50 mV a period towards it. -/
def whorlVolt (x : DomMeas) (s : State) : State :=
  if x.dom ≥ 36 ∨ domParked s x.dom then s
  else updDom x.dom (fun d =>
    let v := if d.thr then max (voltGrid x.marg) (min d.vset d.volt - 10) else voltGrid (max x.low x.marg)
    { d with vset := v, volt := if v > d.volt then min v (d.volt + 50) else max v (d.volt - 50) }) s

/-- LIMITED (R633): what binds in this period. -/
def limitedNow (l : List DomMeas) (s : State) : BitVec 8 :=
  let ds := whorlDoms s
  let b0 := ds.any fun d => (getDom s d).thr
  let b1' := l.any fun x => decide (x.dom < 36) && overCur x
  let b2 := decide (s.m.pwr.pin > 1000 * capW s) || !s.m.pwr.rounds.isEmpty
  let b3 := ds.any fun d => decide ((getDom s d).target ≥ rmax s d ∧ (getDom s d).demand > 90)
  let b4 := ds.any fun d => decide ((getDom s d).target < rmin s d)
  (0 : BitVec 3) ++ b1 b4 ++ b1 b3 ++ b1 b2 ++ b1 b1' ++ b1 b0

/-- WHORL_PERIOD: the supply in mV, mA and mW, and the measurements of domains; the constraints of R634 in their order. In BRINGUP and
SLEEP only the temperatures are read, which release a trip (R652). -/
def execWhorlPeriod (vin iin pin : Nat) (l : List DomMeas) (s : State) : Out := .next (
  let s := updPwr (fun p => { p with vin := vin, iin := iin, pin := pin }) s
  if s.mode = .bringup ∨ s.mode = .sleep then l.foldl (fun s x => updDom x.dom (fun d => { d with temp := x.temp }) s) s
  else
    let s := l.foldl (fun s x => whorlMeasure x s) s
    let s := l.foldl (fun s x => whorlLimit x s) s
    let s := if s.mode = .halt ∨ s.m.pwr.critical then s else l.foldl (fun s x => whorlRate x s) (capRound s)
    let s := if s.mode = .halt ∨ s.m.pwr.critical then slowAll s else s
    let s := l.foldl (fun s x => whorlVolt x s) s
    let n := limitedNow l s
    let was := s.m.pwr.limited.getLsbD 4
    let s := updPwr (fun p => { p with limited := n }) s
    if n.getLsbD 4 && !was then condSet 3 false s else if !n.getLsbD 4 && was then condClear 3 s else s)

/-! ## Parking (R638 to R640) -/

/-- PARKIDLE, in nanoseconds. -/
def parkIdle (s : State) : Nat := 1000 * (objGet s 0x2104 3).toNat

/-- As a nanosecond passes, the skeins that have a context READY or RUNNING are busy (R638). The idle time of a sector counts in DROWSE only (R640). -/
def busyTick (s : State) : State :=
  let t := s.m.clock
  let busy := s.ctxs.filter fun c => decide (c.2.st = .ready) || decide (c.2.st = .running)
  updPwr (fun p => { p with
    busyAt := busy.foldl (fun l c => mapSet 0 l c.2.skein.toNat t) p.busyAt
    trafAt := if s.mode = .drowse then p.trafAt else [(1, t), (2, t)] }) s

/-- A skein has had no context READY or RUNNING for PARKIDLE µs. -/
def skeinIdle (k : SkId) (s : State) : Bool :=
  decide (mapGet 0 s.m.pwr.busyAt k.toNat + parkIdle s ≤ s.m.clock) &&
    s.ctxs.all fun c => decide (c.2.skein ≠ k) ||
      (decide (c.2.st ≠ .ready) && decide (c.2.st ≠ .running) && decide (c.2.readyAt + parkIdle s ≤ s.m.clock))

/-- A skein may park. -/
def canPark (k : SkId) (s : State) : Bool :=
  let x := getSk s k
  decide (s.mode = .standby ∨ s.mode = .run ∨ s.mode = .drowse) && !s.m.entering && !x.parked && (objGet s 0x2104 1).getLsbD 0 &&
    decide (objGet s 0x2102 (k.toNat + 1) = 1600) &&
    skeinIdle k s &&
    x.twq.isEmpty && x.twOvf.isEmpty && (x.units.all fun u => u.2.req.isNone) && x.reelQ.isEmpty && (reelActive x).isEmpty &&
    x.cardQ.isEmpty && x.cardHeld.isEmpty &&
    s.bcasts.all (fun b => decide (b.sk ≠ k)) &&
    s.spindles.all fun p => decide (spSk (BitVec.ofNat 9 p.1) ≠ k) || p.2.ibusy.isEmpty

/-- A parking skein acknowledges the broadcasts that wait for it, applied to its locked entries too (R398). -/
def parkAck (k : SkId) (s : State) : State :=
  { s with
    spindles := (s.spindles.map fun p =>
      let q : SpId := BitVec.ofNat 9 p.1
      if spSk q = k then
        (p.1, tlbFlush ((s.bcasts.filter fun b => b.todo.contains q).foldl (fun x b => invApply b.op x) p.2))
      else p).filter fun p => p.2 ≠ {}
    bcasts := s.bcasts.map fun b => { b with todo := b.todo.filter fun q => spSk q ≠ k } }

/-- SKEIN_PARK: a skein that has been idle for PARKIDLE µs. -/
def execSkeinPark (k : SkId) (s : State) : Out := .next (
  if canPark k s then updSk k (fun x => { x with parked := true }) (parkAck k s) else s)

/-- SKEIN_WAKE: a parked skein wakes, and with it its sector (R639, R640). -/
def execSkeinWake (k : SkId) (s : State) : Out := .next (
  wakeSkein k s)

/-- SECTOR_PARK: sector 1 or 2 in DROWSE, once its 8 skeins are parked and it has been idle for PARKIDLE µs. -/
def execSectorPark (n : BitVec 2) (s : State) : Out := .next (
  if s.mode = .drowse ∧ !s.m.entering ∧ (n = 1 ∨ n = 2) ∧ mapGet 0 s.m.pwr.trafAt n.toNat + parkIdle s ≤ s.m.clock ∧ (objGet s 0x2104 1).getLsbD 3 ∧ objGet s 0x2102 (n.toNat + 33) = 1600 ∧
      (upto 8).all (fun (i : Nat) => (getSk s (BitVec.ofNat 5 (8 * n.toNat + i))).parked) then
    updPwr (fun p => { p with sectors := setBit p.sectors n.toNat true }) s
  else s)

/-- SECTOR_WAKE. -/
def execSectorWake (n : BitVec 2) (s : State) : Out := .next (updPwr (fun p => { p with sectors := setBit p.sectors n.toNat false }) s)

/-! ## Temperature (R651, R652) -/

/-- CRITICAL_TEMPERATURE of a domain. -/
def execCriticalTemperature (d : BitVec 6) (s : State) : Out := .next (
  if s.m.pwr.critical then s
  else
    let s := condSet 0 false (logOnly 0x24 4 d.toNat 0 none none 0 (updPwr (fun p => { p with critical := true }) s))
    slowAll s)

/-- CRITICAL_TEMPERATURE_RELEASE. -/
def execCriticalTemperatureRelease (s : State) : Out := .next (condClear 0 (updPwr (fun p => { p with critical := false }) s))

/-- The junction is at or above 85 °C (S) or 95 °C (X). -/
def tripHot (s : State) : Bool := s.m.pwr.doms.any fun d => decide (d.1 ≤ 38 ∧ d.2.temp ≥ (if Config.orderX then 760 else 680))

/-- THERMAL_TRIP in a domain: logged; everything but the distaff is off, the device is held in BRINGUP. -/
def execThermalTrip (d : BitVec 6) (s : State) : Out := .next (
  if s.m.pwr.thermtrip then s else
  let s := bringup 4 2 false (logEvent 0x27 3 d.toNat 0 none none 0 s)
  condSet 9 false (updPwr (fun p => { p with thermtrip := true }) s))

/-- COLD_LIMIT: at start it only holds the sequence; otherwise it alerts and is logged. -/
def execColdLimit (d : BitVec 6) (s : State) : Out := .next (
  if s.m.pwr.cold then s
  else
    let s := updPwr (fun p => { p with cold := true }) s
    if s.mode = .bringup ∧ s.m.step ≤ 2 then s else condSet 1 false (logOnly 0x25 4 d.toNat 0 none none 0 s))

/-- COLD_LIMIT_CLEAR. -/
def execColdLimitClear (s : State) : Out := .next (condClear 1 (updPwr (fun p => { p with cold := false }) s))

/-! ## Supply (R653 to R655) -/

/-- SUPPLY_OUT_OF_RANGE, above or below the operating range. -/
def execSupplyOutOfRange (above : Bool) (s : State) : Out := .next (
  if s.m.conds.getLsbD 2 then s else condSet 2 (!above) (logOnly 0x26 4 39 0 none none 0 s))

/-- SUPPLY_RETURN_TO_RANGE. -/
def execSupplyReturnToRange (s : State) : Out := .next (condClear 2 s)

/-- SAG: the inhibit, and the brown-out record, which the inhibit exempts (R654). -/
def execSag (s : State) : Out := .next (
  if s.m.pwr.inhibit then s
  else
    let r : ErrRec := { seq := s.recSeq, tb := s.tb, event := 0x28, sev := 3, domain := 39, unit := 0, ctx := none, addr := none, detail := 0, flags := 4 }
    notify none (updPwr (fun p => { p with inhibit := true }) { s with log := (r :: s.log).take 3200, recSeq := s.recSeq + 1 }))

/-- INHIBIT_LIFT. A start whose count waited is counted now (R730). -/
def execInhibitLift (s : State) : Out := .next (
  updM (fun m => { m with boots := if m.bootsDue then m.boots + 1 else m.boots, bootsDue := false, pwr := { m.pwr with inhibit := false } }) s)

/-- A shutdown releases THERMTRIP_N when the junction has cooled, stops a fuse write after its current bit, and starts over at step 1
(R652, R655, R702). -/
def shutdown (cause : BitVec 8) (lost : Bool) (s : State) : State :=
  let hot := tripHot s
  let s := fuseEnd (!s.m.pwr.inhibit) s
  updPwr (fun p => { p with thermtrip := p.thermtrip && hot }) (bringup cause 1 lost s)

/-- BROWN_OUT: counters and queued records are lost (R720); the shutdown is counted after that. -/
def execBrownOut (s : State) : Out := .next (bump 0x28 (shutdown 2 true (updPwr (fun p => { p with inhibit := true }) s)))

/-- OVER_VOLTAGE. -/
def execOverVoltage (s : State) : Out := .next (shutdown 3 false (logEvent 0x28 3 39 0 none none 0 s))

/-- DISTAFF_STOP: VIN falls below 9.0 V; with power again the device starts as from power-on. -/
def execDistaffStop (s : State) : Out := .next (
  let s := shutdown 0 true (updPwr (fun p => { p with inhibit := true }) s)
  updM (fun m => { m with tap := {}, canErr := .active, txErrs := 0, rxErrs := 0, conds := m.conds &&& 0x0007 }) s)

end Sys2Proof.Machine
end

