-- ==== Sys2Proof/Machine/Regs.lean ====
section
/-! DEFINITION. The registers of host BAR0 by offset: their values, their writes, and the table bases (R7, R260, R318, R321, R439, R485,
R530, R556, R557, R579, R585, R588, R590). -/

namespace Sys2Proof.Machine

/-! ## Table bases (R318, R321, R485, R556) -/

/-- A write of a table base: discarded and counted unless the numbers that it serves are all FREE. -/
def baseWrite (ok : State → Bool) (f : State → State) (s : State) : State := if ok s then f s else logOnly 0x2A 4 39 0 none none 0 s

/-- Every hank is FREE. -/
def allHanksFree (s : State) : Bool := s.hanks.all fun h => h.2.state = 0

/-- EN and BASE of a table base. -/
def baseEn (v : BitVec 64) : Bool := v.getLsbD 63
def baseOf (v : BitVec 64) : PAddr := v.extractLsb' 0 40

/-- ANNEXBASE. -/
def annexbaseSet (v : BitVec 64) : State → State := baseWrite allFree fun s => { s with annexEn := baseEn v, annexBase := baseOf v }

/-- XFRAMEn, 4 the double fault. -/
def xframeSet (n : Nat) (v : BitVec 64) : State → State :=
  baseWrite allFree fun s => { s with frames := mapSet (false, 0) s.frames n (baseEn v, baseOf v) }

/-- COLBASE. -/
def colbaseSet (v : BitVec 64) : State → State := baseWrite allFree fun s => { s with colEn := baseEn v, colBase := baseOf v }

/-- HFPBASE. -/
def hfpbaseSet (v : BitVec 64) : State → State := baseWrite allHanksFree fun s => { s with hfpEn := baseEn v, hfpBase := baseOf v }

/-- The value of a table base. -/
def baseWord (en : Bool) (b : PAddr) : BitVec 64 := pack [(b2n en, 63), (b.toNat, 0)]

/-! ## Reads -/

/-- The value of the BAR0 register at an 8-byte offset (R579). -/
def bar0Get (s : State) (off : Nat) : BitVec 64 :=
  let p := s.m.patch
  let h := s.host
  if off = 0x4000 then p.addr.setWidth 64
  else if off = 0x4008 then p.len.setWidth 64
  else if off = 0x4018 then pack [(p.code.toNat, 8), (b2n (p.locked || p.ran), 1), (b2n p.busy, 0)]
  else if off = 0x5000 then baseWord s.annexEn s.annexBase
  else if off = 0x5008 then pack [(s.starve.toNat, 16), (s.quantum.toNat, 0)]
  else if off = 0x5018 then s.hctxarg.setWidth 64
  else if off = 0x5020 then s.hctxres.setWidth 64
  else if 0x5030 ≤ off ∧ off ≤ 0x5048 then
    let f := frameTab s ((off - 0x5030) / 8 + 1)
    baseWord f.1 f.2
  else if 0x6000 ≤ off ∧ off < 0x6400 then
    if off % 0x20 = 0x18 then 0 else (scRead (getSk s (BitVec.ofNat 5 ((off - 0x6000) / 0x20))) (off % 0x20 / 8)).setWidth 64
  else if off = 0x7000 then baseWord s.colEn s.colBase
  else if off = 0x7010 then s.hcolres.setWidth 64
  else if 0x8000 ≤ off ∧ off < 0x8400 then
    let x := getSk s (BitVec.ofNat 5 ((off - 0x8000) / 0x20))
    (match off % 0x20 with
     | 0x00 => pack [(b2n x.cRepl, 47), (x.cQuota.toNat, 0)]
     | 0x08 => pack [(cardHeldBy x 0, 15), (cardFree x, 0)]
     | 0x18 => x.ucnt.setWidth 64
     | _ => 0)
  else if 0x9000 ≤ off ∧ off < 0x9400 then
    let w := hostWin s ((off - 0x9000) / 0x10)
    if off % 0x10 = 0 then pack [(w.base.toNat, 12), (b2n w.en, 0)] else w.limit.setWidth 64
  else if 0x9800 ≤ off ∧ off < 0x9880 then
    let n := (off - 0x9800) / 0x10
    if off % 0x10 = 0 then pack [((mapGet 0 h.extTgt n : BitVec 59).toNat, 5), (b2n (s.extEn.getLsbD n), 0)] else 0
  else if off = 0x9880 then h.extTmo.setWidth 64
  else if off = 0x9888 then BitVec.ofNat 64 s.extOut.length
  else if off = 0x9A00 then pack [(h.aperture.toNat, 18)]
  else if off = 0xF000 then baseWord s.hfpEn s.hfpBase
  else if 0x10000 ≤ off ∧ off < 0x18000 then
    let n := off % 0x200 / 8
    if hankRegDefined n then hankRead (getHank s (BitVec.ofNat 6 ((off - 0x10000) / 0x200))) n else 0
  else if 0x20000 ≤ off ∧ off < 0x28000 then msixWord h ((off - 0x20000) / 8)
  else if 0x28000 ≤ off ∧ off < 0x28100 then
    BitVec.ofNat 64 (((upto 64).map fun i => 2 ^ i * b2n (mapGet false h.pba ((off - 0x28000) * 8 + i))).foldl (· + ·) 0)
  else 0

/-- What a read of a BAR0 register does beside returning its value: RC registers clear (R7); an access of a skein's registers wakes it
(R639). -/
def bar0ReadEffect (off : Nat) (s : State) : State :=
  if 0x6000 ≤ off ∧ off < 0x6400 then reach hostSector (BitVec.ofNat 5 ((off - 0x6000) / 0x20)) s
  else if 0x8000 ≤ off ∧ off < 0x8400 then
    let k : SkId := BitVec.ofNat 5 ((off - 0x8000) / 0x20)
    updSk k (fun x => { x with ucnt := if off % 0x20 = 0x18 then 0 else x.ucnt }) (reach hostSector k s)
  else if 0x10000 ≤ off ∧ off < 0x18000 then
    updHank (BitVec.ofNat 6 ((off - 0x10000) / 0x200)) (fun k => hankReadClear k (off % 0x200 / 8)) s
  else s

/-! ## Writes -/

/-- The patch loader's control word: GO, then LOCK (R260). -/
def patchCtl (v : BitVec 64) (s : State) : State :=
  let s := if v.getLsbD 0 then loadGo s else s
  if v.getLsbD 1 then updM (fun m => { m with patch := { m.patch with locked := true } }) s else s

/-- HCTXCMD (R313, R318). -/
def hctxcmdWrite (v : BitVec 64) (s : State) : State :=
  let d : Datum := v.extractLsb' 0 48
  if bits s.hctxres.toNat 44 4 = 0xF then s else ctxCommand (bits d.toNat 44 4) (ctxCmdOf .host d) s

/-- HCOLCMD (R485, R517). -/
def hcolcmdWrite (v : BitVec 64) (s : State) : State :=
  let d : Datum := v.extractLsb' 0 48
  colCommand (bits d.toNat 44 4) (colCmdOf .host d) s

/-- A host write of all 8 bytes of a BAR0 register (R7, R579). -/
def bar0Write (off : Nat) (v : BitVec 64) (s : State) : State :=
  if off = 0x4000 then updM (fun m => { m with patch := { m.patch with addr := v.extractLsb' 0 40 } }) s
  else if off = 0x4008 then updM (fun m => { m with patch := { m.patch with len := v.extractLsb' 0 18 } }) s
  else if off = 0x4010 then patchCtl v s
  else if off = 0x5000 then annexbaseSet v s
  else if off = 0x5008 then { s with starve := v.extractLsb' 16 16, quantum := v.extractLsb' 0 16 }
  else if off = 0x5010 then hctxcmdWrite v s
  else if off = 0x5018 then { s with hctxarg := v.extractLsb' 0 48 }
  else if off = 0x5028 then (if hostCtx s (v.extractLsb' 0 16) then ringDoorbell (v.extractLsb' 0 16) (hear hostSector (v.extractLsb' 0 16) s) else s)
  else if off = 0x5030 ∨ off = 0x5038 ∨ off = 0x5040 ∨ off = 0x5048 then xframeSet ((off - 0x5030) / 8 + 1) v s
  else if off = 0x5050 then (if hostCtx s (v.extractLsb' 0 16) then raiseIrq (v.extractLsb' 0 16) 2 (hear hostSector (v.extractLsb' 0 16) s) else s)
  else if 0x6000 ≤ off ∧ off < 0x6400 then
    let k : SkId := BitVec.ofNat 5 ((off - 0x6000) / 0x20)
    scWrite k (off % 0x20 / 8) (v.extractLsb' 0 48) (reach hostSector k s)
  else if off = 0x7000 then colbaseSet v s
  else if off = 0x7008 then hcolcmdWrite v s
  else if 0x8000 ≤ off ∧ off < 0x8400 then
    let k : SkId := BitVec.ofNat 5 ((off - 0x8000) / 0x20)
    let s := reach hostSector k s
    if off % 0x20 = 0 then updSk k (fun x => { x with cRepl := v.getLsbD 47, cQuota := BitVec.ofNat 15 (min 16384 (bits v.toNat 0 15)) }) s
    else if off % 0x20 = 0x10 ∧ v.getLsbD 0 then cardClr0 k s
    else s
  else if 0x9000 ≤ off ∧ off < 0x9400 then
    let k := (off - 0x9000) / 0x10
    let w := hostWin s k
    let w := if off % 0x10 = 0 then { w with base := v.extractLsb' 12 52, en := v.getLsbD 0 } else { w with limit := v.extractLsb' 0 24 }
    updHost (fun h => { h with wins := mapSet {} h.wins k w }) s
  else if 0x9800 ≤ off ∧ off < 0x9880 then
    let n := (off - 0x9800) / 0x10
    if off % 0x10 = 0 then
      updHost (fun h => { h with extTgt := mapSet 0 h.extTgt n (v.extractLsb' 5 59) }) { s with extEn := setBit s.extEn n (v.getLsbD 0) }
    else s
  else if off = 0x9880 then updHost (fun h => { h with extTmo := BitVec.ofNat 20 (max 100 (bits v.toNat 0 20)) }) s
  else if off = 0x9A00 then updHost (fun h => { h with aperture := v.extractLsb' 18 22 }) s
  else if off = 0xF000 then hfpbaseSet v s
  else if 0x10000 ≤ off ∧ off < 0x18000 then
    let n := off % 0x200 / 8
    if hankRegDefined n then hankWrite (BitVec.ofNat 6 ((off - 0x10000) / 0x200)) n v s else s
  else if 0x20000 ≤ off ∧ off < 0x28000 then
    let i := (off - 0x20000) / 8
    msixFlush (updHost (fun h => { h with msix := mapSet 0 h.msix i (v ^^^ (if i % 2 = 1 then 0x100000000 else 0)) }) s)
  else s

/-- Read every register that bytes off to off + n - 1 touch, once each. -/
def bar0Touch (off n : Nat) (s : State) : State :=
  if n = 0 then s else (upto ((off + n - 1) / 8 - off / 8 + 1)).foldl (fun s i => bar0ReadEffect ((off / 8 + i) * 8) s) s

/-- The value of n ≤ 8 bytes at an offset, from the registers that hold them (R580). -/
def bytesOf (get : Nat → BitVec 64) (off n : Nat) : BitVec 64 :=
  BitVec.ofNat 64 (((upto n).map fun i => 2 ^ (8 * i) * bits (get ((off + i) / 8 * 8)).toNat ((off + i) % 8 * 8) 8).foldl (· + ·) 0)

/-! ## The DRAM aperture (R45, R588, R589) -/

/-- The DRAM cell that an aperture offset reaches. -/
def apCell (s : State) (x : Nat) : Nat := 2 ^ 18 * s.host.aperture.toNat + x / 8

/-- Read the cells of an aperture access: their bytes, and whether one was uncorrectable. -/
def apRead (lo n : Nat) (s : State) : List (BitVec 8) × Bool × State :=
  (upto n).foldl (fun (r : List (BitVec 8) × Bool × State) i =>
    let a := paOf (lo + i)
    match readCell none a (hostReach (lineOf a) false r.2.2) with
    | (v, s) => (r.1 ++ (upto 8).map (fun j => (cellAt s a).extractLsb' (8 * j) 8), r.2.1 || v.isNone, s)) ([], false, s)

/-- A host read of n bytes at an aperture offset. -/
def apertureRead (x n : Nat) (s : State) : State :=
  let lo := apCell s x
  let k := (x % 8 + n + 7) / 8
  if lo + k > s.dram then updHost (fun h => { h with ans := .unsupported }) s
  else match apRead lo k s with
    | (bs, bad, s) => updHost (fun h => { h with ans := .cells ((bs.drop (x % 8)).take n) bad }) s

/-- A host write of the bytes of one cell from byte `o` on: a whole cell replaces it, a part is merged with the verified cell (R45). -/
def cellMerge (a : PAddr) (o : Nat) (bs : List (BitVec 8)) (s : State) : State :=
  let put (old : Cell) : Cell :=
    BitVec.ofNat 64 (((upto 8).map fun i => 2 ^ (8 * i) * (if o ≤ i ∧ i < o + bs.length then (bs.getD (i - o) 0).toNat else bits old.toNat (8 * i) 8)).foldl (· + ·) 0)
  let s := hostReach (lineOf a) true s
  if bs.length = 8 then putCell none a (put 0) s
  else
    let v := cellAt s a
    if cellBad s a then logEvent 0x23 3 36 0 none (some a.toNat) 0 s
    else match verify v with
      | some (v', fixed) =>
        let s := if fixed then logEvent 0x0E 0 36 0 none (some a.toNat) (syndrome v).toNat s else s
        putCell none a (put v') s
      | none => logEvent 0x23 3 36 0 none (some a.toNat) (syndrome v).toNat s

/-- A host write of bytes at an aperture offset, cell by cell; a cell above installed DRAM is discarded. -/
def apertureWrite (x : Nat) (bs : List (BitVec 8)) (s : State) : State :=
  let lo := apCell s x
  let k := (x % 8 + bs.length + 7) / 8
  (upto k).foldl (fun s i =>
    let first := 8 * i - x % 8
    let o := if i = 0 then x % 8 else 0
    let part := (bs.drop first).take (8 - o)
    if lo + i ≥ s.dram ∨ part.isEmpty then s else cellMerge (paOf (lo + i)) o part s) s

end Sys2Proof.Machine
end

