-- ==== Sys2Proof/Machine/Dict.lean ====
section
/-! DEFINITION. The object dictionary: values, writes, abort codes, and its paths (R657 to R679, R684 to R703). -/

namespace Sys2Proof.Machine

/-! ## Values -/

/-- The ASCII bytes of a string of decimal digits: three digits of a number. -/
def dec3 (n : Nat) : List (BitVec 8) := [BitVec.ofNat 8 (48 + n / 100 % 10), BitVec.ofNat 8 (48 + n / 10 % 10), BitVec.ofNat 8 (48 + n % 10)]

/-- The error register 0x1001 (R661, R674). -/
def errReg (s : State) : Nat :=
  let c := s.m.conds
  let volt := c.getLsbD 2
  let temp := c.getLsbD 0 || c.getLsbD 1 || c.getLsbD 9
  let comm := c.getLsbD 7
  let dev := c.getLsbD 3 || c.getLsbD 4 || c.getLsbD 5 || c.getLsbD 6 || c.getLsbD 8
  b2n (volt || temp || comm || dev) + 4 * b2n volt + 8 * b2n temp + 16 * b2n comm + 128 * b2n dev

/-- The 64 bytes of a log record (R717). -/
def logBytes (r : ErrRec) : List (BitVec 8) :=
  let flags := (r.flags &&& 0xFC).toNat + b2n r.ctx.isSome + 2 * b2n r.addr.isSome
  leBytes 4 r.seq ++ leBytes 8 r.tb ++ leBytes 1 r.event ++ leBytes 1 r.sev ++ leBytes 1 r.domain ++ leBytes 1 r.unit ++
    leBytes 2 ((r.ctx.getD 0 : CtxId).toNat) ++ leBytes 1 flags ++ leBytes 1 r.reps ++ leBytes 8 (r.addr.getD 0) ++ leBytes 8 r.detail ++ leBytes 28 0

/-- The retirement map 0x2403 (R715). -/
def retireBytes (s : State) : List (BitVec 8) := leBytes 8 s.m.retire.length ++ (s.m.retire.map fun e => leBytes 8 e.toNat).flatten

/-- A domain is off (R678). -/
def domOff (s : State) (d : Nat) : Bool :=
  if d = 39 then false
  else if s.m.pwr.off then true
  else if s.mode = .sleep then decide (d ≤ 35 ∨ d = 38)
  else decide (s.mode = .bringup) && decide (s.m.step ≤ (if d < 36 then 5 else 4)) && decide (s.m.step ≠ 0)

/-- LSPIN0 to LSPIN15 (R668). -/
def lspinByte (s : State) (k : SkId) (l : Nat) : Nat :=
  let x := getSk s k
  physPos x (BitVec.ofNat 4 l) + 128 * b2n (x.outOf.getLsbD l)

/-- The per-skein objects (R668). -/
def skeinObj (s : State) (k : SkId) (sub : Nat) : Nat :=
  let x := getSk s k
  if sub ≤ 0x10 then lspinByte s k (sub - 1)
  else match sub with
    | 0x11 => if x.spareBad then 2 else if x.spareFor.isSome then 1 else 0
    | 0x12 => x.retWays.toNat
    | 0x13 => retLines x
    | 0x14 => cardFree x
    | 0x15 => slotsUsed s k
    | _ => ((upto 4).map fun u => b2n (!(mapGet {} x.units u : TUnit).off) * 2 ^ u).foldl (· + ·) 0

/-- A chunk of at most 4,096 bytes from an offset. -/
def chunk (l : List (BitVec 8)) (off : Nat) : List (BitVec 8) := (l.drop off).take 4096

/-- The bytes of the identity certificate. -/
def certBytes (s : State) : List (BitVec 8) := (upto s.m.att.certLen.toNat).map fun i => mapGet 0 s.m.att.cert i

/-- The value of a readable object as bytes (R658). -/
def objBytes (s : State) (i sub : Nat) : List (BitVec 8) :=
  let m := s.m
  let n (sz v : Nat) : List (BitVec 8) := leBytes sz v
  let hi := (objHigh i).getD 0
  if hi ≠ 0 ∧ sub = 0 then n 1 (if i = 0x1003 then m.hist.length else hi)
  else match i with
    | 0x1000 => n 4 0
    | 0x1001 => n 1 (errReg s)
    | 0x1003 => n 4 (m.hist.getD (sub - 1) 0).toNat
    | 0x1008 => [0x55, 0x4E, 0x35, 0x34, 0x38, 0x30]
    | 0x1009 => [0x42, 0x30]
    | 0x100A => [0x30, 0x30, 0x30, 0x33, 0x2E] ++ dec3 s.pgen.toNat
    | 0x1010 | 0x1011 => n 4 1
    | 0x1018 => n 4 (if sub = 1 then 0x0000A3B7 else if sub = 2 then 0x5480 else if sub = 3 then 0xB0 else Config.serial.toNat)
    | 0x1E00 =>
      if sub = 1 then n 1 (b2n Config.orderX)
      else if sub = 2 then n 1 0xB0
      else if sub = 5 then n 4 (if s.mode = .bringup then 0 else s.dram / 2 ^ 27)
      else n 2 (objGet s i sub).toNat
    | 0x2000 =>
      if sub = 1 then n 1 (modeCode s.mode)
      else if sub = 3 then n 1 m.modeRes.toNat
      else if sub = 4 then n 1 m.haltOrg.toNat
      else if sub = 5 then n 4 m.sleepBar.toNat
      else n 1 m.cause.toNat
    | 0x2002 =>
      if sub = 1 then n 1 m.wrlock.toNat
      else n 2 (if sub = 2 then alertMask s else if sub = 3 then emcyMask s else m.conds).toNat
    | 0x2110 => n 2 (if domOff s (sub - 1) then 0 else if sub = 40 then 800 else if domParked s (sub - 1) then 450 else (getDom s (sub - 1)).volt)
    | 0x2111 => n 2 (getDom s (sub - 1)).rate
    | 0x2112 => n 2 (BitVec.ofInt 16 (getDom s (sub - 1)).temp).toNat
    | 0x2113 => n 1 (if domOff s (sub - 1) then 2 else if domParked s (sub - 1) then 1 else 0)
    | 0x2120 => n 4 (if sub = 1 then m.pwr.vin else if sub = 2 then m.pwr.iin else m.pwr.pin)
    | 0x2121 => n 1 m.pwr.limited.toNat
    | 0x2240 => n 8 (baseWord s.hfpEn s.hfpBase).toNat
    | 0x2400 => n 4 (mapGet 0 s.counters sub)
    | 0x2401 => match s.log[m.logsel.toNat + sub - 1]? with
      | some r => logBytes r
      | none => n 64 0
    | 0x2402 => n 2 (if sub = 1 then m.logsel.toNat else s.log.length)
    | 0x2403 => retireBytes s
    | 0x2800 =>
      let has := decide (s.pgen ≠ 0)
      (match sub with
       | 1 => n 1 (lcState s)
       | 3 => n 1 m.fuses.svn
       | 5 => n 4 (if has then m.patch.psvn.toNat else 0)
       | 6 => n 32 (if has then m.patch.pdig.toNat else 0)
       | 7 => n 1 (b2n (lcPend m.fuses.lc))
       | 8 => n 1 m.fuses.policy.toNat
       | _ => n 32 (m.fuses.odkh.getD 0).toNat)
    | 0x2801 =>
      if sub = 1 then n 2 m.att.certLen.toNat
      else if sub = 2 then n 2 m.att.certOff.toNat
      else if sub = 3 then chunk (certBytes s) m.att.certOff.toNat
      else idpkBytes s
    | 0x2802 =>
      if sub = 2 then n 1 m.att.astat.toNat
      else if sub = 3 then n 4 m.att.aseq.toNat
      else if sub = 4 then n 2 m.att.aoff.toNat
      else chunk m.att.report m.att.aoff.toNat
    | 0x2803 => if sub = 1 then n 1 m.dbg.level.toNat else if sub = 2 then n 1 m.dbg.high.toNat else n 2 m.dbg.failcnt.toNat
    | _ =>
      if 0x2200 ≤ i ∧ i < 0x2240 then n 8 (hankRead (getHank s (BitVec.ofNat 6 (i - 0x2200))) (sub - 1)).toNat
      else if 0x3000 ≤ i then n (if 0x12 ≤ sub ∧ sub ≤ 0x15 then 2 else 1) (skeinObj s (BitVec.ofNat 5 (i - 0x3000)) sub)
      else match objInfo i sub with
        | some o => n o.sz (objGet s i sub).toNat
        | none => []

/-- What a read clears (R659): SLEEPBAR, the error counters, the RC registers of a hank. -/
def objClear (i sub : Nat) (s : State) : State :=
  if i = 0x2000 ∧ sub = 5 then updM (fun m => { m with sleepBar := 0 }) s
  else if i = 0x2400 ∧ sub ≠ 0 then { s with counters := mapSet 0 s.counters sub 0 }
  else if 0x2200 ≤ i ∧ i < 0x2240 ∧ sub ≠ 0 then updHank (BitVec.ofNat 6 (i - 0x2200)) (fun k => hankReadClear k (sub - 1)) s
  else s

/-! ## Availability (R678, R685) -/

/-- An object needs a skein, sector or domain that is not running. -/
def objOff (s : State) (i sub : Nat) : Bool :=
  let noSkein := decide (s.mode = .bringup) || decide (s.mode = .sleep)
  (decide (0x2110 ≤ i ∧ i ≤ 0x2113 ∧ sub ≠ 0) && domOff s (sub - 1)) || (decide (0x2200 ≤ i ∧ i ≤ 0x2240) && noSkein) ||
    (decide (0x3000 ≤ i ∧ 0x12 ≤ sub) && noSkein)

/-- A read is available. -/
def readAvail (s : State) (i sub : Nat) : Bool :=
  if lcState s = 4 then decide (0x1000 ≤ i ∧ i ≤ 0x1E10) || decide (i = 0x2800)
  else if s.mode = .bringup then
    decide (0x1000 ≤ i ∧ i ≤ 0x1E10) || decide (0x2000 ≤ i ∧ i ≤ 0x2002) || decide (0x2400 ≤ i ∧ i ≤ 0x2403) ||
      decide (0x2800 ≤ i ∧ i ≤ 0x2803) || decide (0x3000 ≤ i ∧ sub ≤ 0x11)
  else !objOff s i sub

/-- A write is available. A mode request is answered in BRINGUP too (R730). -/
def writeAvail (s : State) (i sub : Nat) : Bool :=
  if lcState s = 4 then false
  else if s.mode = .bringup then
    decide (0x1000 ≤ i ∧ i ≤ 0x1E10) || decide (i = 0x2000) || decide (i = 0x2800 ∧ (sub = 2 ∨ sub = 0x0A)) || decide (i = 0x2803 ∧ sub = 4)
  else !objOff s i sub

/-! ## Reads -/

/-- A read of an object: its abort code and bytes. `lim`: the largest length the request accepts. -/
def dictRead (i sub : Nat) (lim : Option Nat) (s : State) : DictAns × State :=
  let no (c : BitVec 32) : DictAns × State := ({ abort := c }, s)
  if (objHigh i).isNone then no 0x06020000
  else match objInfo i sub with
    | none => no 0x06090011
    | some o =>
      if o.acc = .wo then no 0x06010001
      else if !readAvail s i sub then no 0x08000022
      else
        let s := if 0x3000 ≤ i ∧ 0x12 ≤ sub then reach distaffSector (BitVec.ofNat 5 (i - 0x3000)) s else s
        let b := objBytes s i sub
        if lim.any (fun n => decide (n < b.length)) then no 0x06070012
        else ({ data := b }, objClear i sub s)

/-! ## Writes -/

/-- Ranges of values (R633, R661): an abort code, 0 when the value is in range. -/
def rangeCode (s : State) (i sub : Nat) (v : BitVec 64) : BitVec 32 :=
  let n := v.toNat
  let bad (b : Bool) : BitVec 32 := if b then 0x06090030 else 0
  match i with
  | 0x1E10 => bad (if sub = 1 then decide (n < 1 ∨ 127 < n) else if sub = 2 then decide (3 < n) else decide (1 < n))
  | 0x2100 => bad (decide (n < 100 ∨ 345 < n))
  | 0x2101 => if n < 1600 ∨ 3600 < n then 0x06090030 else if n < (objGet s 0x2102 sub).toNat then 0x06090036 else 0
  | 0x2102 => if n < 1600 ∨ 3600 < n then 0x06090030 else if (objGet s 0x2101 sub).toNat < n then 0x06090036 else 0
  | 0x2103 =>
    let t := (v.setWidth 8 : BitVec 8).toInt
    bad (if Config.orderX then decide (t < -10 ∨ 100 < t) else decide (t < 10 ∨ 90 < t))
  | 0x2104 =>
    bad (if sub = 1 then decide (15 < n) else if sub = 2 then decide (16 < n) else if sub = 3 then decide (n < 10 ∨ 10000 < n)
      else decide (n < 2 ∨ 30 < n))
  | 0x2402 => bad (decide (3199 < n))
  | 0x2801 => bad (decide (20479 < n))
  | 0x2802 => bad (decide (17343 < n))
  | _ => 0

/-- The value as it is kept: reserved bits written as zero (R661, R663). -/
def keptValue (i : Nat) (v : BitVec 64) : BitVec 64 :=
  if i = 0x1014 then v &&& 0x800007FF
  else if i = 0x2001 then v &&& 0x800000FFFFFFFFFF
  else v

/-- The store (R669): a snapshot of the written values becomes the other bank and current; it cancels a "load" (R670). `ok`: the inhibit
does not fall meanwhile. -/
def storeParams (ok : Bool) (s : State) : BitVec 32 × State :=
  if s.m.pwr.inhibit || !ok then (0x08000020, s)
  else (0, updM (fun m =>
    let old := if m.cur then m.bankB else m.bankA
    let b : Bank := { seq := old.seq + 1, valid := true, vals := m.objs }
    if m.cur then { m with bankA := b, cur := false, loadMark := false } else { m with bankB := b, cur := true, loadMark := false }) s)

/-- The bit of a path in WRLOCK (R663). -/
def pathBit (p : DPath) : Nat :=
  match p with
  | .can => 0
  | .mailbox => 1
  | .debug => 2

/-- WRLOCK (R676): a path sets any bit, and clears those of the others. -/
def wrlockSet (p : DPath) (v : BitVec 8) (s : State) : State :=
  updM (fun m => { m with wrlock := (v &&& 7) ||| (m.wrlock &&& setBit 0 (pathBit p) true) }) s

/-- Port enable (R598, R672): the port starts when it changes from 0 to 1, and stops at 0. -/
def portEnable (v : BitVec 64) (s : State) : State :=
  let was := (objGet s 0x1E10 3).getLsbD 0
  let s := updM (fun m => { m with objs := objPut 0x1E10 3 v m.objs }) s
  if v.getLsbD 0 then (if was then s else canStart s) else updM (fun m => { m with nmt := .off, usdo := [] }) s

/-- The effect of a write that passes access, lock, availability and length: its abort code (R661 to R703). -/
def objWrite (p : DPath) (i sub : Nat) (bs : List (BitVec 8)) (ok : Bool) (s : State) : BitVec 32 × State :=
  let v : BitVec 64 := BitVec.ofNat 64 (leNat bs)
  let n := leNat bs
  let store := s.m.pwr.inhibit
  let keep (f : Mgmt → Mgmt) : BitVec 32 × State :=
    let c := rangeCode s i sub v
    if c ≠ 0 then (c, s) else (0, updM f s)
  match i with
  | 0x1003 => if n = 0 then (0, updM (fun m => { m with hist := [] }) s) else (0x06090030, s)
  | 0x1010 => if n = 0x65766173 then storeParams ok s else (0x06090030, s)
  | 0x1017 => keep fun m => { m with objs := objPut i sub v m.objs, hbDue := m.clock + 1000000 * n }
  | 0x1011 =>
    if n ≠ 0x64616F6C then (0x06090030, s) else if store then (0x08000020, s) else (0, updM (fun m => { m with loadMark := true }) s)
  | 0x1E10 => if sub = 3 ∧ n ≤ 1 then (0, portEnable v s) else keep fun m => { m with objs := objPut i sub v m.objs }
  | 0x2000 => (0, modeRequest n s)
  | 0x2002 => if sub = 1 then (0, wrlockSet p (v.setWidth 8) s) else keep fun m => { m with objs := objPut i sub (v &&& 0x03FF) m.objs }
  | 0x2240 => (0, hfpbaseSet v s)
  | 0x2402 =>
    if sub = 1 then keep fun m => { m with logsel := v.setWidth 16 }
    else if n ≠ 0x72616C63 then (0x06090030, s)
    else if store then (0x08000020, s)
    else (0, { s with log := [] })
  | 0x2800 =>
    (match sub with
     | 2 => lcRequest p (bs.getD 0 0).toNat (BitVec.ofNat 32 (leNat (bs.drop 1))) s
     | 4 => svnCommit n s
     | 9 => policySet p (v.setWidth 8) s
     | _ => odkhSet (BitVec.ofNat 256 n) s)
  | 0x2801 => if sub = 3 then certWrite bs s else keep fun m => { m with att := { m.att with certOff := v.setWidth 16 } }
  | 0x2802 => if sub = 1 then nonceWrite bs s else keep fun m => { m with att := { m.att with aoff := v.setWidth 16 } }
  | 0x2803 => if n = 1 then (0, endSession s) else if n = 0 then (0, s) else (0x06090030, s)
  | _ =>
    if 0x2200 ≤ i ∧ i < 0x2240 then (0, hankWrite (BitVec.ofNat 6 (i - 0x2200)) (sub - 1) v s)
    else keep fun m => { m with objs := objPut i sub (keptValue i v) m.objs }

/-- A write of an object by a path: its abort code. -/
def dictWrite (p : DPath) (i sub : Nat) (bs : List (BitVec 8)) (ok : Bool) (s : State) : BitVec 32 × State :=
  if lcState s = 4 then (0x08000022, s)
  else if (objHigh i).isNone then (0x06020000, s)
  else match objInfo i sub with
    | none => (0x06090011, s)
    | some o =>
      if o.acc = .ro ∨ o.acc = .const ∨ o.acc = .rc then (0x06010002, s)
      else if s.m.wrlock.getLsbD (pathBit p) then (0x08000021, s)
      else if !writeAvail s i sub then (0x08000022, s)
      else if (if o.sz = 0 then decide (4096 < bs.length) else decide (bs.length ≠ o.sz)) then (0x06070010, s)
      else objWrite p i sub bs ok s

/-! ## The CAN FD port (R597, R598, R672) -/

/-- The CAN port can send: started, enabled, the reference present, not bus-off. -/
def canSends (s : State) : Bool := decide (s.m.nmt ≠ .off) && refRuns s && decide (s.m.canErr ≠ .busOff)

/-- The port serves USDO: pre-operational or operational. -/
def canServes (s : State) : Bool := canSends s && decide (s.m.nmt ≠ .stopped)

/-- The answer of a USDO request: recorded, and sent on 0x580 + node-ID. -/
def usdoAnswer (a : DictAns) (s : State) : State :=
  canSend (0x580 + s.m.canNode.toNat) (if a.abort = 0 then a.data else leBytes 4 a.abort.toNat) (updM (fun m => { m with canAns := a }) s)

/-- A session by its number. -/
def usdoFind (s : State) (sid : BitVec 8) : Option Usdo := s.m.usdo.find? fun u => u.id = sid

/-- End a session. -/
def usdoDrop (sid : BitVec 8) (s : State) : State := updM (fun m => { m with usdo := m.usdo.filter fun u => u.id ≠ sid }) s

/-- Start a session, or go on with it: it ends after 1,000 ms without a further segment. -/
def usdoOpen (u : Usdo) (s : State) : State := updM (fun m => { m with usdo := m.usdo ++ [{ u with due := m.clock + 1000000000 }] }) (usdoDrop u.id s)

/-- USDO_REQUEST of a session: expedited up to 8 bytes; longer values are read in segments of the value sampled at the start, and
written when the last segment arrives (R672, R676). -/
def execUsdoRequest (sid : BitVec 8) (r : UsdoReq) (s : State) : Out := .next (
  if !canServes s then s
  else
    let full := decide (s.m.usdo.length ≥ 4) && (usdoFind s sid).isNone
    let w (i : BitVec 16) (sub : BitVec 8) (d : List (BitVec 8)) (s : State) : State :=
      match dictWrite .can i.toNat sub.toNat d true s with
      | (c, s) => usdoAnswer { abort := c } s
    match r with
    | .read i sub =>
      if full then usdoAnswer { abort := 0x05040005 } s
      else match dictRead i.toNat sub.toNat none s with
        | (a, s) =>
          if a.abort ≠ 0 ∨ a.data.length ≤ 8 then usdoAnswer a (usdoDrop sid s)
          else usdoAnswer {} (usdoOpen { id := sid, idx := i, sub := sub, write := false, len := a.data.length, data := a.data } s)
    | .write i sub len d =>
      if full then usdoAnswer { abort := 0x05040005 } s
      else if len ≤ 8 then w i sub d (usdoDrop sid s)
      else usdoAnswer {} (usdoOpen { id := sid, idx := i, sub := sub, write := true, len := len, data := d } s)
    | .segRead n =>
      match usdoFind s sid with
      | some u =>
        if u.write then s
        else
          let s := usdoAnswer { data := u.data.take n } s
          if u.data.length ≤ n then usdoDrop sid s else usdoOpen { u with data := u.data.drop n } s
      | none => s
    | .segWrite d last =>
      match usdoFind s sid with
      | some u =>
        if !u.write then s
        else if !last then usdoAnswer {} (usdoOpen { u with data := u.data ++ d } s)
        else if (u.data ++ d).length ≠ u.len then usdoAnswer { abort := 0x06070010 } (usdoDrop sid s)
        else w u.idx u.sub (u.data ++ d) (usdoDrop sid s)
      | none => s)

/-- USDO_SESSION_TIMEOUT. -/
def execUsdoSessionTimeout (sid : BitVec 8) (s : State) : Out := .next (
  match usdoFind s sid with
  | some u =>
    if s.m.clock < u.due then s
    else if canServes s then usdoAnswer { abort := 0x05040000 } (usdoDrop sid s) else usdoDrop sid s
  | none => s)

/-- An NMT command for a node, 0 for every node, reaches a running port. -/
def nmtDo (node : BitVec 8) (f : State → State) (s : State) : State :=
  if canSends s ∧ (node = 0 ∨ node = s.m.canNode) then f s else s

/-- RESET_NODE. -/
def execResetNode (node : BitVec 8) (s : State) : Out := .next (nmtDo node canStart s)

/-- RESET_COMMUNICATION. -/
def execResetCommunication (node : BitVec 8) (s : State) : Out := .next (nmtDo node canStart s)

/-- STOP: only the heartbeat is left. -/
def execStop (node : BitVec 8) (s : State) : Out := .next (nmtDo node (updM fun m => { m with nmt := .stopped }) s)

/-- PRE_OPERATIONAL. -/
def execPreOperational (node : BitVec 8) (s : State) : Out := .next (nmtDo node (updM fun m => { m with nmt := .preOp }) s)

/-- OPERATIONAL. -/
def execOperational (node : BitVec 8) (s : State) : Out := .next (nmtDo node (updM fun m => { m with nmt := .oper }) s)

/-- The NMT state code of a heartbeat. -/
def nmtCode (n : Nmt) : BitVec 8 :=
  match n with
  | .stopped => 0x04
  | .oper => 0x05
  | _ => 0x7F

/-- HEARTBEAT: the producer period of 0x1017, in ms, has expired. -/
def execHeartbeat (s : State) : Out := .next (
  let ms := (objGet s 0x1017 0).toNat
  if canSends s ∧ ms ≠ 0 ∧ s.m.hbDue ≤ s.m.clock then
    canSend (0x700 + s.m.canNode.toNat) [nmtCode s.m.nmt] (updM (fun m => { m with hbDue := m.clock + 1000000 * ms }) s)
  else s)

/-! ## EMCY (R674) -/

/-- Send an EMCY frame: code, error register, additional information. The inhibit time of 0x1015, in units of 100 µs, starts. -/
def emcySend (e : BitVec 32) (s : State) : State :=
  let cob := objGet s 0x1014 0
  if cob.getLsbD 31 then s
  else
    let s := canSend (bits cob.toNat 0 11) (leBytes 2 (bits e.toNat 0 16) ++ leBytes 1 (errReg s) ++ leBytes 2 (bits e.toNat 16 16) ++ leBytes 3 0) s
    updM (fun m => { m with emcyInh := decide (objGet s 0x1015 0 ≠ 0), emcyEnd := m.clock + 100000 * (objGet s 0x1015 0).toNat }) s

/-- EMCY: the oldest one that is due is entered in the history, and sent, or waits while the inhibit time runs. While the controller is
bus-off it stays due. -/
def execEmcy (s : State) : Out := .next (
  match s.m.emcyDue with
  | [] => s
  | e :: r =>
    if s.m.canErr = .busOff then s
    else
      let s := updM (fun m => { m with emcyDue := r, hist := (e :: m.hist).take 16 }) s
      if !canServes s then s
      else if s.m.emcyInh || !s.m.emcyQ.isEmpty then (if s.m.emcyQ.length < 8 then updM (fun m => { m with emcyQ := m.emcyQ ++ [e] }) s else s)
      else emcySend e s)

/-- EMCY_INHIBIT_EXPIRY: the next waiting message is sent. -/
def execEmcyInhibitExpiry (s : State) : Out := .next (
  if s.m.clock < s.m.emcyEnd then s
  else match s.m.emcyQ with
  | [] => updM (fun m => { m with emcyInh := false }) s
  | e :: r =>
    if canServes s then emcySend e (updM (fun m => { m with emcyQ := r, emcyInh := false }) s)
    else updM (fun m => { m with emcyInh := false, emcyQ := if s.m.canErr = .busOff then m.emcyQ else [] }) s)

/-- The error counters after an event of the bus, transmit and receive (R597: ISO 11898-1; PRESUMED, log 187). A frame with a 29-bit identifier and
a remote frame are received well and discarded; neither is answered. -/
def canCount (n : Nat × Nat) (e : CanBus) : Nat × Nat :=
  match e with
  | .txErr => (n.1 + 8, n.2)
  | .rxErr => (n.1, n.2 + 1)
  | .rxErr8 => (n.1, n.2 + 8)
  | .txOk => (n.1 - 1, n.2)
  | .rxOk | .ext29 | .remote => (n.1, if n.2 > 127 then 127 else n.2 - 1)

/-- The fault confinement state of the error counters. -/
def canState (n : Nat × Nat) : CanErr := if n.1 > 255 then .busOff else if n.1 > 127 ∨ n.2 > 127 then .passive else .active

/-- The controller runs: the port is enabled and the reference is present (R598). -/
def canRuns (s : State) : Bool := decide (s.m.nmt ≠ .off) && refRuns s

/-- ERROR_PASSIVE: the events of the bus drive the error counters, and these the fault confinement state; error passive and bus-off hold
condition 7. A controller that is bus-off counts nothing until it recovers. -/
def execErrorPassive (e : List CanBus) (s : State) : Out := .next (
  if !canRuns s || decide (s.m.canErr = .busOff) then s
  else
    let n := e.foldl (fun n e => if n.1 > 255 then n else canCount n e) (s.m.txErrs, s.m.rxErrs)
    let s := updM (fun m => { m with txErrs := n.1, rxErrs := n.2, canErr := canState n }) s
    if canState n = .active then condClear 7 s else condSet 7 (decide (canState n = .busOff)) s)

/-- BUS_OFF_RECOVERY: the error counters start again from 0. -/
def execBusOffRecovery (s : State) : Out := .next (
  if canRuns s && decide (s.m.canErr = .busOff) then condClear 7 (updM (fun m => { m with canErr := .active, txErrs := 0, rxErrs := 0 }) s) else s)

/-! ## The mailbox and the debug mirror (R675, R700) -/

/-- The dictionary runs: from start-up step 3 (R721). -/
def dictRuns (s : State) : Bool := decide (s.mode ≠ .bringup) || decide (s.m.step ≥ 3)

/-- The mailbox can be reached: the link is up, the domains that carry it are powered (R28, R722). -/
def mailboxUp (s : State) : Bool :=
  decide (s.host.link = .active) && !s.host.perst && !s.host.d3 && (decide (s.mode ≠ .bringup) || decide (s.m.step > 4))

/-- The fields of a mailbox request (R675). -/
def mbOp (b : Mbox) : Nat := bits b.req.toNat 56 8
def mbIdx (b : Mbox) : Nat := bits b.req.toNat 40 16
def mbSub (b : Mbox) : Nat := bits b.req.toNat 32 8
def mbLen (b : Mbox) : Nat := bits b.req.toNat 16 16
def mbTag (b : Mbox) : BitVec 16 := b.req.extractLsb' 0 16

/-- Replace the leading data bytes. -/
def mbPut (d : List (BitVec 8)) (b : Mbox) : Mbox := { b with data := d.zipIdx.foldl (fun m e => mapSet 0 m e.2 e.1) b.data }

/-- Serve a request by a path: the registers after it. `read1`: only reads are served (R700). An OP other than 1 and 2 has no stated
result. -/
def mbServe (p : DPath) (b : Mbox) (ok : Bool) (s : State) : Mbox × State :=
  let fin (a : BitVec 32) (rlen : Nat) (b : Mbox) : Mbox := { b with done := true, rlen := BitVec.ofNat 13 rlen, abort := a, tag := mbTag b }
  if mbOp b = 1 then
    (match dictRead (mbIdx b) (mbSub b) (some (min 4096 (mbLen b))) s with
     | (a, s) => (fin a.abort a.data.length (mbPut a.data b), s))
  else if mbOp b = 2 then
    (if mbLen b = 0 ∨ mbLen b > 4096 then (fin 0x06070010 0 b, s)
     else match dictWrite p (mbIdx b) (mbSub b) ((upto (mbLen b)).map fun i => mapGet 0 b.data i) ok s with
      | (c, s) => (fin c 0 b, s))
  else
    let r := freshNat s
    (fin (BitVec.ofNat 32 r.1) 0 b, r.2)

/-- GO: the request is served; its completion sends an MSI-X message when IEN asks for one, once MSI-X can be programmed (R722). -/
def mailboxGo (ok : Bool) (s : State) : State :=
  match mbServe .mailbox s.host.mbox ok s with
  | (b, s) =>
    let s := updHost (fun h => { h with mbox := b }) s
    if b.ien && decide (s.mode ≠ .bringup) then msixRaise b.vec.toNat s else s

/-- The request register of a mailbox. -/
def mbReq (op idx sub len : Nat) (tag : BitVec 16) : BitVec 64 := pack [(op, 56), (idx, 40), (sub, 32), (len, 16), (tag.toNat, 0)]

/-- MAILBOX_READ: the host writes a read request and GO. -/
def execMailboxRead (idx : BitVec 16) (sub : BitVec 8) (len : BitVec 16) (tag : BitVec 16) (s : State) : Out := .next (
  if !mailboxUp s then s
  else mailboxGo true (updHost (fun h => { h with mbox := { h.mbox with req := mbReq 1 idx.toNat sub.toNat len.toNat tag } }) s))

/-- MAILBOX_WRITE: the host writes a write request, its data and GO. -/
def execMailboxWrite (idx : BitVec 16) (sub : BitVec 8) (tag : BitVec 16) (data : List (BitVec 8)) (s : State) : Out := .next (
  if !mailboxUp s then s
  else mailboxGo true (updHost (fun h =>
    { h with mbox := mbPut data { h.mbox with req := mbReq 2 idx.toNat sub.toNat (data.length % 65536) tag } }) s))

/-- The debug mirror serves a write: level FULL or above, the dictionary running, not in LC_END (R699 to R701). -/
def mirrorWrites (s : State) : Bool := decide (s.m.dbg.level.toNat ≥ 2) && dictRuns s && decide (lcState s ≠ 4)

/-- Serve the request that the mirror holds. -/
def mirrorGo (ok : Bool) (s : State) : State :=
  match mbServe .debug s.m.dbg.mirror ok s with
  | (b, s) => updM (fun m => { m with dbg := { m.dbg with mirror := b } }) s

/-- A write of an object by a path, where the path serves it. -/
def pathWrite (p : DPath) (i sub : Nat) (bs : List (BitVec 8)) (ok : Bool) (s : State) : State :=
  match p with
  | .can =>
    if !canServes s then s
    else match dictWrite .can i sub bs ok s with
      | (c, s) => usdoAnswer { abort := c } s
  | .mailbox =>
    if !mailboxUp s then s
    else mailboxGo ok (updHost (fun h => { h with mbox := mbPut bs { h.mbox with req := mbReq 2 i sub bs.length 0 } }) s)
  | .debug =>
    if !mirrorWrites s then s
    else mirrorGo ok (updM (fun m => { m with dbg := { m.dbg with mirror := mbPut bs { m.dbg.mirror with req := mbReq 2 i sub bs.length 0 } } }) s)

/-! ## Writes with a row of their own -/

/-- MODE_REQUEST_STANDBY (R644). -/
def execModeRequestStandby (p : DPath) (s : State) : Out := .next (pathWrite p 0x2000 2 [1] true s)

/-- MODE_REQUEST_RUN. -/
def execModeRequestRun (p : DPath) (s : State) : Out := .next (pathWrite p 0x2000 2 [2] true s)

/-- MODE_REQUEST_DROWSE. -/
def execModeRequestDrowse (p : DPath) (s : State) : Out := .next (pathWrite p 0x2000 2 [3] true s)

/-- MODE_REQUEST_SLEEP (R647). -/
def execModeRequestSleep (p : DPath) (s : State) : Out := .next (pathWrite p 0x2000 2 [4] true s)

/-- MODE_REQUEST_HALT (R645). -/
def execModeRequestHalt (p : DPath) (s : State) : Out := .next (pathWrite p 0x2000 2 [5] true s)

/-- STORE_PARAMETERS; `ok` that the inhibit does not fall during the store. -/
def execStoreParameters (p : DPath) (ok : Bool) (s : State) : Out := .next (pathWrite p 0x1010 1 [0x73, 0x61, 0x76, 0x65] ok s)

/-- RESTORE_DEFAULTS. -/
def execRestoreDefaults (p : DPath) (s : State) : Out := .next (pathWrite p 0x1011 1 [0x6C, 0x6F, 0x61, 0x64] true s)

/-- ERROR_COUNT_CLEAR. -/
def execErrorCountClear (p : DPath) (s : State) : Out := .next (pathWrite p 0x1003 0 [0] true s)

/-- LOGCLR. -/
def execLogclr (p : DPath) (s : State) : Out := .next (pathWrite p 0x2402 2 [0x63, 0x6C, 0x61, 0x72] true s)

/-- WRLOCK. -/
def execWrlock (p : DPath) (v : BitVec 8) (s : State) : Out := .next (pathWrite p 0x2002 1 [v] true s)

/-- The 5 bytes of a lifecycle request (R684). -/
def lcBytes (code : Nat) (v : BitVec 32) : List (BitVec 8) := BitVec.ofNat 8 code :: leBytes 4 v.toNat

/-- LC_DEV. -/
def execLcDev (p : DPath) (v : BitVec 32) (s : State) : Out := .next (pathWrite p 0x2800 2 (lcBytes 1 v) true s)

/-- LC_PROD. -/
def execLcProd (p : DPath) (v : BitVec 32) (s : State) : Out := .next (pathWrite p 0x2800 2 (lcBytes 2 v) true s)

/-- LC_RETURN. -/
def execLcReturn (p : DPath) (v : BitVec 32) (s : State) : Out := .next (pathWrite p 0x2800 2 (lcBytes 3 v) true s)

/-- LC_END. -/
def execLcEnd (p : DPath) (v : BitVec 32) (s : State) : Out := .next (pathWrite p 0x2800 2 (lcBytes 4 v) true s)

/-- SVNCOMMIT. -/
def execSvncommit (p : DPath) (v : BitVec 8) (s : State) : Out := .next (pathWrite p 0x2800 4 [v] true s)

/-- ODKHSET. -/
def execOdkhset (p : DPath) (v : BitVec 256) (s : State) : Out := .next (pathWrite p 0x2800 0x0A (leBytes 32 v.toNat) true s)

/-- POLICYSET. -/
def execPolicyset (p : DPath) (v : BitVec 8) (s : State) : Out := .next (pathWrite p 0x2800 9 [v] true s)

/-- NONCE. -/
def execNonce (p : DPath) (v : BitVec 256) (s : State) : Out := .next (pathWrite p 0x2802 1 (leBytes 32 v.toNat) true s)

/-- CERTCHUNK. -/
def execCertchunk (p : DPath) (d : List (BitVec 8)) (s : State) : Out := .next (pathWrite p 0x2801 3 d true s)

/-- DBGLOCK. -/
def execDbglock (p : DPath) (v : BitVec 8) (s : State) : Out := .next (pathWrite p 0x2803 4 [v] true s)

end Sys2Proof.Machine
end

