-- ==== Sys2Proof/Machine/Debug.lean ====
section
/-! DEFINITION. The debug transport, its address spaces, tokens, diagnostics (R694 to R702, R719). -/

namespace Sys2Proof.Machine

/-- Change the debug state. -/
def updDbg (f : Debug → Debug) (s : State) : State := updM (fun m => { m with dbg := f m.dbg }) s

/-! ## Context images (R248, R270 to R276, R700) -/

/-- The landings of an image, whose records count REM from the last slot that issued: the one before the context's next (R273, R274). -/
def imgLands (x : Ctx) : List Landing := x.land.map fun l => { l with slot := l.slot + 1 }

/-- The index of the record that awaits the parking result, 0xF without one (R271). -/
def precOf (x : Ctx) : Nat :=
  match ((recOrder x.flow.slot (imgLands x)).take 12).findIdx? fun l => !l.arrived with
  | some i => i
  | none => 15

/-- MS0 to MS7 (R248). -/
def msCell (m : MicroRec) (i : Nat) : Cell :=
  match i with
  | 0 => rawCell (b1 m.mv ++ m.kind ++ m.level ++ m.sdepth ++ m.major ++ m.minor ++ m.upc ++ m.flags ++ (0 : BitVec 6))
  | 1 => rawCell m.addr
  | 2 => rawCell ((0 : BitVec 6) ++ m.stack)
  | 3 => rawCell (m.pgen ++ m.k0 ++ m.k1)
  | 4 => m.t0
  | 5 => m.t1
  | 6 => m.t2
  | _ => m.t3

/-- LVAL k of a bobbin where no record gives it a value: what the debugger wrote there since the save, else a free value. -/
def spareLval (c : CtxId) (x : Ctx) (k : Nat) : Cell :=
  let u := sealCell (Config.spareLval c.toNat x.gen x.flow.slot k)
  if x.lvSpareSlot = x.flow.slot then mapGet u x.lvSpare k else u

/-- A cell of a bobbin (R270 to R276). -/
def bobbinRead (c : CtxId) (x : Ctx) (n : Nat) : Cell :=
  let rc := recCells (spareLval c x) x.flow.slot (imgLands x)
  if n = 0 then
    rawCell (c ++ b1 x.hv ++ x.hank ++ x.level ++ x.prio ++ x.pin ++ x.wake ++ BitVec.ofNat 4 (precOf x) ++ (0 : BitVec 11))
  else if n = 1 then rawCell x.flow.pc
  else if n = 2 then rawCell (if x.flow.dcnt = 0 then 0 else x.flow.dtgt)
  else if n = 3 then flowCell x
  else if n ≤ 9 then rawCell (x.pbits.extractLsb' (48 * (n - 4)) 48)
  else if n = 10 then rawCell x.flow.lpStart
  else if n = 11 then rawCell x.flow.lpEnd
  else if n = 12 then rawCell x.flow.lpCnt
  else if n ≤ 16 then rc.1.getD (n - 13) 0
  else if n ≤ 22 then rc.2.1.getD (n - 17) 0
  else if n ≤ 24 then rc.2.2.getD (n - 23) 0
  else if n ≤ 32 then msCell x.ms (n - 25)
  else wGet x (BitVec.ofNat 5 (n - 32))

/-- LDESC0 to LDESC3, LVAL0 to LVAL5 and LEXT0 to LEXT1 of a bobbin after one cell among 13 to 24 is replaced. -/
def bobbinRecs (c : CtxId) (x : Ctx) (n : Nat) (v : Cell) : List Cell × List Cell × List Cell :=
  let rc := recCells (spareLval c x) x.flow.slot (imgLands x)
  (if n ≤ 16 then rc.1.set (n - 13) v else rc.1, if 17 ≤ n ∧ n ≤ 22 then rc.2.1.set (n - 17) (sealCell v) else rc.2.1,
    if 23 ≤ n then rc.2.2.set (n - 23) v else rc.2.2)

/-- The landings of a bobbin with those cells: REM = r lands at the r-th slot from the next (R277). A record keeps whether its value has arrived. The
LVAL cells are kept whole. -/
def bobbinLand (x : Ctx) (rc : List Cell × List Cell × List Cell) : Ctx :=
  let old := (recOrder x.flow.slot (imgLands x)).take 12
  { x with
    lvSpareSlot := x.flow.slot, lvSpare := (upto 6).map fun k => (k, rc.2.1.getD k 0)
    land := (upto 12).filterMap fun k =>
      let w := bits (cDat (rc.1.getD (k / 3) 0)).toNat (k % 3 * 16) 16
      let ext := bits (cDat (rc.2.2.getD (k / 3) 0)).toNat (k % 3 * 16) 16
      (recLand x.flow.slot w (rc.2.1.getD k 0) ext).map fun r =>
        match old[k]? with
        | some o => { r with slot := r.slot - 1, arrived := o.arrived, fpx := o.fpx }
        | none => { r with slot := r.slot - 1 } }

/-- MS0 to MS7 with one cell replaced. -/
def msPut (m : MicroRec) (i : Nat) (v : Cell) : MicroRec :=
  let d := cDat v
  match i with
  | 0 => { m with
      mv := d.getLsbD 47, kind := d.extractLsb' 44 3, level := d.extractLsb' 42 2, sdepth := d.extractLsb' 40 2
      major := d.extractLsb' 32 8, minor := d.extractLsb' 24 8, upc := d.extractLsb' 10 14, flags := d.extractLsb' 6 4 }
  | 1 => { m with addr := d }
  | 2 => { m with stack := d.extractLsb' 0 42 }
  | 3 => { m with pgen := d.extractLsb' 40 8, k0 := d.extractLsb' 20 20, k1 := d.extractLsb' 0 20 }
  | 4 => { m with t0 := sealCell v }
  | 5 => { m with t1 := sealCell v }
  | 6 => { m with t2 := sealCell v }
  | _ => { m with t3 := sealCell v }

/-- A bobbin with one cell replaced. CTX, HV, HANK, LEVEL and PREC of CTL are fixed (R320). -/
def bobbinWrite (c : CtxId) (x : Ctx) (n : Nat) (v : Cell) : Ctx :=
  let d := cDat v
  if n = 0 then { x with prio := d.extractLsb' 20 3, pin := d.extractLsb' 18 2, wake := d.extractLsb' 15 3 }
  else if n = 1 then { x with flow := { x.flow with pc := d, past := false } }
  else if n = 2 then { x with flow := { x.flow with dtgt := d } }
  else if n = 3 then
    { x with
      flow := { x.flow with dcnt := d.extractLsb' 46 2 }
      status := d.extractLsb' 41 5, preds := d.extractLsb' 34 7 ++ (1 : BitVec 1), fpSaved := d.getLsbD 33
      genctl := d.extractLsb' 17 16 &&& 0xFE07, fpflags := d.extractLsb' 12 5 }
  else if n ≤ 9 then
    let i := 48 * (n - 4)
    { x with pbits := (x.pbits &&& ~~~((0xFFFFFFFFFFFF : BitVec 256) <<< i)) ||| (d.setWidth 256 <<< i) }
  else if n = 10 then { x with flow := { x.flow with lpStart := d } }
  else if n = 11 then { x with flow := { x.flow with lpEnd := d } }
  else if n = 12 then { x with flow := { x.flow with lpCnt := d } }
  else if n ≤ 24 then bobbinLand x (bobbinRecs c x n v)
  else if n ≤ 32 then { x with ms := msPut x.ms (n - 25) v }
  else wSet x (BitVec.ofNat 5 (n - 32)) v

/-- The context that an image address names, if the transport reaches it (R700). -/
def imageCtx (s : State) (a : PAddr) : Option CtxId :=
  let c := a.toNat / 64
  let x := getCtx s (BitVec.ofNat 16 c)
  if c < 65536 ∧ x.st ≠ .free ∧ (s.mode = .halt ∨ ((s.mode = .standby ∨ s.mode = .run ∨ s.mode = .drowse) ∧ x.st = .suspended)) then
    some (BitVec.ofNat 16 c)
  else none

/-! ## Commands (R698 to R701) -/

/-- What Capture-DR loads after a command. -/
def dbgAns (cmd : BitVec 4) (stat : Nat) (d : BitVec 64) (s : State) : State :=
  updM (fun m => { m with tap := { m.tap with ir := 0x10 }, dbg := { m.dbg with cmd := cmd, stat := BitVec.ofNat 4 stat, data := d } }) s

/-- Run a command: the TAP answers from step 2 on, STATUS alone at step 2 and in LC_END; a level too low is STAT 1 (R699, R721). -/
def dbgRun (cmd : BitVec 4) (lvl : Nat) (f : State → Nat × BitVec 64 × State) (s : State) : State :=
  let early := decide (s.mode = .bringup) && decide (s.m.step ≤ 2) && decide (s.m.step ≠ 0)
  if s.mode = .bringup ∧ s.m.step = 1 then s
  else if (early || decide (lcState s = 4)) && decide (cmd ≠ 0) then s
  else if s.m.dbg.level.toNat < lvl then dbgAns cmd 1 0 s
  else match f s with
    | (st, d, s) => dbgAns cmd st d s

/-- Seconds of the wait of R697 that remain. -/
def waitLeft (s : State) : Nat := (s.m.dbg.waitEnd - s.m.clock + 999999999) / 1000000000

/-- STATUS. -/
def execStatus (s : State) : Out := .next (dbgRun 0 0 (fun s =>
  let d := s.m.dbg
  (0, pack [(d.level.toNat, 62), (d.result.toNat, 48), (d.failcnt.toNat, 32), (min (2 ^ 32 - 1) (waitLeft s), 0)], s)) s)

/-- CHAL: a new challenge, or 8 bytes of the outstanding one (R697, R699). -/
def execChal (data : BitVec 64) (s : State) : Out := .next (dbgRun 1 0 (fun s =>
  let k := bits data.toNat 0 2
  if waitLeft s > 0 ∨ s.m.dbg.verify then (3, 0, s)
  else if k = 0 then
    let r := freshNat s
    let ch := BitVec.ofNat 256 r.1
    (0, ch.extractLsb' 0 64, updDbg (fun d => { d with chal := some ch, tok := [] }) r.2)
  else match s.m.dbg.chal with
    | some ch => (0, ch.extractLsb' (64 * k) 64, s)
    | none => (4, 0, s)) s)

/-- TOKW: the last word starts the verification. -/
def execTokw (data : BitVec 64) (s : State) : Out := .next (dbgRun 2 0 (fun s =>
  if s.m.dbg.verify then (3, 0, s)
  else (0, 0, updDbg (fun d =>
    let t := d.tok ++ [data]
    { d with tok := t, verify := decide (t.length ≥ 2040) }) s)) s)

/-- The key that a level may be opened with in the device's state (R694): true the owner's; none when no key opens it. -/
def levelKey (s : State) (lv : Nat) (perm : Bool) : Option Bool :=
  let lc := lcState s
  let f := s.m.fuses
  if lv ≤ s.m.dbg.level.toNat ∨ (perm ∧ ¬(lc = 2 ∧ lv = 2)) then none
  else if lc = 2 then
    if lv = 3 then none else if f.odkh.isSome then some true else if f.policy.getLsbD 1 then none else some false
  else if (lc = 1 ∨ lc = 3) ∧ lv = 3 then some false
  else none

/-- The result of the checks of R696, with the level and the permission that a good token opens. -/
def tokenCheck (s : State) : Nat × Nat × Bool :=
  let b := (s.m.dbg.tok.map fun w => leBytes 8 w.toNat).flatten
  let lv := leNat (slice b 6 1)
  let perm := decide (leNat (slice b 7 1) % 2 = 1)
  match s.m.dbg.chal with
  | none => (8, 0, false)
  | some ch =>
    if slice b 0 4 ≠ [0x55, 0x44, 0x42, 0x47] ∨ leNat (slice b 4 2) ≠ 1 ∨ leNat (slice b 7 1) > 1 ∨ !zeros b 44 4 ∨ lv < 1 ∨ 3 < lv then (1, 0, false)
    else if leNat (slice b 8 4) ≠ Config.serial.toNat then (2, 0, false)
    else if leNat (slice b 12 32) ≠ ch.toNat then (3, 0, false)
    else match levelKey s lv perm with
      | none => (4, 0, false)
      | some own =>
        let key := if own then s.m.fuses.odkh.getD 0 else Config.vdkh
        if Config.sha256 (slice b 48 48) ≠ key then (5, 0, false)
        else if !Config.slhVerify (slice b 48 48) (slice b 0 96) (slice b 96 16224) then (6, 0, false)
        else (0, lv, perm)

/-- TOKEN_VERIFICATION: the verification ends (R696, R697). The challenge is spent. -/
def execTokenVerification (s : State) : Out := .next (
  if !s.m.dbg.verify then s
  else
    let r := tokenCheck s
    updM (fun m =>
      let d := { m.dbg with verify := false, tok := [], chal := none, result := BitVec.ofNat 8 r.1 }
      if r.1 = 0 then
        let lv := BitVec.ofNat 2 r.2.1
        { m with dbg := { d with level := lv, high := if lv.toNat > d.high.toNat then lv else d.high, perm := r.2.2, failcnt := 0 } }
      else
        let n := min 65535 (d.failcnt.toNat + 1)
        { m with dbg := { d with
          failcnt := BitVec.ofNat 16 n
          waitEnd := if n ≥ 4 then m.clock + 1000000000 * min 1024 (2 ^ min 10 (n - 4)) else d.waitEnd } }) s)

/-- LOCK. -/
def execLock (s : State) : Out := .next (dbgRun 3 0 (fun s => (0, 0, endSession s)) s)

/-- ADDR. -/
def execAddr (data : BitVec 64) (s : State) : Out := .next (dbgRun 4 0 (fun s =>
  (0, 0, updDbg (fun d => { d with space := data.extractLsb' 62 2, addr := data.extractLsb' 0 40 }) s)) s)

/-- A register of a mailbox by byte offset (R675). -/
def mbRead (b : Mbox) (off : Nat) : BitVec 64 :=
  if off = 0 then b.req
  else if off = 0x10 then pack [(b2n b.done, 62), (b.rlen.toNat, 32), (b.abort.toNat, 0)]
  else if off = 0x18 then b.tag.setWidth 64
  else if off = 0x20 then pack [(b2n b.ien, 63), (b.vec.toNat, 0)]
  else if 0x1000 ≤ off ∧ off < 0x2000 then BitVec.ofNat 64 (leNat ((upto 8).map fun i => mapGet 0 b.data (off - 0x1000 + i)))
  else 0

/-- A write of a register of a mailbox other than GO. -/
def mbWrite (b : Mbox) (off : Nat) (v : BitVec 64) : Mbox :=
  if off = 0 then { b with req := v }
  else if off = 0x20 then { b with ien := v.getLsbD 63, vec := v.extractLsb' 0 11 }
  else if 0x1000 ≤ off ∧ off < 0x2000 then
    { b with data := (upto 8).foldl (fun m i => mapSet 0 m (off - 0x1000 + i) (v.extractLsb' (8 * i) 8)) b.data }
  else b

/-- The address advances after an access: 8 bytes of the mirror, or one cell. -/
def dbgNext (s : State) : State := updDbg (fun d => { d with addr := d.addr + (if d.space = 0 then 8 else 1) }) s

/-- Physical memory space is reachable: not in SLEEP, in BRINGUP once DRAM is trained (R701, R721). -/
def physOpen (s : State) : Bool := decide (s.mode ≠ .sleep) && (decide (s.mode ≠ .bringup) || decide (s.m.step ≥ 7))

/-- RD: 8 bytes of the selected space (R700). -/
def execRd (s : State) : Out := .next (dbgRun 5 1 (fun s =>
  let a := s.m.dbg.addr
  if s.m.dbg.space = 0 then (0, mbRead s.m.dbg.mirror (a.toNat / 8 * 8), dbgNext s)
  else if s.m.dbg.space = 1 then
    if !physOpen s then (2, 0, s)
    else if a.toNat ≥ s.dram then (4, 0, s)
    else match readCell none a (distaffReach (lineOf a) false s) with
      | (v, s) => (if v.isSome then 0 else 4, cellAt s a, dbgNext s)
  else if s.m.dbg.space = 2 then
    match imageCtx s a with
    | some c => let s := reach distaffSector (getCtx s c).skein s; (0, bobbinRead c (getCtx s c) (a.toNat % 64), dbgNext s)
    | none => (2, 0, s)
  else (4, 0, s)) s)

/-- A mirror write (R699, R700): the request and GO of a read at level 1, everything at level 2. -/
def mirrorPut (off : Nat) (v : BitVec 64) (s : State) : Nat × State :=
  let low := decide (s.m.dbg.level.toNat < 2)
  if off = 8 then
    if !v.getLsbD 0 then (0, s)
    else if low && decide (mbOp s.m.dbg.mirror ≠ 1) then (1, s)
    else (0, mirrorGo true s)
  else if low && decide (off ≠ 0) then (1, s)
  else (0, updDbg (fun d => { d with mirror := mbWrite d.mirror off v }) s)

/-- WR: 8 bytes to the selected space (R700). -/
def execWr (data : BitVec 64) (s : State) : Out := .next (dbgRun 6 1 (fun s =>
  let a := s.m.dbg.addr
  if s.m.dbg.space = 0 then
    match mirrorPut (a.toNat / 8 * 8) data s with
    | (0, s) => (0, 0, dbgNext s)
    | (n, s) => (n, 0, s)
  else if s.m.dbg.level.toNat < 2 then (1, 0, s)
  else if s.m.dbg.space = 1 then
    if !physOpen s then (2, 0, s)
    else if a.toNat ≥ s.dram then (4, 0, s)
    else (0, 0, dbgNext (putCell none a data (distaffReach (lineOf a) true s)))
  else if s.m.dbg.space = 2 then
    match imageCtx s a with
    | some c => (0, 0, dbgNext (updCtx c (fun x => bobbinWrite c x (a.toNat % 64) data) (reach distaffSector (getCtx s c).skein s)))
    | none => (2, 0, s)
  else (4, 0, s)) s)

/-- HALT. -/
def execHalt (s : State) : Out := .next (dbgRun 7 2 (fun s => (0, 0, debugHalt s)) s)

/-- RELEASE: only a debug-originated HALT. -/
def execRelease (s : State) : Out := .next (dbgRun 8 2 (fun s =>
  if s.mode = .halt ∧ s.m.haltOrg = 2 then (0, 0, leaveHalt s) else (2, 0, s)) s)

/-- DIRQ: interrupt source 4. -/
def execDirq (data : BitVec 64) (s : State) : Out := .next (dbgRun 9 2 (fun s =>
  let c : CtxId := data.extractLsb' 0 16
  if s.mode = .sleep ∨ s.mode = .bringup then (2, 0, s)
  else if (getCtx s c).st = .free then (4, 0, s)
  else (0, 0, raiseIrq c 4 (hear distaffSector c s))) s)

/-! ## Diagnostics (R719) -/

/-- Commands 0xA to 0xF at level VENDOR; in LC_BLANK not in SLEEP (R701). -/
def diagRun (cmd : BitVec 4) (f : State → Nat × BitVec 64 × State) (s : State) : State :=
  dbgRun cmd 3 (fun s => if lcState s = 0 ∧ s.mode = .sleep then (2, 0, s) else f s) s

/-- MCRD: a slice of a microword. -/
def execMcrd (data : BitVec 64) (s : State) : Out := .next (diagRun 0xA (fun s =>
  let a := bits data.toNat 0 16
  let w : BitVec 144 := if a < 0x2000 then Config.rom a else mapGet 0 s.patch (a - 0x2000)
  if a ≥ 0x2100 then (4, 0, s) else (0, w.extractLsb' (64 * bits data.toNat 16 2) 64, s)) s)

/-- INJADDR: the target of an injection. -/
def execInjaddr (data : BitVec 64) (s : State) : Out := .next (diagRun 0xB (fun s => (0, 0, { s with injAddr := data })) s)

/-- INJARM: the next write of the target takes the error. -/
def execInjarm (data : BitVec 64) (s : State) : Out := .next (diagRun 0xC (fun s => (0, 0, { s with injArmed := some data })) s)

/-- SCRUB: an extra pass from the first line. -/
def execScrub (s : State) : Out := .next (diagRun 0xD (fun s =>
  if s.mode = .bringup ∨ s.mode = .sleep then (2, 0, s) else (0, 0, updM (fun m => { m with scrub := 0, scrubFast := true }) s)) s)

/-- RETCLR: the retirement records are cleared at the next start; not in LC_PROD and LC_END. -/
def execRetclr (s : State) : Out := .next (diagRun 0xE (fun s =>
  if lcState s = 2 ∨ lcState s = 4 then (2, 0, s) else (0, 0, updM (fun m => { m with retClr := true }) s)) s)

/-- SUBST: a spindle is declared failed; SUBSTITUTION follows. -/
def execSubst (data : BitVec 64) (s : State) : Out := .next (diagRun 0xF (fun s =>
  if s.mode = .bringup ∨ s.mode = .sleep then (2, 0, s)
  else (0, 0, updSk (data.extractLsb' 16 5) (fun x => { x with failed := setBit x.failed (bits data.toNat 0 4) true }) s)) s)

/-- SCRUB_LINE: the scrubber reads the next line: `ecc` the symbols that its DRAM code finds wrong, in the DIMM and rank `dev` of the channel. The cell
check of each cell is verified (R708). An uncorrectable line is poisoned. -/
def execScrubLine (ecc : List (BitVec 8 × BitVec 3)) (dev : BitVec 8) (s : State) : Out := .next (
  if s.mode = .bringup ∨ s.mode = .sleep ∨ s.dram = 0 then s
  else
    let ln := s.m.scrub % (s.dram / 8)
    let unit := 192 + chanOf ln
    let cells := (upto 8).map fun i => paOf (8 * ln + i)
    let arr (a : PAddr) : Nat := if arrTarget s a = 0 then weight (arrBits s a) else 0
    let f := dramAt s ln
    let code := dramEcc s.m.dimms.width (ecc ++ f.syms)
    let dev := if f.syms.isEmpty then dev else f.dev
    let s := dramFix ln s
    let bad := decide (code = some none) || cells.any (fun a => decide (1 < arr a) || (!mapGet false s.poisoned a.toNat && (verify (cellAt s a)).isNone))
    let s := match code with
      | some (some d) => dramError (chanOf ln) (dev ++ d) (logEvent 0x0B 0 36 unit none (some (8 * ln)) 0 (clearRes ln none s))
      | _ => s
    let s :=
      if bad then
        logEvent 0x0C 3 36 unit none (some (8 * ln)) 0
          { s with poisoned := cells.foldl (fun m a => mapSet false m a.toNat true) s.poisoned }
      else cells.foldl (fun s a =>
        let s := if arr a = 1 then
            logEvent 0x0B 0 36 unit none (some a.toNat) 0 (clearRes ln none { s with arrErr := mapSet 0 s.arrErr a.toNat 0 })
          else s
        match verify (cellAt s a) with
        | some (v, true) =>
          logEvent 0x0B 0 36 unit none (some a.toNat) (syndrome (cellAt s a)).toNat (clearRes ln none (putRaw a v s))
        | _ => s) s
    let last := decide (ln + 1 ≥ s.dram / 8)
    updM (fun m => { m with scrub := if last then 0 else ln + 1, scrubFast := m.scrubFast && !last }) s)

end Sys2Proof.Machine
end

