-- ==== Sys2Proof/Machine/HostCmds.lean ====
section
/-! DEFINITION. Host commands: table bases, register reads and writes on every port, the aperture, and the state of the host link
(R7, R45, R318, R321, R476, R485, R556, R576 to R592, R722). -/

namespace Sys2Proof.Machine

/-! ## Table bases -/

/-- ANNEXBASE_WRITE. -/
def execAnnexbaseWrite (v : BitVec 64) (s : State) : Out := .next (hostWr (annexbaseSet v) s)

/-- XFRAME_WRITE: the frame table of L1 to L3, or of the double fault (`n` = 3). -/
def execXframeWrite (n : BitVec 2) (v : BitVec 64) (s : State) : Out := .next (hostWr (xframeSet (n.toNat + 1) v) s)

/-- COLBASE_WRITE. -/
def execColbaseWrite (v : BitVec 64) (s : State) : Out := .next (hostWr (colbaseSet v) s)

/-- HFPBASE_WRITE. -/
def execHfpbaseWrite (v : BitVec 64) (s : State) : Out := .next (hostWr (hfpbaseSet v) s)

/-! ## Registers (R7, R580) -/

/-- A write of a mailbox register (R675). -/
def bar2Write (off : Nat) (v : BitVec 64) (s : State) : State :=
  if !mailboxUp s then s
  else if off = 8 then (if v.getLsbD 0 then mailboxGo true s else s)
  else updHost (fun h => { h with mbox := mbWrite h.mbox off v }) s

/-- A write of a doorbell-page register (R562). -/
def bar4Write (off : Nat) (v : BitVec 64) (s : State) : State :=
  let h : BitVec 6 := BitVec.ofNat 6 (off / 0x1000)
  match off % 0x1000 with
  | 0x00 => sqtailWrite h v s
  | 0x08 => cqheadWrite h v s
  | 0x10 => pageCtx h v (fun c s => ringDoorbell c (hear hostSector c s)) s
  | 0x18 => pageCtx h v (fun c s => raiseIrq c 2 (hear hostSector c s)) s
  | _ => s

/-- The MSI-X control of configuration space: enable and function mask. -/
def msixCtl (v : BitVec 64) (s : State) : State :=
  msixFlush (updHost (fun h => { h with msixEn := v.getLsbD 15, msixMask := v.getLsbD 14 }) s)

/-- The power state of configuration space: a return from D3hot resets the link's domain. -/
def powerCtl (v : BitVec 64) (s : State) : State :=
  if bits v.toNat 0 2 = 3 then updHost (fun h => { h with d3 := true }) s
  else if s.host.d3 then linkReset s else s

/-- Configuration requests are served: the link is in DL_Active. -/
def cfgUp (s : State) : Bool := decide (s.host.link = .active) && !s.host.perst

/-- A control-register write of a context that the register's write level lets through; one that the hank grants refuse raises its fault (R82, R365,
R380, R554). -/
def crPort (c : CtxId) (n : Nat) (v : Datum) (s : State) : State :=
  let x := getCtx s c
  match crLevels n with
  | some (_, w) => if x.level.toNat < w then s else grantWrite c n v s
  | none => s

/-- Bus Master Enable (R584). -/
def busMaster (v : Bool) (s : State) : State := if cfgUp s then hostResume (msixFlush (updHost (fun h => { h with bme := v }) s)) else s

/-! ## Configuration space (R576 to R578, R582; the places of its registers: PRESUMED, log 188) -/

/-- The size of a BAR in bytes; 0 for one the device has not (R578). -/
def barSize (n : Nat) : Nat := if n = 0 then 0x400000 else if n = 2 then 0x10000 else if n = 4 then 0x40000 else 0

/-- The base that a 64-bit BAR holds: the bits above its size. -/
def barBase (n : Nat) (v : BitVec 64) : BitVec 64 := BitVec.ofNat 64 (v.toNat / barSize n * barSize n)

/-- A BAR register, low or high word: 64-bit memory, not prefetchable (R578). -/
def barWord (h : HostIf) (i : Nat) : Nat :=
  let v := mapGet 0 h.bars (i / 2 * 2)
  if i % 2 = 0 then (if barSize i = 0 then 0 else bits v.toNat 0 32 + 4) else bits v.toNat 32 32

/-- Completion Timeout Ranges Supported: A, B and C (R582). -/
def ctoRanges : BitVec 4 := 0b0111

/-- A 4-byte word of configuration space: the type 0 header, Power Management, MSI-X, PCI Express with FLIT mode, AER, and Device 3 with
14-bit tags. What R576 calls not supported has no capability, or reads 0: MSI, INTx, SR-IOV, ATS, PRI, PASID, Function Level Reset, L0s, Completion
Timeout Disable. -/
def cfgWord (s : State) (off : Nat) : Nat :=
  let h := s.host
  match off with
  | 0x00 => 0x54801F5D
  | 0x04 => 2 ^ 20 + (if h.bme then 4 else 0)
  | 0x08 => 0x120000B0
  | 0x10 => barWord h 0
  | 0x14 => barWord h 1
  | 0x18 => barWord h 2
  | 0x1C => barWord h 3
  | 0x20 => barWord h 4
  | 0x24 => barWord h 5
  | 0x2C => h.ssvid.toNat + 2 ^ 16 * h.ssid.toNat
  | 0x34 => 0x40
  | 0x40 => 0x00035001
  | 0x44 => if h.d3 then 3 else 0
  | 0x50 => 0x07FF6011 + (if h.msixMask then 2 ^ 30 else 0) + (if h.msixEn then 2 ^ 31 else 0)
  | 0x54 => 0x20000
  | 0x58 => 0x28000
  | 0x60 => 0x80020010
  | 0x64 => 0x8022
  | 0x68 => 2 ^ 5 * h.mps.toNat + 2 ^ 12 * h.mrrs.toNat
  | 0x6C => 6 + 2 ^ 4 * 16 + 2 ^ 10 * 2
  | 0x84 => ctoRanges.toNat + 3 * 2 ^ 16
  | 0x88 => h.cto.toNat
  | 0x8C => 0x7E
  | 0x100 => 0x15020001
  | 0x150 => 0x0001002F
  | 0x154 => 0x6
  | _ => 0

/-- A configuration write of a 4-byte word (R576, R578, R582, R584). -/
def cfgWrite (off : Nat) (w : BitVec 32) (s : State) : State :=
  let v : BitVec 64 := w.setWidth 64
  if !cfgUp s then s
  else match off with
  | 0x04 => busMaster (w.getLsbD 2) s
  | 0x10 | 0x18 | 0x20 =>
    let n := (off - 0x10) / 4
    updHost (fun h => { h with bars := mapSet 0 h.bars n (barBase n ((mapGet 0 h.bars n).extractLsb' 32 32 ++ w)) }) s
  | 0x14 | 0x1C | 0x24 =>
    let n := (off - 0x14) / 4
    updHost (fun h => { h with bars := mapSet 0 h.bars n (w ++ (mapGet 0 h.bars n).extractLsb' 0 32) }) s
  | 0x44 => powerCtl v s
  | 0x50 => msixCtl (v >>> 16) s
  | 0x68 => updHost (fun h => { h with mps := w.extractLsb' 5 3, mrrs := w.extractLsb' 12 3 }) s
  | 0x88 => updHost (fun h => { h with cto := w.extractLsb' 0 4 }) s
  | _ => s

/-- A host write of 8 bytes to BAR0. -/
def bar0Reg (off : Nat) (v : BitVec 64) (s : State) : State :=
  if 0x9890 ≤ off ∧ off < 0x98A0 then logEvent 0x16 4 37 0 none none 0 s else bar0Write off v s

/-- REGISTER_WRITE: a register on one of its ports. A write of 8 bytes to the reply register is none of its own: it is discarded and counted (R591). -/
def execRegisterWrite (p : RegPath) (v : BitVec 64) (s : State) : Out := .next (
  match p with
  | .bar0 off => if off.toNat % 8 = 0 ∧ off.toNat < 0x200000 then hostWr (bar0Reg off.toNat v) s else s
  | .bar2 off => if off.toNat % 8 = 0 then bar2Write off.toNat v s else s
  | .cr c n => crPort c n.toNat (v.extractLsb' 0 48) s
  | .device c a => if s.mode = .sleep ∨ (getCtx s c).st = .free then s else deviceStore c a v s
  | .cfgTimeout => if cfgUp s then updHost (fun h => { h with cto := v.extractLsb' 0 4 }) s else s
  | .cfgMsix => if cfgUp s then msixCtl v s else s
  | .cfgPower => if cfgUp s then powerCtl v s else s
  | .cfg off => cfgWrite (off.toNat / 4 * 4) (v.extractLsb' 0 32) s)

/-- Read n bytes of BAR0 registers. -/
def bar0Read (off n : Nat) (s : State) : State :=
  hostDo .aborted (fun s => updHost (fun h => { h with ans := .data (bytesOf (bar0Get s) off n) }) (bar0Touch off n s)) s

/-- RC_READ: a host read of an 8-byte register of BAR0. -/
def execRcRead (off : BitVec 22) (s : State) : Out := .next (if off.toNat < 0x200000 then bar0Read (off.toNat / 8 * 8) 8 s else s)

/-- A 4-byte write of an MSI-X table entry. -/
def msixHalf (off : Nat) (v : BitVec 64) (s : State) : State :=
  let i := (off - 0x20000) / 8
  let old := msixWord s.host i
  let w : BitVec 64 := if off % 8 = 0 then old.extractLsb' 32 32 ++ v.extractLsb' 0 32 else v.extractLsb' 0 32 ++ old.extractLsb' 0 32
  bar0Write (off / 8 * 8) w s

/-- A host write to BAR0 of any size: registers take whole aligned 8-byte writes, the MSI-X table halves too, and EXTREPLY counts what it
discards (R142, R580, R591). -/
def bar0Any (off n v : Nat) (s : State) : State :=
  let w : BitVec 64 := BitVec.ofNat 64 v
  if off < 0x98A0 ∧ 0x9890 < off + n then
    if off = 0x9890 ∧ n = 16 then extReply (BitVec.ofNat 32 (bits v 64 32)) (BitVec.ofNat 16 (bits v 96 16)) (BitVec.ofNat 8 (bits v 112 8)) w s
    else logEvent 0x16 4 37 0 none none 0 s
  else if n = 8 ∧ off % 8 = 0 then bar0Write off w s
  else if n = 4 ∧ off % 4 = 0 ∧ 0x20000 ≤ off ∧ off < 0x28000 then msixHalf off w s
  else s

/-- What a read of `n` bytes of registers returns (R580). -/
def regAns (get : Nat → BitVec 64) (off n : Nat) : HostAns :=
  if n ≤ 8 then .data (bytesOf get off n) else .cells ((upto n).map fun i => (bytesOf get (off + i) 1).setWidth 8) false

/-- HOST_REGISTER_ACCESS: a host read or write of `n` bytes of BAR0, BAR2 or BAR4, defined register or not (R579, R580), or, as BAR 7, of
configuration space, by aligned 4-byte words (R576). -/
def execHostRegisterAccess (bar : BitVec 3) (off : BitVec 22) (n : Nat) (write : Bool) (v : Nat) (s : State) : Out := .next (
  let o := off.toNat
  let w : BitVec 64 := BitVec.ofNat 64 v
  if bar = 0 then
    if o ≥ 0x200000 then
      (if write then hostWr (apertureWrite (o - 0x200000) (leBytes n v)) s else hostDo .aborted (apertureRead (o - 0x200000) n) s)
    else if write then hostWr (bar0Any o n v) s
    else hostDo .aborted (fun s => updHost (fun h => { h with ans := regAns (bar0Get s) o n }) (bar0Touch o n s)) s
  else if bar = 2 then
    if !mailboxUp s then s
    else if write then (if n = 8 ∧ o % 8 = 0 then bar2Write o w s else s)
    else updHost (fun h => { h with ans := regAns (mbRead h.mbox) o n }) s
  else if bar = 4 ∧ o < 0x40000 then
    if write then hostWr (fun s => if n = 8 ∧ o % 8 = 0 then bar4Write o w s else s) s
    else hostDo .aborted (fun s => updHost (fun h =>
      { h with ans := regAns (fun a => pageRead s (getHank s (BitVec.ofNat 6 (a / 0x1000))) (a % 0x1000)) o n }) s) s
  else if bar = 7 ∧ o % 4 = 0 ∧ n = 4 ∧ cfgUp s then
    if write then cfgWrite o (w.extractLsb' 0 32) s else updHost (fun h => { h with ans := .data (BitVec.ofNat 64 (cfgWord s o)) }) s
  else s)

/-! ## The DRAM aperture -/

/-- APERTURE_READ of n bytes. -/
def execApertureRead (x : BitVec 21) (n : Nat) (s : State) : Out := .next (
  hostDo .aborted (apertureRead x.toNat (min n (0x200000 - x.toNat))) s)

/-- APERTURE_WRITE. -/
def execApertureWrite (x : BitVec 21) (data : List (BitVec 8)) (s : State) : Out := .next (
  hostWr (apertureWrite x.toNat (data.take (0x200000 - x.toNat))) s)

/-! ## The state of the link (R476, R583, R584, R722) -/

/-- PERST_N: asserted, the link's domain is reset (R583). -/
def execPerstN (high : Bool) (s : State) : Out := .next (
  if high then updHost (fun h => { h with perst := false }) s else updHost (fun h => { h with perst := true }) (linkReset (updHost (fun h => { h with perst := true }) s)))

/-- HOT_RESET. -/
def execHotReset (s : State) : Out := .next (linkReset s)

/-- D3HOT_TO_D0. -/
def execD3hotToD0 (s : State) : Out := .next (linkReset s)

/-- LINK_TRAINING: once step 4 has ended and PERST_N is high, the link reaches DL_Active; the Subsystem IDs are those of the dictionary at
this start of the link's domain (R662, R722). -/
def execLinkTraining (s : State) : Out := .next (
  if s.host.perst ∨ (s.mode = .bringup ∧ s.m.step ≤ 4) then s
  else
    let s := if s.host.trained then s
      else updHost (fun h => { h with ssvid := (objGet s 0x1E00 3).setWidth 16, ssid := (objGet s 0x1E00 4).setWidth 16 }) s
    hostResume (updHost (fun h => { h with link := .active, trained := true }) s))

/-- LINK_DOWN: HOST targets are dead; requests that wait end (R476). -/
def execLinkDown (s : State) : Out := .next (hostResume (updHost (fun h => { h with link := .down }) s))

/-- LINK_RECOVERY: entered from DL_Active, HOST requests are held until it is left (R476). -/
def execLinkRecovery (enter : Bool) (s : State) : Out := .next (
  if enter then (if s.host.link = .active then updHost (fun h => { h with link := .recovery }) s else s)
  else if s.host.link = .recovery then hostResume (updHost (fun h => { h with link := .active }) s) else s)

/-- BUS_MASTER_ENABLE (R584). -/
def execBusMasterEnable (v : Bool) (s : State) : Out := .next (busMaster v s)

end Sys2Proof.Machine
end

