-- ==== Sys2Proof/Machine/MemInstr.lean ====
section
/-! DEFINITION. Loads, stores, atomics, list, vector and symbol access, allocation (R180 to R194, R448, R467 to R470). -/

namespace Sys2Proof.Machine

/-! ## LD, ST, LR, SC, TAS -/

/-- LD (R180). With a RAW address it passes no barrier (R525). -/
def execLd (h : Hd) (f : FM) (s : State) : Out := issueOut h (encM 0x18 0 h f) (do
  let b ← xAdr h.ctx f.adr
  let a ← xEa h.ctx (cDat b) (dispInt f.disp) .read
  xMemOp h.ctx (encM 0x18 0 h f) (if cTyp b = tRAW then .ldRaw a f.data else .load a f.data false)) s

/-- ST (R451). The stored cell is not checked (R47). With a RAW address it passes no barrier (R525). -/
def execSt (h : Hd) (f : FM) (s : State) : Out := issueOut h (encM 0x19 0 h f) (do
  let b ← xAdr h.ctx f.adr
  let a ← xEa h.ctx (cDat b) (dispInt f.disp) .write
  let v ← wRead h.ctx f.data
  xMemOp h.ctx (encM 0x19 0 h f) (if cTyp b = tRAW then .stRaw a v else .store a v)) s

/-- LR (R467). -/
def execLr (h : Hd) (f : FMA) (s : State) : Out := issueOut h (encMA 0 h f) (do
  let a ← xDispAdr h.ctx f.adr f.disp .read
  xMemOp h.ctx (encMA 0 h f) (.load a f.data true)) s

/-- SC (R469). -/
def execSc (h : Hd) (f : FMA) (s : State) : Out := issueOut h (encMA 1 h f) (do
  let a ← xDispAdr h.ctx f.adr f.disp .rw
  let v ← wRead h.ctx f.data
  xMemOp h.ctx (encMA 1 h f) (.sc a v f.pd)) s

/-- TAS (R470). -/
def execTas (h : Hd) (f : FMA) (s : State) : Out := issueOut h (encMA 2 h f) (do
  let a ← xDispAdr h.ctx f.adr f.disp .rw
  xMemOp h.ctx (encMA 2 h f) (.tas a f.data)) s

/-! ## Lists and objects (R181 to R184) -/

/-- An object operand of one of the given classes; EXTP raises the dispatch trap unless accepted (R180). `tb` is SB's type code. -/
def chkObject (o : Cell) (ok : List (BitVec 6)) (tb : BitVec 6) : X Unit :=
  if ok.contains (cTyp o) then pure ()
  else if cTyp o = tEXTP then dispTrap 0 (cTyp o) tb
  else typeFault (cTyp o) tb

/-- SA as an object, with an SB that is only copied (R47): SB is read for its register check and its type code. -/
def xObjCopy (c : CtxId) (ra rb : BitVec 5) (ok : List (BitVec 6)) : X (Cell × Cell) := do
  let a ← wRead c ra
  let b ← wRead c rb
  chkUnset a 0
  if badCell a then typeFault (cTyp a) (cTyp b)
  chkObject a ok (cTyp b)
  pure (a, b)

/-- The address of a CONS, which must be even (R59). -/
def xConsAdr (o : Cell) : X Unit := if (cDat o).getLsbD 0 then xFault 0x13 (cDat o) else pure ()

/-- CAR and CDR (R181). -/
def xCarCdr (h : Hd) (f : FA) (enc : BitVec 48) (d : Nat) : X Adv := do
  let a ← xOne h.ctx f.sa
  if isNil a then do
    landW h.ctx 4 f.dst nilCell
    pure .seq
  else do
    chkObject a [tCONS] 0
    xConsAdr a
    let va ← xEa h.ctx (cDat a) d .read
    xMemOp h.ctx enc (.load va f.dst false)

/-- CAR. -/
def execCar (h : Hd) (f : FA) (s : State) : Out := issueOut h (encA 0x1C 0x00 h f) (xCarCdr h f (encA 0x1C 0x00 h f) 0) s
/-- CDR. -/
def execCdr (h : Hd) (f : FA) (s : State) : Out := issueOut h (encA 0x1C 0x01 h f) (xCarCdr h f (encA 0x1C 0x01 h f) 1) s

/-- SETCAR and SETCDR (R181). -/
def xSetCarCdr (h : Hd) (f : FA) (enc : BitVec 48) (d : Nat) : X Adv := do
  let r ← xObjCopy h.ctx f.sa f.sb [tCONS]
  xConsAdr r.1
  let va ← xEa h.ctx (cDat r.1) d .write
  xMemOp h.ctx enc (.store va r.2)

/-- SETCAR. -/
def execSetcar (h : Hd) (f : FA) (s : State) : Out := issueOut h (encA 0x1C 0x02 h f) (xSetCarCdr h f (encA 0x1C 0x02 h f) 0) s
/-- SETCDR. -/
def execSetcdr (h : Hd) (f : FA) (s : State) : Out := issueOut h (encA 0x1C 0x03 h f) (xSetCarCdr h f (encA 0x1C 0x03 h f) 1) s

/-- The operands of VREF and VSET (R182). -/
def xVecOps (c : CtxId) (f : FA) : X (Cell × Cell) := do
  let r ← xTwo c f.sa f.sb
  if cTyp r.2 ≠ tFIX ∧ cTyp r.1 ≠ tEXTP then typeFault (cTyp r.1) (cTyp r.2)
  chkObject r.1 [tVEC, tSYM, tFUNC, tINST, tFACT] (cTyp r.2)
  pure r

/-- VREF (R182). -/
def execVref (h : Hd) (f : FA) (s : State) : Out := issueOut h (encA 0x1D 0x00 h f) (do
  let r ← xVecOps h.ctx f
  xMemOp h.ctx (encA 0x1D 0x00 h f) (.vref r.1 r.2 f.dst)) s

/-- VSET (R182): stores the cell of the register in DST. -/
def execVset (h : Hd) (f : FA) (s : State) : Out := issueOut h (encA 0x1D 0x01 h f) (do
  let r ← xVecOps h.ctx f
  let v ← wRead h.ctx f.dst
  xMemOp h.ctx (encA 0x1D 0x01 h f) (.vset r.1 r.2 v)) s

/-- LDLOC (R184). -/
def execLdloc (h : Hd) (f : FA) (s : State) : Out := issueOut h (encA 0x1D 0x02 h f) (do
  let a ← xOne h.ctx f.sa
  chkObject a [tLOC] 0
  xMemOp h.ctx (encA 0x1D 0x02 h f) (.load (cDat a) f.dst false)) s

/-- STLOC (R184). -/
def execStloc (h : Hd) (f : FA) (s : State) : Out := issueOut h (encA 0x1D 0x03 h f) (do
  let r ← xObjCopy h.ctx f.sa f.sb [tLOC]
  xMemOp h.ctx (encA 0x1D 0x03 h f) (.store (cDat r.1) r.2)) s

/-- HLEN (R183): every headered class. -/
def execHlen (h : Hd) (f : FA) (s : State) : Out := issueOut h (encA 0x1D 0x04 h f) (do
  let a ← xOne h.ctx f.sa
  chkObject a [tSYM, tVEC, tSTR, tBVEC, tBIG, tF64, tFUNC, tCODE, tINST, tFACT, tEXTP] 0
  xMemOp h.ctx (encA 0x1D 0x04 h f) (.hlen a f.dst)) s

/-- SYMVAL and SYMFN (R183). -/
def xSymRead (h : Hd) (f : FA) (enc : BitVec 48) (off : Nat) : X Adv := do
  let a ← xOne h.ctx f.sa
  chkObject a [tSYM] 0
  xMemOp h.ctx enc (.sym a off f.dst)

/-- SYMVAL. -/
def execSymval (h : Hd) (f : FA) (s : State) : Out := issueOut h (encA 0x1D 0x05 h f) (xSymRead h f (encA 0x1D 0x05 h f) 2) s
/-- SYMFN. -/
def execSymfn (h : Hd) (f : FA) (s : State) : Out := issueOut h (encA 0x1D 0x06 h f) (xSymRead h f (encA 0x1D 0x06 h f) 3) s

/-- SETSYMVAL (R183). -/
def execSetsymval (h : Hd) (f : FA) (s : State) : Out := issueOut h (encA 0x1D 0x07 h f) (do
  let r ← xObjCopy h.ctx f.sa f.sb [tSYM]
  xMemOp h.ctx (encA 0x1D 0x07 h f) (.setsym r.1 r.2)) s

/-! ## Allocation (R190 to R194) -/

/-- CONS: neither cell is interpreted. -/
def xCons (h : Hd) (f : FA) (enc : BitVec 48) (imm : Bool) : X Adv := do
  let a ← wRead h.ctx f.sa
  let b ← wRead h.ctx f.sb
  xMemOp h.ctx enc (.cons a b imm f.dst)

/-- CONS. -/
def execCons (h : Hd) (f : FA) (s : State) : Out := issueOut h (encA 0x1E 0x00 h f) (xCons h f (encA 0x1E 0x00 h f) false) s
/-- CONS.I (R56). -/
def execConsI (h : Hd) (f : FA) (s : State) : Out := issueOut h (encA 0x1E 0x80 h f) (xCons h f (encA 0x1E 0x80 h f) true) s

/-- The pointer types that ALLOC makes (R190). -/
def allocType (d : Datum) : Bool := decide ((0x21 ≤ d.toNat ∧ d.toNat ≤ 0x29) ∨ d.toNat = 0x2C ∨ d.toNat = 0x2D)

/-- ALLOC. -/
def xAllocIssue (h : Hd) (f : FA) (enc : BitVec 48) (imm : Bool) : X Adv := do
  let r ← xTwo h.ctx f.sa f.sb
  if cTyp r.1 ≠ tHDR ∨ cTyp r.2 ≠ tFIX ∨ allocType (cDat r.2) = false then typeFault (cTyp r.1) (cTyp r.2)
  if hdrLen r.1 > 65535 then xFault 0x15 (dat (hdrLen r.1))
  xMemOp h.ctx enc (.alloc r.1 r.2 imm f.dst)

/-- ALLOC. -/
def execAlloc (h : Hd) (f : FA) (s : State) : Out := issueOut h (encA 0x1E 0x01 h f) (xAllocIssue h f (encA 0x1E 0x01 h f) false) s
/-- ALLOC.I (R56). -/
def execAllocI (h : Hd) (f : FA) (s : State) : Out := issueOut h (encA 0x1E 0x81 h f) (xAllocIssue h f (encA 0x1E 0x81 h f) true) s

end Sys2Proof.Machine
end

