-- ==== Sys2Proof/Machine/Package.lean ====
section
/-! DEFINITION. What the device shows of itself to the link and the test port, and the balls of its package (R577, R599, R600, R605 to R609). -/

namespace Sys2Proof.Machine

/-! ## The configuration header (R577) -/

/-- The identity in the configuration header. -/
structure CfgHeader where
  vendor : BitVec 16
  device : BitVec 16
  revision : BitVec 8
  classCode : BitVec 24
  subVendor : BitVec 16
  subId : BitVec 16
deriving DecidableEq, Repr

/-- The header a configuration read sees; the subsystem fields are those of the identity objects (R577). -/
def cfgHeader (s : State) : CfgHeader :=
  { vendor := 0x1F5D, device := 0x5480, revision := 0xB0, classCode := 0x120000, subVendor := s.host.ssvid, subId := s.host.ssid }

/-! ## The test port (R599, R600) -/

/-- The data registers of the TAP. -/
inductive TapReg where
  | idcode | boundary | bypass | transport
deriving DecidableEq, Repr

/-- The IDCODE, and what the instruction register captures. -/
def tapIdcode : BitVec 32 := 0x15480B6B
def tapCapture : BitVec 8 := 1

/-- The data register an instruction selects. -/
def tapSelect (code : BitVec 8) : TapReg :=
  if code = 0x01 then .idcode
  else if code = 0x02 ∨ code = 0x03 then .boundary
  else if code = 0x10 then .transport
  else .bypass

/-- A pin, by the name of its signal. -/
inductive Pin where
  | cap (n : Nat) | cmpo (n : Nat) | canTxd | canRxd | canStby
  | tck | tms | tdi | tdo | trstN
  | ref25In | xo32In | xo32Out | perstN | resetN | thermtripN | alertN
  | spdScl (n : Nat) | spdSda (n : Nat)
  | vio33Out | vsense | vio10Out | testEn | dramResetN (ch : Nat)
deriving DecidableEq, Repr

/-- The low-speed strip: index j along row 51, then row 50, then row 49; the last six are ground (R608). -/
def lowStrip : List Pin :=
  (upto 8).map Pin.cap ++ (upto 4).map Pin.cmpo ++ [.canTxd, .canRxd, .canStby] ++
  [.tck, .tms, .tdi, .tdo, .trstN, .ref25In, .xo32In, .xo32Out, .perstN, .resetN, .thermtripN, .alertN] ++
  ((upto 4).map fun n => [Pin.spdScl n, .spdSda n]).flatten ++ [.vio33Out, .vsense, .vio10Out, .testEn]

/-- A cell of the boundary register: input, output or enable. -/
inductive ScanCell where
  | inp | out | en
deriving DecidableEq, Repr

/-- The cells of a pin, in their order; clocks, TAP pins and supplies have none (R600). -/
def scanCells (p : Pin) : List ScanCell :=
  match p with
  | .cap _ | .canRxd | .perstN | .resetN | .testEn => [.inp]
  | .spdScl _ | .spdSda _ => [.inp, .out, .en]
  | .cmpo _ | .canTxd | .canStby | .thermtripN | .alertN | .dramResetN _ => [.out, .en]
  | _ => []

/-- The boundary register from bit 0, nearest TDO: the strip in its order, then DRAM_RESET_N of channels 0 to 11 (R600). -/
def boundaryReg : List (Pin × ScanCell) :=
  ((lowStrip ++ (upto 12).map Pin.dramResetN).map fun (p : Pin) => (scanCells p).map fun c => (p, c)).flatten

/-- EXTEST, CLAMP and HIGHZ act: BRINGUP (from step 3) or HALT, at level FULL or above, not in LC_END; otherwise as BYPASS. -/
def scanActs (s : State) : Bool :=
  (decide (s.mode = .halt) || (decide (s.mode = .bringup) && decide (s.m.step ≥ 3))) && decide (s.m.dbg.level.toNat ≥ 2) && decide (lcState s ≠ 4)

/-- The TAP answers: not at start-up step 1. -/
def tapUp (s : State) : Bool := decide (s.mode ≠ .bringup) || decide (s.m.step ≠ 1)

/-- Load a TAP instruction. -/
def tapIr (code : BitVec 8) (s : State) : State := if tapUp s then updM (fun m => { m with tap := { m.tap with ir := code } }) s else s

/-- The level that the device gives an output pin, and that an input cell takes from its pin (R598, R600): CAN_TXD is recessive between frames and without
the reference. What drives CAN_RXD and the SPD lines from
outside is no part of the state: a free value. -/
def coreLevel (s : State) (p : Pin) : Option Bool :=
  match p with
  | .cap n => some (s.m.capPins.getLsbD n)
  | .perstN => some (!s.host.perst)
  | .resetN => some s.m.resetN
  | .testEn => some s.m.testEn
  | .cmpo n => some (s.cmpo.getLsbD n)
  | .canTxd => some true
  | .canStby => some (decide (s.m.nmt = .off) || !refRuns s)
  | .thermtripN => some (!s.m.pwr.thermtrip)
  | .alertN => some (!alertN s)
  | .dramResetN _ => some (!s.m.pwr.dramReset)
  | _ => none

/-- What SAMPLE and EXTEST capture (R599, R600): input cells the pins' levels, output and enable cells what the device drives. -/
def scanCapture (s : State) : BitVec 76 :=
  boundaryReg.zipIdx.foldl (fun v e =>
    let l := coreLevel s e.1.1
    setBit v e.2 (match e.1.2 with
      | .en => l.isSome
      | _ => l.getD (Config.outerLevel s.fresh e.2))) 0

/-- EXTEST captures the pins and drives the value shifted in; where it may not act it acts as BYPASS and leaves the boundary register. SAMPLE/PRELOAD
captures in every mode and preloads; any other code is loaded as it is. -/
def execExtest (v : TapLoad) (s : State) : Out := .next (
  if !tapUp s then s
  else match v with
    | .extest v =>
      if scanActs s then updM (fun m => { m with tap := { ir := 0x03, bsr := v, out := scanCapture s } }) s else tapIr 0x03 s
    | .preload v => updM (fun m => { m with tap := { ir := 0x02, bsr := v, out := scanCapture s } }) s
    | .code c => tapIr c s)

/-- CLAMP. -/
def execClamp (s : State) : Out := .next (tapIr 0x04 s)

/-- HIGHZ. -/
def execHighz (s : State) : Out := .next (tapIr 0x05 s)

/-- TEST_LOGIC_RESET: IDCODE is selected; a session keeps its level. -/
def execTestLogicReset (s : State) : Out := .next (tapIr 0x01 s)

/-- The level of an output pin: `cell` its output cell in the boundary register, the enable cell after it, `own` the device's own level;
none while it floats. -/
def pinDrive (s : State) (cell : Nat) (own : Option Bool) : Option Bool :=
  let t := s.m.tap
  if !scanActs s then own
  else if t.ir = 0x05 then none
  else if t.ir = 0x03 ∨ t.ir = 0x04 then (if t.bsr.getLsbD (cell + 1) then some (t.bsr.getLsbD cell) else none)
  else own

/-- The level of an output pin that the device itself drives. -/
def pinLevel (s : State) (cell : Nat) (own : Bool) : Option Bool := pinDrive s cell (some own)

/-- The output pins (R600, R608): CMPO0 to CMPO3, CAN_TXD, CAN_STBY, THERMTRIP_N, ALERT_N, the SPD lines, which float between the transfers of
training, DRAM_RESET_N of a channel. -/
def pinCmpo (s : State) (n : Nat) : Option Bool := pinDrive s (8 + 2 * n) (coreLevel s (.cmpo n))
def pinCanTxd (s : State) : Option Bool := pinDrive s 16 (coreLevel s .canTxd)
def pinCanStby (s : State) : Option Bool := pinDrive s 19 (coreLevel s .canStby)
def pinThermtripN (s : State) : Option Bool := pinDrive s 23 (coreLevel s .thermtripN)
def pinAlertN (s : State) : Option Bool := pinDrive s 25 (coreLevel s .alertN)
def pinSpd (s : State) (line : Nat) : Option Bool := pinDrive s (28 + 3 * line) none
def pinDramResetN (s : State) (ch : Nat) : Option Bool := pinDrive s (52 + 2 * ch) (coreLevel s (.dramResetN ch))

/-- The data register in force: EXTEST acts as BYPASS where the boundary scan may not act. -/
def tapDr (s : State) : TapReg :=
  if s.m.tap.ir = 0x03 ∧ !scanActs s then .bypass else tapSelect s.m.tap.ir

/-! ## The balls (R605 to R609) -/

/-- A signal of a DDR5 subchannel (R606). -/
inductive DdrSig where
  | dq (n : Nat) | cb (n : Nat) | dqs (n : Nat) (compl : Bool) | ca (n : Nat) | par | csN (n : Nat) | ck (n : Nat) (compl : Bool) | alertN
deriving DecidableEq, Repr

/-- What a ball carries. `ddr c b`: subchannel A (`false`) or B of channel c. -/
inductive Ball where
  | vin | gnd
  | ddr (c : Nat) (b : Bool) (g : DdrSig)
  | low (p : Pin)
  | pet (lane : Nat) (neg : Bool) | per (lane : Nat) (neg : Bool) | refclk (neg : Bool)
deriving DecidableEq, Repr

/-- The signal at an offset of a subchannel. -/
def ddrSig (o : Nat) : DdrSig :=
  if o < 32 then .dq o
  else if o < 40 then .cb (o - 32)
  else if o < 60 then .dqs ((o - 40) / 2) (decide (o % 2 = 1))
  else if o < 67 then .ca (o - 60)
  else if o = 67 then .par
  else if o < 72 then .csN (o - 68)
  else if o < 76 then .ck ((o - 72) / 2) (decide (o % 2 = 1))
  else .alertN

/-- Index i of the block of channel c. -/
def chanSig (c i : Nat) : Ball :=
  if i < 77 then .ddr c false (ddrSig i)
  else if i < 154 then .ddr c true (ddrSig (i - 77))
  else if i = 154 then .low (.dramResetN c)
  else .gnd

/-- Depth and position of an index, and the index there: consecutive indices are adjacent (R606). -/
def depthPos (i : Nat) : Nat × Nat := (i / 11, if i / 11 % 2 = 0 then i % 11 else 10 - i % 11)
def idxAt (d q : Nat) : Nat := 11 * d + if d % 2 = 0 then q else 10 - q

/-- Row and column of index i of channel c (R607). -/
def ballAt (c i : Nat) : Nat × Nat :=
  let d := (depthPos i).1
  let q := (depthPos i).2
  if c < 3 then (d + 1, 11 * c + 1 + q)
  else if c < 6 then (4 + 11 * (c - 3) + q, 51 - d)
  else if c < 9 then (51 - d, 51 - 11 * (c - 6) - q)
  else (48 - 11 * (c - 9) - q, d + 1)

/-- The strips of PCIe and of the low-speed pins (R608). -/
def txStrip (r col : Nat) : Ball :=
  if col = 34 then .pet (r - 1) false
  else if col = 35 then .pet (r - 1) true
  else if r = 1 then .pet 15 false
  else if r = 2 then .pet 15 true
  else if r = 3 then .refclk false
  else if r = 4 then .refclk true
  else .gnd
def rxStrip (r col : Nat) : Ball :=
  if r = 1 then .per (51 - col) false
  else if r = 2 then .per (51 - col) true
  else if col = 51 then .per 15 false
  else if col = 50 then .per 15 true
  else .gnd
def lowBall (r col : Nat) : Ball :=
  match lowStrip[15 * (51 - r) + (col - 1)]? with
  | some p => .low p
  | none => .gnd

/-- The ball at a row and a column from 1 to 51, by region (R605). -/
def ballOf (r col : Nat) : Ball :=
  if r ≤ 15 ∧ col ≤ 33 then chanSig ((col - 1) / 11) (idxAt (r - 1) ((col - 1) % 11))
  else if r ≤ 15 ∧ col ≤ 36 then txStrip r col
  else if r ≤ 36 ∧ 37 ≤ col then
    if r ≤ 3 then rxStrip r col else chanSig (3 + (r - 4) / 11) (idxAt (51 - col) ((r - 4) % 11))
  else if 37 ≤ r ∧ 16 ≤ col then
    if col ≤ 18 then .gnd else chanSig (6 + (51 - col) / 11) (idxAt (51 - r) ((51 - col) % 11))
  else if 16 ≤ r ∧ col ≤ 15 then
    if 49 ≤ r then lowBall r col else chanSig (9 + (48 - r) / 11) (idxAt (col - 1) ((48 - r) % 11))
  else if 22 ≤ r ∧ r ≤ 29 ∧ 21 ≤ col ∧ col ≤ 32 then .vin
  else .gnd

end Sys2Proof.Machine
end

