-- ==== Sys2Proof/Machine/System.lean ====
section
/-! DEFINITION. SVC, BKPT, ERET, barriers, waits, YIELD, SEND, and control-register reads and writes (R81 to R84, R292 to R303, R333,
R341 to R344, R457, R615). -/

namespace Sys2Proof.Machine

/-! ## Exceptions -/

/-- SVC (R333): INFO is SA's datum; the context resumes at the next instruction. -/
def execSvc (h : Hd) (f : FA) (s : State) : Out := issueOut h (encA 0x2C 0x00 h f) (do
  let a ← wRead h.ctx f.sa
  fun s => .error (.exc { code := 0x70, info := cDat a, next := true }) s) s

/-- BKPT (R333). -/
def execBkpt (h : Hd) (f : FA) (s : State) : Out := issueOut h (encA 0x2C 0x02 h f) (xFault 0x71) s

/-- ERET (R341 to R344). -/
def execEret (h : Hd) (f : FA) (s : State) : Out := issueOut h (encA 0x2C 0x01 h f) (do
  let a ← wRead h.ctx f.sa
  fun s => match eretRun h.ctx a s with
    | (.inl n, s) => .error (.exc { code := 0x07, info := dat n }) s
    | (.inr s, _) => .ok .stay s) s

/-! ## Barriers (R457) -/

/-- LBAR: every earlier load has been performed when it issues, but for tier-2 reads of the last slots: it holds issue until these are performed
(R458, R459). -/
def execLbar (h : Hd) (f : FA) (s : State) : Out := issueOut h (encA 0x2C 0x08 h f) (do
  xMod (bitsRead h.ctx fun _ => true)
  pure .seq) s

/-- SBAR: a marker in the store buffer. -/
def execSbar (h : Hd) (f : FA) (s : State) : Out := issueOut h (encA 0x2C 0x09 h f) (do
  xMod (updCtx h.ctx fun x => { x with sbars := x.sbars + 1, hostFirst := true })
  pure .seq) s

/-- FBAR. -/
def execFbar (h : Hd) (f : FA) (s : State) : Out := issueOut h (encA 0x2C 0x0A h f) (do
  xMod (updCtx h.ctx fun x => { x with hostFirst := true })
  xMemOp h.ctx (encA 0x2C 0x0A h f) .fbar) s

/-! ## Waits (R292 to R298) -/

/-- WAITB (R292): SB is w0 for no deadline, or a FIX deadline. -/
def execWaitb (h : Hd) (f : FA) (s : State) : Out := issueOut h (encA 0x2C 0x10 h f) (do
  let c := h.ctx
  let a ← wRead c f.sa
  let b ← wRead c f.sb
  let tb : BitVec 6 := if f.sb = 0 then 0 else cTyp b
  chkUnset a 0
  if f.sb ≠ 0 then chkUnset b 1
  if badCell a || (decide (f.sb ≠ 0) && badCell b) then typeFault (cTyp a) tb
  if cTyp a ≠ tBITREF ∨ brTier (cDat a) = 0 ∨ (f.sb ≠ 0 ∧ cTyp b ≠ tFIX) then typeFault (cTyp a) tb
  xMemOp c (encA 0x2C 0x10 h f) (.waitb a (if f.sb = 0 then none else some (cDat b)))) s

/-- WAITT (R295). -/
def execWaitt (h : Hd) (f : FA) (s : State) : Out := issueOut h (encA 0x2C 0x11 h f) (do
  let a ← xOne h.ctx f.sa
  if cTyp a ≠ tFIX then typeFault (cTyp a) 0
  xMod (updCtx h.ctx fun x => { x with wait := some { deadline := some (cDat a) }, wake := 0 })
  pure .seq) s

/-- YIELD (R298): the context is switched out, READY behind its peers, at its own PRIO again (R290); with an FP exception pending that is reported first (R348). -/
def execYield (h : Hd) (f : FA) (s : State) : Out := issueOut h (encA 0x2C 0x12 h f) (do
  let c := h.ctx
  let x ← xCtx c
  let s ← get
  if peerReady s (ctxSp x) x then
    if fpPending x then xMod (updCtx c fun x => { x with fpDue := true })
    else xMod fun s => makeReady c (offPly c s)
  pure .seq) s

/-- SA and SB with their register checks only. -/
def xRegs2 (c : CtxId) (ra rb : BitVec 5) : X (Cell × Cell) := do
  let a ← wRead c ra
  let b ← wRead c rb
  pure (a, b)

/-- SEND (R300): the message cell is not checked. One after an unacknowledged SEND, or after one that waits, makes the context WAITING until its turn. -/
def execSend (h : Hd) (f : FA) (s : State) : Out := issueOut h (encA 0x2C 0x13 h f) (do
  let c := h.ctx
  let r ← xRegs2 c f.sa f.sb
  chkUnset r.1 0
  if cTyp r.1 ≠ tFIX then typeFault (cTyp r.1) (cTyp r.2)
  if (cDat r.1).toInt < 0 ∨ (cDat r.1).toInt > 65535 then xFault 0x15 (cDat r.1)
  let dst : CtxId := (cDat r.1).extractLsb' 0 16
  let x ← xCtx c
  if x.sendst = 7 ∨ x.sendWait ≠ [] then do
    xMod (updCtx c fun x => { x with sendWait := x.sendWait ++ [(dst, r.2)], wait := some {} })
    pure .seq
  else xMemOp c (encA 0x2C 0x13 h f) (.send dst r.2)) s

/-! ## Control registers (R81 to R84) -/

/-- The register number and level checks (R81, R84); `rd` for a read. -/
def crCheck (c : CtxId) (n : Nat) (rd : Bool) : X Unit := do
  let x ← xCtx c
  match crLevels n with
  | none => xFault 0x06 (dat n)
  | some (r, w) => if x.level.toNat < (if rd then r else w) then xFault 0x05 (dat n)

/-- CRD of a register (R82). -/
def xCrd (c : CtxId) (dst : BitVec 5) (n : Nat) : X Adv := do
  crCheck c n true
  let s ← get
  landW c 2 dst (fixCell (crRead s c n))
  xMod (crReadEffect c n)
  pure .seq

/-- CRD. -/
def execCrd (h : Hd) (f : FC) (s : State) : Out := issueOut h (encC 0x28 h f) (xCrd h.ctx f.dst f.crn.toNat) s

/-- CWR (R83): lands at distance 3. SPACE and HPTCFG are checked against the hank's grant at the slot (R365, R380). -/
def execCwr (h : Hd) (f : FC) (s : State) : Out := issueOut h (encC 0x29 h f) (do
  let c := h.ctx
  let n := f.crn.toNat
  crCheck c n false
  let v ← wRead c f.sa
  if !fixRaw (cTyp v) then typeFault (cTyp v) 0
  let x ← xCtx c
  let s ← get
  match crGrant s x n (cDat v) with
  | some i => xFault 0x5C i
  | none => do
    land c 3 (.creg f.crn) (crCell n v)
    pure .seq) s

/-- A CRD of TB_LO (R615). -/
def execTbLoRead (h : Hd) (f : FC) (s : State) : Out :=
  issueOut h (encC 0x28 h { f with crn := 0x3C0 }) (xCrd h.ctx f.dst 0x3C0) s

end Sys2Proof.Machine
end

