-- ==== Sys2Proof/Machine/Dispatch.lean ====
section
/-! DEFINITION. The dispatcher: one arm per command, a direct call of its meaning. -/

namespace Sys2Proof.Machine

def exec (i : Instr) (s : State) : Host.Outcome State Fault Refusal :=
  match i with
  | .mov h f => Sys2Proof.Machine.execMov h f s
  | .and h f => Sys2Proof.Machine.execAnd h f s
  | .or h f => Sys2Proof.Machine.execOr h f s
  | .xor h f => Sys2Proof.Machine.execXor h f s
  | .andn h f => Sys2Proof.Machine.execAndn h f s
  | .not h f => Sys2Proof.Machine.execNot h f s
  | .shl h f => Sys2Proof.Machine.execShl h f s
  | .shr h f => Sys2Proof.Machine.execShr h f s
  | .sar h f => Sys2Proof.Machine.execSar h f s
  | .andi h f => Sys2Proof.Machine.execAndi h f s
  | .ori h f => Sys2Proof.Machine.execOri h f s
  | .xori h f => Sys2Proof.Machine.execXori h f s
  | .shli h f => Sys2Proof.Machine.execShli h f s
  | .shri h f => Sys2Proof.Machine.execShri h f s
  | .sari h f => Sys2Proof.Machine.execSari h f s
  | .typeof h f => Sys2Proof.Machine.execTypeof h f s
  | .colourof h f => Sys2Proof.Machine.execColourof h f s
  | .datumof h f => Sys2Proof.Machine.execDatumof h f s
  | .settype h f => Sys2Proof.Machine.execSettype h f s
  | .ldi h f => Sys2Proof.Machine.execLdi h f s
  | .ldih h f => Sys2Proof.Machine.execLdih h f s
  | .add h f => Sys2Proof.Machine.execAdd h f s
  | .sub h f => Sys2Proof.Machine.execSub h f s
  | .neg h f => Sys2Proof.Machine.execNeg h f s
  | .addi h f => Sys2Proof.Machine.execAddi h f s
  | .subi h f => Sys2Proof.Machine.execSubi h f s
  | .mul h f => Sys2Proof.Machine.execMul h f s
  | .mulh h f => Sys2Proof.Machine.execMulh h f s
  | .eq h f => Sys2Proof.Machine.execEq h f s
  | .eql h f => Sys2Proof.Machine.execEql h f s
  | .lt h f => Sys2Proof.Machine.execLt h f s
  | .le h f => Sys2Proof.Machine.execLe h f s
  | .gt h f => Sys2Proof.Machine.execGt h f s
  | .ge h f => Sys2Proof.Machine.execGe h f s
  | .cmpeq h f => Sys2Proof.Machine.execCmpeq h f s
  | .cmpne h f => Sys2Proof.Machine.execCmpne h f s
  | .cmpeql h f => Sys2Proof.Machine.execCmpeql h f s
  | .cmplt h f => Sys2Proof.Machine.execCmplt h f s
  | .cmple h f => Sys2Proof.Machine.execCmple h f s
  | .cmpgt h f => Sys2Proof.Machine.execCmpgt h f s
  | .cmpge h f => Sys2Proof.Machine.execCmpge h f s
  | .cmpeqi h f => Sys2Proof.Machine.execCmpeqi h f s
  | .cmpnei h f => Sys2Proof.Machine.execCmpnei h f s
  | .cmpeqli h f => Sys2Proof.Machine.execCmpeqli h f s
  | .cmplti h f => Sys2Proof.Machine.execCmplti h f s
  | .cmplei h f => Sys2Proof.Machine.execCmplei h f s
  | .cmpgti h f => Sys2Proof.Machine.execCmpgti h f s
  | .cmpgei h f => Sys2Proof.Machine.execCmpgei h f s
  | .ttype h f => Sys2Proof.Machine.execTtype h f s
  | .tptr h f => Sys2Proof.Machine.execTptr h f s
  | .timm h f => Sys2Proof.Machine.execTimm h f s
  | .tlist h f => Sys2Proof.Machine.execTlist h f s
  | .tnum h f => Sys2Proof.Machine.execTnum h f s
  | .pand h f => Sys2Proof.Machine.execPand h f s
  | .por h f => Sys2Proof.Machine.execPor h f s
  | .pxor h f => Sys2Proof.Machine.execPxor h f s
  | .pandn h f => Sys2Proof.Machine.execPandn h f s
  | .pnot h f => Sys2Proof.Machine.execPnot h f s
  | .pmov h f => Sys2Proof.Machine.execPmov h f s
  | .pflag h f => Sys2Proof.Machine.execPflag h f s
  | .bget h f => Sys2Proof.Machine.execBget h f s
  | .bput h f => Sys2Proof.Machine.execBput h f s
  | .bset h f => Sys2Proof.Machine.execBset h f s
  | .bclr h f => Sys2Proof.Machine.execBclr h f s
  | .btas h f => Sys2Proof.Machine.execBtas h f s
  | .ld h f => Sys2Proof.Machine.execLd h f s
  | .st h f => Sys2Proof.Machine.execSt h f s
  | .lr h f => Sys2Proof.Machine.execLr h f s
  | .sc h f => Sys2Proof.Machine.execSc h f s
  | .tas h f => Sys2Proof.Machine.execTas h f s
  | .car h f => Sys2Proof.Machine.execCar h f s
  | .cdr h f => Sys2Proof.Machine.execCdr h f s
  | .setcar h f => Sys2Proof.Machine.execSetcar h f s
  | .setcdr h f => Sys2Proof.Machine.execSetcdr h f s
  | .vref h f => Sys2Proof.Machine.execVref h f s
  | .vset h f => Sys2Proof.Machine.execVset h f s
  | .ldloc h f => Sys2Proof.Machine.execLdloc h f s
  | .stloc h f => Sys2Proof.Machine.execStloc h f s
  | .hlen h f => Sys2Proof.Machine.execHlen h f s
  | .symval h f => Sys2Proof.Machine.execSymval h f s
  | .symfn h f => Sys2Proof.Machine.execSymfn h f s
  | .setsymval h f => Sys2Proof.Machine.execSetsymval h f s
  | .cons h f => Sys2Proof.Machine.execCons h f s
  | .alloc h f => Sys2Proof.Machine.execAlloc h f s
  | .consI h f => Sys2Proof.Machine.execConsI h f s
  | .allocI h f => Sys2Proof.Machine.execAllocI h f s
  | .br h f => Sys2Proof.Machine.execBr h f s
  | .call h f => Sys2Proof.Machine.execCall h f s
  | .jr h f => Sys2Proof.Machine.execJr h f s
  | .callr h f => Sys2Proof.Machine.execCallr h f s
  | .ret h f => Sys2Proof.Machine.execRet h f s
  | .tcall h f => Sys2Proof.Machine.execTcall h f s
  | .fcall h f => Sys2Proof.Machine.execFcall h f s
  | .loop h f => Sys2Proof.Machine.execLoop h f s
  | .crd h f => Sys2Proof.Machine.execCrd h f s
  | .cwr h f => Sys2Proof.Machine.execCwr h f s
  | .tbLoRead h f => Sys2Proof.Machine.execTbLoRead h f s
  | .svc h f => Sys2Proof.Machine.execSvc h f s
  | .bkpt h f => Sys2Proof.Machine.execBkpt h f s
  | .eret h f => Sys2Proof.Machine.execEret h f s
  | .lbar h f => Sys2Proof.Machine.execLbar h f s
  | .sbar h f => Sys2Proof.Machine.execSbar h f s
  | .fbar h f => Sys2Proof.Machine.execFbar h f s
  | .waitb h f => Sys2Proof.Machine.execWaitb h f s
  | .waitt h f => Sys2Proof.Machine.execWaitt h f s
  | .yield h f => Sys2Proof.Machine.execYield h f s
  | .send h f => Sys2Proof.Machine.execSend h f s
  | .zline h f => Sys2Proof.Machine.execZline h f s
  | .clean h f => Sys2Proof.Machine.execClean h f s
  | .flush h f => Sys2Proof.Machine.execFlush h f s
  | .pref h f => Sys2Proof.Machine.execPref h f s
  | .inval h f => Sys2Proof.Machine.execInval h f s
  | .tlbw h f => Sys2Proof.Machine.execTlbw h f s
  | .tlbinv h f => Sys2Proof.Machine.execTlbinv h f s
  | .tlbinvs h f => Sys2Proof.Machine.execTlbinvs h f s
  | .tlblk h f => Sys2Proof.Machine.execTlblk h f s
  | .tlbrd h f => Sys2Proof.Machine.execTlbrd h f s
  | .fadd h f => Sys2Proof.Machine.execFadd h f s
  | .fsub h f => Sys2Proof.Machine.execFsub h f s
  | .fmul h f => Sys2Proof.Machine.execFmul h f s
  | .fdiv h f => Sys2Proof.Machine.execFdiv h f s
  | .fmin h f => Sys2Proof.Machine.execFmin h f s
  | .fmax h f => Sys2Proof.Machine.execFmax h f s
  | .fneg h f => Sys2Proof.Machine.execFneg h f s
  | .fabs h f => Sys2Proof.Machine.execFabs h f s
  | .fmov h f => Sys2Proof.Machine.execFmov h f s
  | .fsqrt h f => Sys2Proof.Machine.execFsqrt h f s
  | .fcmp h f => Sys2Proof.Machine.execFcmp h f s
  | .ffromw h f => Sys2Proof.Machine.execFfromw h f s
  | .ftof32 h f => Sys2Proof.Machine.execFtof32 h f s
  | .ftofix h f => Sys2Proof.Machine.execFtofix h f s
  | .quo h f => Sys2Proof.Machine.execQuo h f s
  | .rem h f => Sys2Proof.Machine.execRem h f s
  | .mod h f => Sys2Proof.Machine.execMod h f s
  | .memq h f => Sys2Proof.Machine.execMemq h f s
  | .assq h f => Sys2Proof.Machine.execAssq h f s
  | .memv h f => Sys2Proof.Machine.execMemv h f s
  | .length h f => Sys2Proof.Machine.execLength h f s
  | .typev h f => Sys2Proof.Machine.execTypev h f s
  | .cprobe h f => Sys2Proof.Machine.execCprobe h f s
  | .cins h f => Sys2Proof.Machine.execCins h f s
  | .cdel h f => Sys2Proof.Machine.execCdel h f s
  | .cscan h f => Sys2Proof.Machine.execCscan h f s
  | .rsub h f => Sys2Proof.Machine.execRsub h f s
  | .rstat h f => Sys2Proof.Machine.execRstat h f s
  | .extn h n f => Sys2Proof.Machine.execExtn h n f s
  | .extensionMessageSend c => Sys2Proof.Machine.execExtensionMessageSend c s
  | .extreply seq gen status v => Sys2Proof.Machine.execExtreply seq gen status v s
  | .extensionTimeout seq => Sys2Proof.Machine.execExtensionTimeout seq s
  | .exceptionEntry c => Sys2Proof.Machine.execExceptionEntry c s
  | .switchIn q => Sys2Proof.Machine.execSwitchIn q s
  | .plyPrepare q up => Sys2Proof.Machine.execPlyPrepare q up s
  | .parkingResult c => Sys2Proof.Machine.execParkingResult c s
  | .quantumExpiry q => Sys2Proof.Machine.execQuantumExpiry q s
  | .starvation c => Sys2Proof.Machine.execStarvation c s
  | .stealing q => Sys2Proof.Machine.execStealing q s
  | .deadlinePasses c => Sys2Proof.Machine.execDeadlinePasses c s
  | .migrationInstall c => Sys2Proof.Machine.execMigrationInstall c s
  | .thermalMigration c => Sys2Proof.Machine.execThermalMigration c s
  | .create m => Sys2Proof.Machine.execCreate m s
  | .destroy m => Sys2Proof.Machine.execDestroy m s
  | .suspend m => Sys2Proof.Machine.execSuspend m s
  | .resume m => Sys2Proof.Machine.execResume m s
  | .migrate m => Sys2Proof.Machine.execMigrate m s
  | .setprio m => Sys2Proof.Machine.execSetprio m s
  | .wake m => Sys2Proof.Machine.execWake m s
  | .query m => Sys2Proof.Machine.execQuery m s
  | .doorbell c => Sys2Proof.Machine.execDoorbell c s
  | .hirq c => Sys2Proof.Machine.execHirq c s
  | .ipisend c t => Sys2Proof.Machine.execIpisend c t s
  | .ipendWrite c v => Sys2Proof.Machine.execIpendWrite c v s
  | .xctlWrite c v => Sys2Proof.Machine.execXctlWrite c v s
  | .annexbaseWrite v => Sys2Proof.Machine.execAnnexbaseWrite v s
  | .xframeWrite n v => Sys2Proof.Machine.execXframeWrite n v s
  | .colbaseWrite v => Sys2Proof.Machine.execColbaseWrite v s
  | .hfpbaseWrite v => Sys2Proof.Machine.execHfpbaseWrite v s
  | .registerWrite p v => Sys2Proof.Machine.execRegisterWrite p v s
  | .fpsaWrite c v => Sys2Proof.Machine.execFpsaWrite c v s
  | .spill c => Sys2Proof.Machine.execSpill c s
  | .discard c => Sys2Proof.Machine.execDiscard c s
  | .spaceWrite c v => Sys2Proof.Machine.execSpaceWrite c v s
  | .hptcfgWrite c v => Sys2Proof.Machine.execHptcfgWrite c v s
  | .inbbaseWrite c v => Sys2Proof.Machine.execInbbaseWrite c v s
  | .twistStart k u entry => Sys2Proof.Machine.execTwistStart k u entry s
  | .overflowAdmission k => Sys2Proof.Machine.execOverflowAdmission k s
  | .microword k u up => Sys2Proof.Machine.execMicroword k u up s
  | .twistYield k u up => Sys2Proof.Machine.execTwistYield k u up s
  | .microTrap k u up => Sys2Proof.Machine.execMicroTrap k u up s
  | .loadBarrierSlowPath k u => Sys2Proof.Machine.execLoadBarrierSlowPath k u s
  | .granuleWait k u => Sys2Proof.Machine.execGranuleWait k u s
  | .storeDrain q j => Sys2Proof.Machine.execStoreDrain q j s
  | .storeBufferEntryFree c => Sys2Proof.Machine.execStoreBufferEntryFree c s
  | .reservationRelease c => Sys2Proof.Machine.execReservationRelease c s
  | .hostCompletion c r => Sys2Proof.Machine.execHostCompletion c r s
  | .completionTimeout c => Sys2Proof.Machine.execCompletionTimeout c s
  | .victimAccepted k ln => Sys2Proof.Machine.execVictimAccepted k ln s
  | .wayPowerDown k => Sys2Proof.Machine.execWayPowerDown k s
  | .wayPowerUp k w => Sys2Proof.Machine.execWayPowerUp k w s
  | .disSet k hmask => Sys2Proof.Machine.execDisSet k hmask s
  | .disClear k hmask => Sys2Proof.Machine.execDisClear k hmask s
  | .scrubLine ecc dev => Sys2Proof.Machine.execScrubLine ecc dev s
  | .shootdown c q => Sys2Proof.Machine.execShootdown c q s
  | .shootdownComplete c => Sys2Proof.Machine.execShootdownComplete c s
  | .invalBroadcast q t => Sys2Proof.Machine.execInvalBroadcast q t s
  | .flip m => Sys2Proof.Machine.execFlip m s
  | .flipRelease tag => Sys2Proof.Machine.execFlipRelease tag s
  | .update m => Sys2Proof.Machine.execUpdate m s
  | .evac k r => Sys2Proof.Machine.execEvac k r s
  | .clr0 k => Sys2Proof.Machine.execClr0 k s
  | .hankCreate h => Sys2Proof.Machine.execHankCreate h s
  | .commit h => Sys2Proof.Machine.execCommit h s
  | .pause h => Sys2Proof.Machine.execPause h s
  | .hankResume h => Sys2Proof.Machine.execHankResume h s
  | .hankReset h => Sys2Proof.Machine.execHankReset h s
  | .remove h => Sys2Proof.Machine.execRemove h s
  | .sqtail h v => Sys2Proof.Machine.execSqtail h v s
  | .cqhead h v => Sys2Proof.Machine.execCqhead h v s
  | .guestDoorbell h v => Sys2Proof.Machine.execGuestDoorbell h v s
  | .guestInterrupt h v => Sys2Proof.Machine.execGuestInterrupt h v s
  | .submissionFetch h w0 w1 w2 w3 => Sys2Proof.Machine.execSubmissionFetch h w0 w1 w2 w3 s
  | .read h j => Sys2Proof.Machine.execRead h j s
  | .write h j data ok => Sys2Proof.Machine.execWrite h j data ok s
  | .submissionCtxcmd h j => Sys2Proof.Machine.execSubmissionCtxcmd h j s
  | .fence h => Sys2Proof.Machine.execFence h s
  | .sync h => Sys2Proof.Machine.execSync h s
  | .perstN high => Sys2Proof.Machine.execPerstN high s
  | .hotReset => Sys2Proof.Machine.execHotReset s
  | .d3hotToD0 => Sys2Proof.Machine.execD3hotToD0 s
  | .linkTraining => Sys2Proof.Machine.execLinkTraining s
  | .linkDown => Sys2Proof.Machine.execLinkDown s
  | .busMasterEnable v => Sys2Proof.Machine.execBusMasterEnable v s
  | .apertureRead x n => Sys2Proof.Machine.execApertureRead x n s
  | .apertureWrite x data => Sys2Proof.Machine.execApertureWrite x data s
  | .hostRegisterAccess bar off n write v => Sys2Proof.Machine.execHostRegisterAccess bar off n write v s
  | .usdoRequest sid r => Sys2Proof.Machine.execUsdoRequest sid r s
  | .usdoSessionTimeout sid => Sys2Proof.Machine.execUsdoSessionTimeout sid s
  | .resetNode node => Sys2Proof.Machine.execResetNode node s
  | .resetCommunication node => Sys2Proof.Machine.execResetCommunication node s
  | .stop node => Sys2Proof.Machine.execStop node s
  | .preOperational node => Sys2Proof.Machine.execPreOperational node s
  | .operational node => Sys2Proof.Machine.execOperational node s
  | .heartbeat => Sys2Proof.Machine.execHeartbeat s
  | .emcy => Sys2Proof.Machine.execEmcy s
  | .emcyInhibitExpiry => Sys2Proof.Machine.execEmcyInhibitExpiry s
  | .mailboxRead idx sub len tag => Sys2Proof.Machine.execMailboxRead idx sub len tag s
  | .mailboxWrite idx sub tag data => Sys2Proof.Machine.execMailboxWrite idx sub tag data s
  | .storeParameters p ok => Sys2Proof.Machine.execStoreParameters p ok s
  | .restoreDefaults p => Sys2Proof.Machine.execRestoreDefaults p s
  | .errorCountClear p => Sys2Proof.Machine.execErrorCountClear p s
  | .logclr p => Sys2Proof.Machine.execLogclr p s
  | .wrlock p v => Sys2Proof.Machine.execWrlock p v s
  | .modeRequestStandby p => Sys2Proof.Machine.execModeRequestStandby p s
  | .modeRequestRun p => Sys2Proof.Machine.execModeRequestRun p s
  | .modeRequestDrowse p => Sys2Proof.Machine.execModeRequestDrowse p s
  | .modeRequestSleep p => Sys2Proof.Machine.execModeRequestSleep p s
  | .modeRequestHalt p => Sys2Proof.Machine.execModeRequestHalt p s
  | .sleepExit ticks p ok => Sys2Proof.Machine.execSleepExit ticks p ok s
  | .whorlPeriod vin iin pin l => Sys2Proof.Machine.execWhorlPeriod vin iin pin l s
  | .skeinPark k => Sys2Proof.Machine.execSkeinPark k s
  | .skeinWake k => Sys2Proof.Machine.execSkeinWake k s
  | .sectorPark n => Sys2Proof.Machine.execSectorPark n s
  | .sectorWake n => Sys2Proof.Machine.execSectorWake n s
  | .criticalTemperature d => Sys2Proof.Machine.execCriticalTemperature d s
  | .thermalTrip d => Sys2Proof.Machine.execThermalTrip d s
  | .coldLimit d => Sys2Proof.Machine.execColdLimit d s
  | .supplyOutOfRange above => Sys2Proof.Machine.execSupplyOutOfRange above s
  | .sag => Sys2Proof.Machine.execSag s
  | .inhibitLift => Sys2Proof.Machine.execInhibitLift s
  | .brownOut => Sys2Proof.Machine.execBrownOut s
  | .overVoltage => Sys2Proof.Machine.execOverVoltage s
  | .resetN high te => Sys2Proof.Machine.execResetN high te s
  | .startUp o => Sys2Proof.Machine.execStartUp o s
  | .compareFire n => Sys2Proof.Machine.execCompareFire n s
  | .compareWrite => Sys2Proof.Machine.execCompareWrite s
  | .captureEdge n up => Sys2Proof.Machine.execCaptureEdge n up s
  | .referenceLoss => Sys2Proof.Machine.execReferenceLoss s
  | .referenceReturn => Sys2Proof.Machine.execReferenceReturn s
  | .patchLoad => Sys2Proof.Machine.execPatchLoad s
  | .patchLoadComplete => Sys2Proof.Machine.execPatchLoadComplete s
  | .patchLock => Sys2Proof.Machine.execPatchLock s
  | .lcDev p v => Sys2Proof.Machine.execLcDev p v s
  | .lcProd p v => Sys2Proof.Machine.execLcProd p v s
  | .lcReturn p v => Sys2Proof.Machine.execLcReturn p v s
  | .lcEnd p v => Sys2Proof.Machine.execLcEnd p v s
  | .svncommit p v => Sys2Proof.Machine.execSvncommit p v s
  | .odkhset p v => Sys2Proof.Machine.execOdkhset p v s
  | .policyset p v => Sys2Proof.Machine.execPolicyset p v s
  | .nonce p v => Sys2Proof.Machine.execNonce p v s
  | .attestationSigned => Sys2Proof.Machine.execAttestationSigned s
  | .certchunk p d => Sys2Proof.Machine.execCertchunk p d s
  | .dbglock p v => Sys2Proof.Machine.execDbglock p v s
  | .status => Sys2Proof.Machine.execStatus s
  | .chal data => Sys2Proof.Machine.execChal data s
  | .tokw data => Sys2Proof.Machine.execTokw data s
  | .tokenVerification => Sys2Proof.Machine.execTokenVerification s
  | .lock => Sys2Proof.Machine.execLock s
  | .addr data => Sys2Proof.Machine.execAddr data s
  | .rd => Sys2Proof.Machine.execRd s
  | .wr data => Sys2Proof.Machine.execWr data s
  | .halt => Sys2Proof.Machine.execHalt s
  | .release => Sys2Proof.Machine.execRelease s
  | .dirq data => Sys2Proof.Machine.execDirq data s
  | .mcrd data => Sys2Proof.Machine.execMcrd data s
  | .injaddr data => Sys2Proof.Machine.execInjaddr data s
  | .injarm data => Sys2Proof.Machine.execInjarm data s
  | .scrub => Sys2Proof.Machine.execScrub s
  | .retclr => Sys2Proof.Machine.execRetclr s
  | .subst data => Sys2Proof.Machine.execSubst data s
  | .substitution p hard ok => Sys2Proof.Machine.execSubstitution p hard ok s
  | .fabricCrcError sector n => Sys2Proof.Machine.execFabricCrcError sector n s
  | .logRecordWrite => Sys2Proof.Machine.execLogRecordWrite s
  | .errorPassive e => Sys2Proof.Machine.execErrorPassive e s
  | .busOffRecovery => Sys2Proof.Machine.execBusOffRecovery s
  | .criticalTemperatureRelease => Sys2Proof.Machine.execCriticalTemperatureRelease s
  | .coldLimitClear => Sys2Proof.Machine.execColdLimitClear s
  | .supplyReturnToRange => Sys2Proof.Machine.execSupplyReturnToRange s
  | .distaffStop => Sys2Proof.Machine.execDistaffStop s
  | .lostMemoryChannel ch => Sys2Proof.Machine.execLostMemoryChannel ch s
  | .fuseWriteComplete full => Sys2Proof.Machine.execFuseWriteComplete full s
  | .sendAcknowledged c => Sys2Proof.Machine.execSendAcknowledged c s
  | .carderAccept k => Sys2Proof.Machine.execCarderAccept k s
  | .extest v => Sys2Proof.Machine.execExtest v s
  | .clamp => Sys2Proof.Machine.execClamp s
  | .highz => Sys2Proof.Machine.execHighz s
  | .testLogicReset => Sys2Proof.Machine.execTestLogicReset s
  | .linkRecovery enter => Sys2Proof.Machine.execLinkRecovery enter s
  | .rcRead off => Sys2Proof.Machine.execRcRead off s
  | .syncComplete h => Sys2Proof.Machine.execSyncComplete h s

end Sys2Proof.Machine
end

