-- ==== Sys2Proof/Machine/Step.lean ====
section
/-! DEFINITION. One step of the block: the command at the front of the queue, or the passing of time on an empty queue. -/

namespace Sys2Proof.Machine

/-- One nanosecond passes on an empty queue: the slow clock goes on, the timebase counts while its domain runs (R612, R625, R628); a compare whose value TB has reached fires before it goes on (R619); the memory channels drain
their write queues and the skein caches change their state (R413, R442); the array errors that accesses have met are recorded, and their places retired (R435, R437, R438); hank commands and a SLEEP entry in progress go as far as they can (R560,
R570, R571, R647). Skeins with a context READY or RUNNING count as busy (R638). -/
def idle (s : State) : State :=
  sleepSettle (hanksSettle (arrTick (memTick (busyTick (tbTick (updM (fun m => { m with clock := m.clock + 1 }) (cmpFireDue s)))))))

/-- One step. -/
def step (s : State) : Host.Outcome State Fault Refusal :=
  match s.pending with
  | [] => .next (idle s)
  | c :: rest => exec c { s with pending := rest }

/-- The state with the command that a table word spells at the front of the queue. -/
def State.withFetchWord (s : State) (nbits w : Nat) : State :=
  match decodeTableWord nbits w with
  | some c => { s with pending := c :: s.pending }
  | none => s

end Sys2Proof.Machine
end

