-- ==== Sys2Proof/Safety.lean ====
section
/-! DEFINITION. What counts as a safe run of the block, in the terms that statements use: the canonical form of memory, when an instruction
takes its slot, and what a slot that only makes landings leaves. -/

namespace Sys2Proof.Machine

/-! ## Memory -/

/-- Every listed address of memory is a byte of the 2^40 physical cells (R360). -/
def inSpace (m : SMap (BitVec 8)) : Bool := m.all fun p => decide (p.1 < 2 ^ 43)

/-- The canonical form of memory: addresses strictly rising, no byte listed that equals what an unlisted address reads as, every address
inside the physical address space. -/
def Memory.wf (s : State) : Bool := mapWf 0 s.mem && inSpace s.mem

/-! ## Slots -/

/-- The state in which an instruction of a context reads its operands: the landings that are due have been applied (R96). -/
def slotStart (c : CtxId) (s : State) : State := applyDue c s

/-- A micro-state record of the context's level stands, which a TWIST instruction that does not match it discards (R251). -/
def recorded (x : Ctx) : Bool := x.ms.mv && decide (x.ms.kind ≠ 4) && decide (x.ms.level = x.level)

/-- The instruction word `w` with guard `h` executes in its context's next slot: the context runs and its mode issues, no broadcast INVAL of its own
waits there (R428), no f file is to be exchanged for a landing (R200), nothing is due at the boundary (R336), the encoding is defined (R145), the
guard holds (R106), the level suffices (R132), no delay-slot or loop-end fault applies (R207, R226), and no interrupted routine is continued or
discarded (R251). -/
def canIssue (h : Hd) (w : BitVec 48) (s : State) : Bool :=
  let x := getCtx s h.ctx
  let s1 := slotStart h.ctx s
  let y := getCtx s1 h.ctx
  decide (x.st = .running) && issuing s && !heldByFlip s x && !x.invHold && !fileDue s h.ctx && decide (y.st = .running) && y.park.isNone &&
    y.wait.isNone && (boundary h.ctx s1).isNone && !needsFile s1 h.ctx && !y.skip && !y.flow.past && encOk w s1.extEn &&
    decide (pGet y h.gpred ≠ h.ginv) && decide (minLevel w ≤ y.level.toNat) && (flowFault y w).isNone && (resumes y w).isNone &&
    !(decide (iMajor w = 0x38) && recorded y)

/-- Landings that an instruction makes: distance, target, value. -/
abbrev Lands := List (Nat × Tgt × BitVec 64)

/-- The pending landings of a list made in a slot; w0 and p0 make none (R99). -/
def mkLands (slot : Nat) (ls : Lands) : List Landing :=
  (ls.filter fun l => decide (l.2.1 ≠ .word 0 ∧ l.2.1 ≠ .pred 0)).map fun l => { slot := slot + l.1, tgt := l.2.1, val := l.2.2 }

/-- The state with landings added to those of a context. -/
def landAll (c : CtxId) (ls : Lands) (s : State) : State :=
  updCtx c (fun x => { x with land := x.land ++ mkLands x.flow.slot ls }) s

/-- The state after a sequence of landings, those of w0 and p0 left out. -/
def landSeq (c : CtxId) : Lands → State → State
  | [], s => s
  | l :: ls, s => landSeq c ls (if l.2.1 = .word 0 ∨ l.2.1 = .pred 0 then s else landAll c [l] s)

/-- What a slot leaves that makes the landings `ls` and moves control by `a`: its context's landings and flow, and one slot counted in
its spindle's quantum (R289); the time at which the context last issued (R290). Nothing else. -/
def slotResult (c : CtxId) (a : Adv) (ls : Lands) (s : State) : State :=
  updSp (spOf s c) (fun p => { p with quantum := p.quantum + 1 })
    (updCtx c (fun x => { x with land := x.land ++ mkLands x.flow.slot ls, flow := advFlow x.flow a, issuedAt := s.m.clock }) s)

/-- A word register reads without a correction (R77). -/
def clean (x : Ctx) (r : BitVec 5) : Bool := decide (verify (wGet x r) = some (wGet x r, false))

end Sys2Proof.Machine
end

