-- ==== Sys2Proof/WellFormed.lean ====
section
/-! DEFINITION. Which commands are well formed: an instruction whose word is a defined encoding, and an event whose operands the spec's
ranges admit. The meanings are defined on every command; this says which ones a sender can form. -/

namespace Sys2Proof

open Sys2Proof.Machine

/-- A USDO request: an expedited write carries the bytes that it announces, a segmented one carries none yet (R672). -/
def usdoFormed (r : UsdoReq) : Bool :=
  match r with
  | .read _ _ => true
  | .write _ _ len data => (decide (data.length = len) && decide (len ≤ 8)) || (data.isEmpty && decide (8 < len))
  | .segRead n => decide (1 ≤ n)
  | .segWrite _ _ => true

/-- The domains of a measurement list are domains 0 to 39, each at most once (R30, R631). -/
def measFormed : List DomMeas → Bool
  | [] => true
  | m :: l => decide (m.dom ≤ 39) && l.all (fun o => decide (o.dom ≠ m.dom)) && measFormed l

/-- The operands of an event are in the ranges that the spec gives them. -/
def eventFormed (i : Instr) : Bool :=
  match i with
  | .storeDrain _ n => decide (n < 16)
  | .victimAccepted _ ln => decide (ln < 2 ^ 37)
  | .apertureRead x n => decide (1 ≤ n) && decide (x.toNat + n ≤ 0x200000)
  | .apertureWrite x d => decide (1 ≤ d.length) && decide (x.toNat + d.length ≤ 0x200000)
  | .hostRegisterAccess bar _ n _ _ => (bar = 0 || bar = 2 || bar = 4 || bar = 7) && decide (1 ≤ n) && decide (n ≤ 4096)
  | .rcRead off => decide (off.toNat % 8 = 0)
  | .usdoRequest _ r => usdoFormed r
  | .mailboxRead _ _ len _ => decide (1 ≤ len.toNat) && decide (len.toNat ≤ 4096)
  | .mailboxWrite _ _ _ d => decide (1 ≤ d.length) && decide (d.length ≤ 4096)
  | .certchunk _ d => decide (1 ≤ d.length) && decide (d.length ≤ 4096)
  | .whorlPeriod _ _ _ l => measFormed l
  | .sectorPark n => n = 1 || n = 2
  | .criticalTemperature d => decide (d.toNat ≤ 38)
  | .thermalTrip d => decide (d.toNat ≤ 38)
  | .coldLimit d => decide (d.toNat ≤ 38)
  | .startUp (.dram pop _) => decide ((pop.map fun c => (c.map (·.gib)).sum).sum ≤ 3072)
  | _ => true

/-- A well-formed command. -/
def wellFormed (i : Instr) : Bool :=
  match encodeWord i with
  | none => eventFormed i
  | some w => encOk w 0xFF && (match i with
    | .crd _ f => decide (f.crn ≠ 0x3C0)
    | .tbLoRead _ f => decide (f.crn = 0x3C0)
    | _ => true)

end Sys2Proof
end

