-- ==== Sys2Proof/Certificates/Slice0/Obligations.lean ====
section
/-! DEFINITION. The statements for the provers: what the rules say that each command does, stated over every state. First the vocabulary
of the rules (operands, landings, requests), in the namespace Expected; then the statements. -/

namespace Sys2Proof.Expected

open Sys2Proof.Machine

/-! ## What the rules say that instructions land -/

/-- An operand register that reads without a correction (R77). -/
def opnd (x : Ctx) (r : BitVec 5) : Option Cell := if clean x r then some (wGet x r) else none

/-- A condition of a rule. -/
def need (b : Bool) : Option Unit := if b then some () else none

/-- STATUS at distance 3 for a status form (R95). -/
def stat (s : Bool) (fl : BitVec 5) : Lands := if s then [(3, .status, fl.setWidth 64)] else []

/-- Z and N of a datum, the other flags 0 (R172). -/
def znFlags (d : Datum) : BitVec 5 := flagsOf (decide (d = 0)) (decide (d.toInt < 0)) false false false

/-- A logical result (R172): FIX of FIX operands, otherwise RAW. -/
def logic2 (x : Ctx) (f : FA) (op : Datum → Datum → Datum) : Option Lands := do
  let a ← opnd x f.sa
  let b ← opnd x f.sb
  need (fixRaw (cTyp a) && fixRaw (cTyp b))
  let r := op (cDat a) (cDat b)
  some ((1, .word f.dst, mkCell 0 (if cTyp a = tRAW ∨ cTyp b = tRAW then tRAW else tFIX) r) :: stat f.s (znFlags r))

/-- A logical result of one operand, of its type (R172). -/
def logic1 (x : Ctx) (dst sa : BitVec 5) (s : Bool) (op : Datum → Datum) : Option Lands := do
  let a ← opnd x sa
  need (fixRaw (cTyp a))
  some ((1, .word dst, mkCell 0 (cTyp a) (op (cDat a))) :: stat s (znFlags (op (cDat a))))

/-- A shifted datum (R173): times 2^n modulo 2^48, or divided by 2^n, as an unsigned or a signed number. -/
def shiftOf (k : Shift) (a : Datum) (n : Nat) : Datum :=
  match k with
  | .left => BitVec.ofNat 48 (a.toNat * 2 ^ n)
  | .logical => BitVec.ofNat 48 (a.toNat / 2 ^ n)
  | .arith => BitVec.ofInt 48 (a.toInt / 2 ^ n)

/-- A shift by a count (R173). -/
def shiftLand (dst : BitVec 5) (s : Bool) (k : Shift) (a : Cell) (n : Nat) : Lands :=
  let r := shiftOf k (cDat a) n
  (1, .word dst, mkCell 0 (cTyp a) r) ::
    stat s (shiftFlags (decide (k = .left)) (decide (k = .arith)) (decide (cTyp a = tFIX)) (cDat a) r n)

/-- A register shift: the count is the datum of a FIX. -/
def shift2 (x : Ctx) (f : FA) (k : Shift) : Option Lands := do
  let a ← opnd x f.sa
  let b ← opnd x f.sb
  need (fixRaw (cTyp a) && decide (cTyp b = tFIX))
  some (shiftLand f.dst f.s k a (cDat b).toNat)

/-- An immediate shift. -/
def shiftI (x : Ctx) (f : FI) (k : Shift) : Option Lands := do
  let a ← opnd x f.sa
  need (fixRaw (cTyp a))
  some (shiftLand f.dst f.s k a f.imm.toNat)

/-- The landings of the ALU instructions (R129, R172 to R175); none where the operands make the instruction trap. `good` is the context's
good colour. -/
def alu (good : BitVec 2) (x : Ctx) (i : Instr) : Option Lands :=
  match i with
  | .mov _ f => (opnd x f.sa).map fun a => [(1, .word f.dst, a)]
  | .and _ f => logic2 x f fun a b => a &&& b
  | .or _ f => logic2 x f fun a b => a ||| b
  | .xor _ f => logic2 x f fun a b => a ^^^ b
  | .andn _ f => logic2 x f fun a b => a &&& ~~~b
  | .not _ f => logic1 x f.dst f.sa f.s fun a => ~~~a
  | .andi _ f => logic1 x f.dst f.sa f.s fun a => a &&& f.imm.signExtend 48
  | .ori _ f => logic1 x f.dst f.sa f.s fun a => a ||| f.imm.signExtend 48
  | .xori _ f => logic1 x f.dst f.sa f.s fun a => a ^^^ f.imm.signExtend 48
  | .shl _ f => shift2 x f .left
  | .shr _ f => shift2 x f .logical
  | .sar _ f => shift2 x f .arith
  | .shli _ f => shiftI x f .left
  | .shri _ f => shiftI x f .logical
  | .sari _ f => shiftI x f .arith
  | .typeof _ f => (opnd x f.sa).map fun a => [(1, .word f.dst, mkCell 0 tFIX (BitVec.ofNat 48 (cTyp a).toNat))]
  | .colourof _ f => (opnd x f.sa).map fun a => [(1, .word f.dst, mkCell 0 tFIX (BitVec.ofNat 48 (cCol a).toNat))]
  | .datumof _ f => (opnd x f.sa).map fun a => [(1, .word f.dst, mkCell 0 tRAW (cDat a))]
  | .settype _ f => do
    let a ← opnd x f.sa
    let b ← opnd x f.sb
    let t : BitVec 6 := (cDat b).extractLsb' 0 6
    need (decide (cTyp b = tFIX ∧ (cDat b).toNat ≤ 0x3F) && decide (t ≠ tRETA) && !isReserved t && decide (t = tFWD → x.level ≠ 0))
    some [(1, .word f.dst, mkCell
      (if isPtr t ∧ isPtr (cTyp a) then cCol a else if isPtr t then good else if t = tHDR then cCol a else 0) t (cDat a))]
  | .ldi _ f =>
    some [(1, .word f.dst, mkCell 0 (f.ty.setWidth 6) (if f.ty = 1 then BitVec.ofInt 48 f.imm.toInt else BitVec.ofNat 48 f.imm.toNat))]
  | .ldih _ f => do
    let a ← opnd x f.dst
    need (decide (cTyp a ≠ tRETA))
    some [(1, .word f.dst, mkCell (cCol a) (cTyp a) (BitVec.ofNat 48 (f.imm.toNat % 2 ^ 24 * 2 ^ 24 + (cDat a).toNat % 2 ^ 24)))]
  | _ => none

/-! ### Generic arithmetic on FIX operands (R157 to R162) -/

/-- An exact FIX result lands; outside the range it lands modulo 2^48 when BIGP and OVT are 0 (R161). The flags are those of R160. -/
def fixOut (x : Ctx) (d : Nat) (dst : BitVec 5) (s : Bool) (r : Int) (c : Bool) : Option Lands := do
  need (inFix r || (!x.genctl.getLsbD 0 && !x.genctl.getLsbD 1))
  some ((d, .word dst, mkCell 0 tFIX (BitVec.ofInt 48 r)) :: stat s (flagsOf (decide (r = 0)) (decide (r < 0)) c (!inFix r) false))

/-- The FIX operand of a register. -/
def fixOpnd (x : Ctx) (r : BitVec 5) : Option Datum := do
  let a ← opnd x r
  need (cTyp a = tFIX)
  some (cDat a)

/-- The landings of ADD, SUB, NEG, MUL, ADDI, SUBI and MULH on FIX operands. -/
def fixArith (x : Ctx) (i : Instr) : Option Lands :=
  match i with
  | .add _ f => do
    let a ← fixOpnd x f.sa
    let b ← fixOpnd x f.sb
    fixOut x 2 f.dst f.s (a.toInt + b.toInt) (decide (2 ^ 48 ≤ a.toNat + b.toNat))
  | .sub _ f => do
    let a ← fixOpnd x f.sa
    let b ← fixOpnd x f.sb
    fixOut x 2 f.dst f.s (a.toInt - b.toInt) (decide (a.toNat < b.toNat))
  | .neg _ f => do
    let a ← fixOpnd x f.sa
    fixOut x 2 f.dst f.s (-a.toInt) (decide (0 < a.toNat))
  | .addi _ f => do
    let a ← fixOpnd x f.sa
    fixOut x 2 f.dst f.s (a.toInt + f.imm.toInt) (decide (2 ^ 48 ≤ a.toNat + (f.imm.signExtend 48).toNat))
  | .subi _ f => do
    let a ← fixOpnd x f.sa
    fixOut x 2 f.dst f.s (a.toInt - f.imm.toInt) (decide (a.toNat < (f.imm.signExtend 48).toNat))
  | .mul _ f => do
    let a ← fixOpnd x f.sa
    let b ← fixOpnd x f.sb
    fixOut x 4 f.dst f.s (a.toInt * b.toInt) false
  | .mulh _ f => do
    let a ← fixOpnd x f.sa
    let b ← fixOpnd x f.sb
    some [(4, .word f.dst, mkCell 0 tFIX (BitVec.ofInt 48 (a.toInt * b.toInt / 2 ^ 48)))]
  | _ => none

/-! ### Comparisons, type tests and predicates (R133 to R135, R165 to R167, R177) -/

/-- t or nil in a word register. -/
def truth (dst : BitVec 5) (v : Bool) : Lands := [(2, .word dst, if v then tCell else nilCell)]

/-- A bit in a predicate at distance 2. -/
def pred (pd : BitVec 3) (v : Bool) : Lands := [(2, .pred pd, if v then 1 else 0)]

/-- Both operands are FIX or both are CHAR: their order as integers (R166). -/
def ordered (a b : Cell) : Option (Int × Int) :=
  if cTyp a = tFIX ∧ cTyp b = tFIX then some ((cDat a).toInt, (cDat b).toInt)
  else if cTyp a = tCHAR ∧ cTyp b = tCHAR ∧ !badCell a ∧ !badCell b then some ((cDat a).toNat, (cDat b).toNat)
  else none

/-- Two operands of EQL that no number rule applies to: defined, well formed, and not numbers; or two FIX (R166). -/
def eqlPlain (a b : Cell) : Bool :=
  (decide (cTyp a = tFIX ∧ cTyp b = tFIX)) ||
    (decide (cTyp a ≠ tUNSET ∧ cTyp b ≠ tUNSET) && !badCell a && !badCell b && !isNum (cTyp a) && !isNum (cTyp b) &&
      !dispatches (cTyp a) && !dispatches (cTyp b))

/-- An ordered comparison of two registers. -/
def ord2 (x : Ctx) (ra rb : BitVec 5) (rel : Int → Int → Bool) : Option Bool := do
  let a ← opnd x ra
  let b ← opnd x rb
  let v ← ordered a b
  some (rel v.1 v.2)

/-- An ordered comparison with an immediate. -/
def ordI (x : Ctx) (ra : BitVec 5) (i : BitVec 24) (rel : Int → Int → Bool) : Option Bool := do
  let a ← opnd x ra
  need (cTyp a = tFIX)
  some (rel (cDat a).toInt i.toInt)

/-- Identity of two set operands (R57, R166). -/
def ident2 (x : Ctx) (ra rb : BitVec 5) : Option Bool := do
  let a ← opnd x ra
  let b ← opnd x rb
  need (cTyp a ≠ tUNSET ∧ cTyp b ≠ tUNSET)
  some (decide (cTyp a = cTyp b ∧ cDat a = cDat b))

/-- Identity with an immediate FIX. -/
def identI (x : Ctx) (ra : BitVec 5) (i : BitVec 24) : Option Bool := do
  let a ← opnd x ra
  need (cTyp a ≠ tUNSET)
  some (decide (cTyp a = tFIX ∧ cDat a = i.signExtend 48))

/-- EQL of two operands that are identical exactly when they are EQL. -/
def eql2 (x : Ctx) (ra rb : BitVec 5) : Option Bool := do
  let a ← opnd x ra
  let b ← opnd x rb
  need (eqlPlain a b)
  some (decide (cTyp a = cTyp b ∧ cDat a = cDat b))

/-- A type test of any cell (R177). -/
def test (x : Ctx) (f : FP) (t : BitVec 6 → Datum → Bool) : Option Lands := (opnd x f.sa).map fun a => pred f.pd (t (cTyp a) (cDat a))

/-- The landings of comparisons, type tests and predicate operations. -/
def compares (x : Ctx) (i : Instr) : Option Lands :=
  match i with
  | .eq _ f => (ident2 x f.sa f.sb).map (truth f.dst)
  | .eql _ f => (eql2 x f.sa f.sb).map (truth f.dst)
  | .lt _ f => (ord2 x f.sa f.sb fun a b => a < b).map (truth f.dst)
  | .le _ f => (ord2 x f.sa f.sb fun a b => a ≤ b).map (truth f.dst)
  | .gt _ f => (ord2 x f.sa f.sb fun a b => a > b).map (truth f.dst)
  | .ge _ f => (ord2 x f.sa f.sb fun a b => a ≥ b).map (truth f.dst)
  | .cmpeq _ f => (ident2 x f.sa f.sb).map (pred f.pd)
  | .cmpne _ f => (ident2 x f.sa f.sb).map fun v => pred f.pd (!v)
  | .cmpeql _ f => (eql2 x f.sa f.sb).map (pred f.pd)
  | .cmplt _ f => (ord2 x f.sa f.sb fun a b => a < b).map (pred f.pd)
  | .cmple _ f => (ord2 x f.sa f.sb fun a b => a ≤ b).map (pred f.pd)
  | .cmpgt _ f => (ord2 x f.sa f.sb fun a b => a > b).map (pred f.pd)
  | .cmpge _ f => (ord2 x f.sa f.sb fun a b => a ≥ b).map (pred f.pd)
  | .cmpeqi _ f => (identI x f.sa f.imm).map (pred f.pd)
  | .cmpnei _ f => (identI x f.sa f.imm).map fun v => pred f.pd (!v)
  | .cmpeqli _ f => (ordI x f.sa f.imm fun a b => a = b).map (pred f.pd)
  | .cmplti _ f => (ordI x f.sa f.imm fun a b => a < b).map (pred f.pd)
  | .cmplei _ f => (ordI x f.sa f.imm fun a b => a ≤ b).map (pred f.pd)
  | .cmpgti _ f => (ordI x f.sa f.imm fun a b => a > b).map (pred f.pd)
  | .cmpgei _ f => (ordI x f.sa f.imm fun a b => a ≥ b).map (pred f.pd)
  | .ttype _ f => test x f fun t _ => t = f.tcode
  | .tptr _ f => test x f fun t _ => decide (0x20 ≤ t.toNat) && decide (t.toNat ≤ 0x2D)
  | .timm _ f => test x f fun t _ => (decide (0x01 ≤ t.toNat) && decide (t.toNat ≤ 0x09)) || decide (t.toNat = 0x10)
  | .tlist _ f => test x f fun t d => decide (t = tCONS) || (decide (t = tCONST) && decide (d = 0))
  | .tnum _ f => test x f fun t _ => decide (t = tFIX) || decide (t = tBIG) || decide (t = tF32) || decide (t = tF64)
  | .pand _ f => some (pred f.pd (pGet x f.pa && pGet x f.pb))
  | .por _ f => some (pred f.pd (pGet x f.pa || pGet x f.pb))
  | .pxor _ f => some (pred f.pd (pGet x f.pa != pGet x f.pb))
  | .pandn _ f => some (pred f.pd (pGet x f.pa && !pGet x f.pb))
  | .pnot _ f => some (pred f.pd (!pGet x f.pa))
  | .pmov _ f => some (pred f.pd (pGet x f.pa))
  | .pflag _ f => some (pred f.pd (x.status.getLsbD f.flag.toNat))
  | _ => none

/-! ### Private bits (R109 to R111, R134) -/

/-- The private bit that a tier-1 form names: an immediate, or the low byte of a tier-1 BITREF. -/
def bitNo (x : Ctx) (f : FBT) : Option (BitVec 8) :=
  if f.bitx then none
  else if f.ib then some f.bitno
  else do
    let v ← opnd x f.sa
    need (cTyp v = tBITREF ∧ (cDat v).toNat < 256)
    some ((cDat v).extractLsb' 0 8)

/-- The landings of the tier-1 forms of the bit instructions. -/
def privBits (x : Ctx) (i : Instr) : Option Lands :=
  match i with
  | .bget _ f => (bitNo x f).map fun b => pred f.pd (x.pbits.getLsbD b.toNat)
  | .bput _ f => (bitNo x f).map fun b => [(2, .pbit b, if pGet x f.pd then 1 else 0)]
  | .bset _ f => (bitNo x f).map fun b => [(2, .pbit b, 1)]
  | .bclr _ f => (bitNo x f).map fun b => [(2, .pbit b, 0)]
  | .btas _ f => (bitNo x f).map fun b => pred f.pd (x.pbits.getLsbD b.toNat) ++ [(2, .pbit b, 1)]
  | _ => none

/-- An instruction of a table of landings does, in a slot that it takes, just what the table says. -/
def LandsBy (tab : State → Ctx → Instr → Option Machine.Lands) : Prop :=
  ∀ (i : Instr) (h : Hd) (w : BitVec 48) (s : State) (ls : Machine.Lands), headOf i = some h → encodeWord i = some w → canIssue h w s = true →
    tab (slotStart h.ctx s) (getCtx (slotStart h.ctx s) h.ctx) i = some ls →
    exec i s = .next (slotResult h.ctx .seq ls (slotStart h.ctx s))

/-! ## What the rules say that memory instructions do -/

/-- An instruction takes its slot. -/
def Takes (i : Instr) (h : Hd) (w : BitVec 48) (s : State) : Prop := headOf i = some h ∧ encodeWord i = some w ∧ canIssue h w s = true

/-- An address register: a defined pointer but FWD and EXTP, or RAW (R180). -/
def adrOk (a : Cell) : Bool :=
  !badCell a && ((isPtr (cTyp a) && decide (cTyp a ≠ tFWD) && decide (cTyp a ≠ tEXTP)) || decide (cTyp a = tRAW))

/-- The effective address of an access with a displacement (R130). -/
def ea (x : Ctx) (r : BitVec 5) (d : Int) : Option VAddr := do
  let a ← opnd x r
  need (adrOk a)
  vAdd (cDat a) d

/-- An object operand of one of some classes, well formed. -/
def obj (x : Ctx) (r : BitVec 5) (ok : List (BitVec 6)) : Option Cell := do
  let a ← opnd x r
  need (!badCell a && decide (cTyp a ≠ tUNSET) && ok.contains (cTyp a))
  some a

/-- The address of a half of a CONS, whose own address is even (R59, R181). -/
def consAdr (x : Ctx) (r : BitVec 5) (d : Int) : Option VAddr := do
  let a ← obj x r [tCONS]
  need (!(cDat a).getLsbD 0)
  vAdd (cDat a) d

/-- The address and destination of an instruction that loads one cell. -/
def loadOf (x : Ctx) (i : Instr) : Option (VAddr × BitVec 5) :=
  match i with
  | .ld _ f => (ea x f.adr f.disp.toInt).map fun a => (a, f.data)
  | .car _ f => (consAdr x f.sa 0).map fun a => (a, f.dst)
  | .cdr _ f => (consAdr x f.sa 1).map fun a => (a, f.dst)
  | .ldloc _ f => (obj x f.sa [tLOC]).map fun o => (cDat o, f.dst)
  | _ => none

/-- The address and cell of an instruction that stores one cell. The cell is copied as it is (R47). -/
def storeOf (x : Ctx) (i : Instr) : Option (VAddr × Cell) :=
  match i with
  | .st _ f => do
    let a ← ea x f.adr f.disp.toInt
    let v ← opnd x f.data
    some (a, v)
  | .setcar _ f => do
    let a ← consAdr x f.sa 0
    let v ← opnd x f.sb
    some (a, v)
  | .setcdr _ f => do
    let a ← consAdr x f.sa 1
    let v ← opnd x f.sb
    some (a, v)
  | .stloc _ f => do
    let o ← obj x f.sa [tLOC]
    let v ← opnd x f.sb
    some (cDat o, v)
  | _ => none

/-- The object, the field's offset and the destination of an instruction that reads a field after its header check; `idx` says that the
offset is an index plus 1 (R182, R183). -/
def fieldLoad (x : Ctx) (i : Instr) : Option (Cell × Nat × Bool × BitVec 5) :=
  match i with
  | .vref _ f => do
    let o ← obj x f.sa [tVEC, tSYM, tFUNC, tINST, tFACT]
    let k ← fixOpnd x f.sb
    need (decide (0 ≤ k.toInt))
    some (o, k.toNat + 1, true, f.dst)
  | .symval _ f => (obj x f.sa [tSYM]).map fun o => (o, 2, false, f.dst)
  | .symfn _ f => (obj x f.sa [tSYM]).map fun o => (o, 3, false, f.dst)
  | _ => none

/-- The object, the field's offset and the cell of an instruction that writes a field after its header check. -/
def fieldStore (x : Ctx) (i : Instr) : Option (Cell × Nat × Bool × Cell) :=
  match i with
  | .vset _ f => do
    let o ← obj x f.sa [tVEC, tSYM, tFUNC, tINST, tFACT]
    let k ← fixOpnd x f.sb
    let v ← opnd x f.dst
    need (decide (0 ≤ k.toInt))
    some (o, k.toNat + 1, true, v)
  | .setsymval _ f => do
    let o ← obj x f.sa [tSYM]
    let v ← opnd x f.sb
    some (o, 2, false, v)
  | _ => none

/-- The address register of an LD or ST is RAW: the access passes no barrier (R525). -/
def rawAdr (x : Ctx) (i : Instr) : Bool :=
  match i with
  | .ld _ f | .st _ f => (match opnd x f.adr with
    | some a => decide (cTyp a = tRAW)
    | none => false)
  | _ => false

/-- The store-buffer entries of a store at a translated address, by memory type (R451, R465): the cell, and the card entry of a store that passes
the barrier (R504). -/
def storeEnts (bar : Bool) (c : CtxId) (va : VAddr) (pa : PAddr) (mt : Nat) (v : Cell) (s : State) : List SbEntry :=
  let k : SbKind := if mt = 0 then .line (lineOf pa) [(pa.toNat, sealCell v)]
    else if mt = 1 then .device pa (sealCell v) else .host pa (sealCell v) (getCtx s c).hostFirst
  (k :: (if bar then cardKinds s c va pa v else [])).map (sbEnt c (getCtx s c).sbars (if mt = 0 then viaOf (getCtx s c) va else none))

/-- A store at a translated address finds room: the state with its entries in the buffer (R451, R453). After a HOST store the next one is
no longer the first (R465). -/
def Buffered (bar : Bool) (c : CtxId) (va : VAddr) (pa : PAddr) (mt : Nat) (v : Cell) (s t : State) : Prop :=
  sbPutAll c (storeEnts bar c va pa mt v s)
    (if mt = 0 ∨ mt = 1 then s else updCtx c (fun x => { x with hostFirst := false }) s) = ([], t)

/-! ## Instructions whose result comes from another unit -/

/-- A landing that waits for its value (R276): distance and target. w0 and p0 make none (R99). -/
def await (c : CtxId) (s : State) (l : Nat × Tgt) : State :=
  if l.2 = .word 0 ∨ l.2 = .pred 0 then s
  else updCtx c (fun x => { x with land := x.land ++ [{ slot := x.flow.slot + l.1, tgt := l.2, val := 0, arrived := false }] }) s

/-- Landings that wait for their values, in order. -/
def awaits (c : CtxId) (ls : List (Nat × Tgt)) (s : State) : State := ls.foldl (await c) s

/-- The request that an instruction makes of a twist unit (R230). -/
def twReq (c : CtxId) (w : BitVec 48) (a b : Cell) (dst : BitVec 5) (s : State) : TwReq :=
  { ctx := c, gen := (getCtx s c).gen, level := (getCtx s c).level, addr := (getCtx s c).flow.pc, major := BitVec.ofNat 8 (iMajor w)
    minor := iMinor w, sa := a, sb := b, dst := dst, enc := w }

/-- The operands, destination and landings of an instruction that a twist unit executes: the twist major on operands of its types, and the
generic operations on BIG or F64 operands (R155, R163, R178, R186). -/
def twistOp (x : Ctx) (i : Instr) : Option (Cell × Cell × BitVec 5 × List (Nat × Tgt)) :=
  let int (t : BitVec 6) : Bool := t = tFIX || t = tBIG
  let lst (b : Cell) : Bool := decide (cTyp b = tCONS) || (decide (cTyp b = tCONST) && decide (cDat b = 0))
  let div (f : FA) : Option (Cell × Cell × BitVec 5 × List (Nat × Tgt)) := do
    let a ← opnd x f.sa
    let b ← opnd x f.sb
    need (int (cTyp a) && int (cTyp b))
    some (a, b, f.dst, [(6, .word f.dst)])
  let walk (f : FA) : Option (Cell × Cell × BitVec 5 × List (Nat × Tgt)) := do
    let a ← opnd x f.sa
    let b ← opnd x f.sb
    need (decide (cTyp a ≠ tUNSET) && !badCell a && lst b)
    some (a, b, f.dst, [(6, .word f.dst)])
  let nums (a b : Cell) : Bool := isNum (cTyp a) && isNum (cTyp b) && (isHeavy (cTyp a) || isHeavy (cTyp b)) && !badCell a && !badCell b
  let fixes (a b : Cell) (r : Int) : Bool := decide (cTyp a = tFIX ∧ cTyp b = tFIX) && !inFix r && x.genctl.getLsbD 0
  let lands (d : Nat) (f : FA) : List (Nat × Tgt) := (d, .word f.dst) :: (if f.s then [(3, .status)] else [])
  let arith (d : Nat) (f : FA) (op : Int → Int → Int) : Option (Cell × Cell × BitVec 5 × List (Nat × Tgt)) := do
    let a ← opnd x f.sa
    let b ← opnd x f.sb
    need (nums a b || fixes a b (op (cDat a).toInt (cDat b).toInt))
    some (a, b, f.dst, lands d f)
  let arithI (f : FI) (op : Int → Int → Int) : Option (Cell × Cell × BitVec 5 × List (Nat × Tgt)) := do
    let a ← opnd x f.sa
    need (isHeavy (cTyp a) || fixes a (fixCell 0) (op (cDat a).toInt f.imm.toInt))
    some (a, mkCell 0 tFIX (f.imm.signExtend 48), f.dst, (2, .word f.dst) :: (if f.s then [(3, .status)] else []))
  let comp (ra rb : BitVec 5) (tgt : Tgt) (dst : BitVec 5) : Option (Cell × Cell × BitVec 5 × List (Nat × Tgt)) := do
    let a ← opnd x ra
    let b ← opnd x rb
    need (nums a b)
    some (a, b, dst, [(2, tgt)])
  let compI (ra pd : BitVec 5) (n : BitVec 3) (i : BitVec 24) : Option (Cell × Cell × BitVec 5 × List (Nat × Tgt)) := do
    let a ← opnd x ra
    need (isHeavy (cTyp a))
    some (a, mkCell 0 tFIX (i.signExtend 48), pd, [(2, .pred n)])
  match i with
  | .quo _ f | .rem _ f | .mod _ f => div f
  | .memq _ f | .assq _ f | .memv _ f => walk f
  | .length _ f => do
    let a ← opnd x f.sa
    need (lst a)
    some (a, nilCell, f.dst, [(6, .word f.dst)])
  | .typev _ f => do
    let a ← opnd x f.sa
    let b ← opnd x f.sb
    need (decide (cTyp a = tVEC ∧ cTyp b = tFIX ∧ (cDat b).toNat < 128))
    some (a, b, f.dst, [(6, .word f.dst)])
  | .add _ f => arith 2 f fun a b => a + b
  | .sub _ f => arith 2 f fun a b => a - b
  | .mul _ f => arith 4 f fun a b => a * b
  | .neg _ f => do
    let a ← opnd x f.sa
    need (isHeavy (cTyp a) || fixes a a (-(cDat a).toInt))
    some (a, nilCell, f.dst, lands 2 f)
  | .addi _ f => arithI f fun a b => a + b
  | .subi _ f => arithI f fun a b => a - b
  | .eql _ f | .lt _ f | .le _ f | .gt _ f | .ge _ f => comp f.sa f.sb (.word f.dst) f.dst
  | .cmpeql _ f | .cmplt _ f | .cmple _ f | .cmpgt _ f | .cmpge _ f => comp f.sa f.sb (.pred f.pd) (f.pd.setWidth 5)
  | .cmpeqli _ f | .cmplti _ f | .cmplei _ f | .cmpgti _ f | .cmpgei _ f => compI f.sa (f.pd.setWidth 5) f.pd f.imm
  | _ => none

/-! ## Floating-point forms of the generic operations (R155, R158, R168) -/

/-- Two numbers of which at least one is an F32 and none is BIG or F64. -/
def f32s (a b : Cell) : Bool :=
  (decide (cTyp a = tF32) || decide (cTyp b = tF32)) && (decide (cTyp a = tFIX) || decide (cTyp a = tF32)) &&
    (decide (cTyp b = tFIX) || decide (cTyp b = tF32)) && !badCell a && !badCell b

/-- The F32 of a float result. -/
def f32Of (n : Machine.Num) : Cell :=
  match n with
  | .s32 b => mkCell 0 tF32 (b.setWidth 48)
  | _ => unsetCell

/-- The landings of a generic operation with an F32 operand, and the exceptions that it raises. -/
def f32Forms (x : Ctx) (i : Instr) : Option (Machine.Lands × BitVec 5) :=
  let out (d : Nat) (dst : BitVec 5) (s : Bool) (o : NOp) (a b : Cell) : Machine.Lands × BitVec 5 :=
    let r := numOp (rmOf x) o (cellNum a) (cellNum b)
    ((d, .word dst, f32Of r.1) :: stat s (flagsOf (numZN r.1).1 (numZN r.1).2 false false false), r.2)
  let two (d : Nat) (f : FA) (o : NOp) : Option (Machine.Lands × BitVec 5) := do
    let a ← opnd x f.sa
    let b ← opnd x f.sb
    need (f32s a b)
    some (out d f.dst f.s o a b)
  let imm (f : FI) (o : NOp) : Option (Machine.Lands × BitVec 5) := do
    let a ← opnd x f.sa
    need (f32s a (fixCell (f.imm.signExtend 48)))
    some (out 2 f.dst f.s o a (fixCell (f.imm.signExtend 48)))
  let cmp (a b : Option Cell) (r : Rel) (l : Bool → Machine.Lands) : Option (Machine.Lands × BitVec 5) := do
    let a ← a
    let b ← b
    need (f32s a b)
    some (l (numRel r (cellNum a) (cellNum b)).1, (numRel r (cellNum a) (cellNum b)).2)
  let lit (i : BitVec 24) : Option Cell := some (fixCell (i.signExtend 48))
  match i with
  | .add _ f => two 2 f .add
  | .sub _ f => two 2 f .sub
  | .mul _ f => two 4 f .mul
  | .neg _ f => do
    let a ← opnd x f.sa
    need (decide (cTyp a = tF32) && !badCell a)
    some (out 2 f.dst f.s .neg a nilCell)
  | .addi _ f => imm f .add
  | .subi _ f => imm f .sub
  | .lt _ f => cmp (opnd x f.sa) (opnd x f.sb) .lt (truth f.dst)
  | .le _ f => cmp (opnd x f.sa) (opnd x f.sb) .le (truth f.dst)
  | .gt _ f => cmp (opnd x f.sa) (opnd x f.sb) .gt (truth f.dst)
  | .ge _ f => cmp (opnd x f.sa) (opnd x f.sb) .ge (truth f.dst)
  | .cmplt _ f => cmp (opnd x f.sa) (opnd x f.sb) .lt (pred f.pd)
  | .cmple _ f => cmp (opnd x f.sa) (opnd x f.sb) .le (pred f.pd)
  | .cmpgt _ f => cmp (opnd x f.sa) (opnd x f.sb) .gt (pred f.pd)
  | .cmpge _ f => cmp (opnd x f.sa) (opnd x f.sb) .ge (pred f.pd)
  | .cmplti _ f => cmp (opnd x f.sa) (lit f.imm) .lt (pred f.pd)
  | .cmplei _ f => cmp (opnd x f.sa) (lit f.imm) .le (pred f.pd)
  | .cmpgti _ f => cmp (opnd x f.sa) (lit f.imm) .gt (pred f.pd)
  | .cmpgei _ f => cmp (opnd x f.sa) (lit f.imm) .ge (pred f.pd)
  | _ => none

/-- The memory phase that RSUB, RSTAT, CSCAN and EXTN leave to be performed while their context is parked. -/
def parkOp (x : Ctx) (i : Instr) : Option MemOp :=
  match i with
  | .rsub _ f => do
    let a ← opnd x f.sa
    need (decide ((cTyp a = tRAW ∨ cTyp a = tLOC) ∧ vOff (cDat a) % 8 = 0))
    some (.rsub a (f.func.extractLsb' 18 3) f.dst)
  | .rstat _ f => do
    let a ← opnd x f.sa
    need (cTyp a = tFIX)
    some (.rstat a (f.func.extractLsb' 18 3) f.dst)
  | .cscan _ f => do
    let a ← opnd x f.sa
    need (adrOk a && decide (vOff (cDat a) % 8 = 0))
    some (.cscan a (f.func.getLsbD 17) (f.func.getLsbD 16) (f.func.extractLsb' 18 3) f.dst)
  | .extn _ n f => do
    let a ← opnd x f.sa
    let b ← opnd x f.sb
    some (.extn n a b f.func f.dst)
  | _ => none

/-- The request that CPROBE, CINS or CDEL makes of the carder (R536, R537). -/
def cardOp (x : Ctx) (i : Instr) : Option (CReq × FX) :=
  let base (c : CtxId) (op : COp) (f : FX) : Option CReq := do
    let a ← opnd x f.sa
    let b ← opnd x f.sb
    need ((f.func.getLsbD 17 || decide (cTyp a ≠ tUNSET)) && (f.func.getLsbD 16 || decide (cTyp b ≠ tUNSET)))
    some { ctx := c, gen := x.gen, hv := x.hv, hank := x.hank, lspin := x.lspin, op := op, k0 := a, k1 := b
           wa := f.func.getLsbD 17, wb := f.func.getLsbD 16 }
  match i with
  | .cprobe h f => (base h.ctx .probe f).map fun r => (r, f)
  | .cdel h f => (base h.ctx .del f).map fun r => (r, f)
  | .cins h f => do
    let r ← base h.ctx .ins f
    let v ← opnd x f.dst
    let m ← opnd x (f.func.extractLsb' 11 5)
    need (decide (f.func.extractLsb' 11 5 = 0) || (fixRaw (cTyp m) && decide ((cDat m).toNat < 2 ^ 33)))
    let d : Datum := if f.func.extractLsb' 11 5 = 0 then 0 else cDat m
    some ({ r with v := v, lock := decide (d.toNat / 2 ^ 32 % 2 = 1), user := d.extractLsb' 0 32 }, f)
  | _ => none

/-- A CLEAN or FLUSH of a line that some skein holds modified writes it back, and its controller is to accept it (R413, R425). -/
def noted (c : CtxId) (ln : Nat) (s : State) : State :=
  if (upto 32).any fun k => skModified (BitVec.ofNat 5 k) ln s then updCtx c (fun x => { x with cleans := x.cleans ++ [ln] }) s else s

/-- The operand pair of a TLB instruction: the datums of two cells of given types. -/
def pair (x : Ctx) (f : FA) (ta tb : BitVec 6) : Option (Datum × Datum) := do
  let a ← opnd x f.sa
  let b ← opnd x f.sb
  need (decide (cTyp a = ta ∧ cTyp b = tb))
  some (cDat a, cDat b)

/-- The entry that a pair installs: G is 0 for a hank's context (R378). -/
def entryOf (x : Ctx) (e0 e1 : Datum) (lk : Bool) : TlbEnt := { e0 := e0, e1 := if x.hv then setBit e1 46 false else e1, locked := lk }

/-- The page of a pair lies in the grant of the context (R384). -/
def pageGranted (s : State) (x : Ctx) (e1 : Datum) : Bool :=
  ctxGrant s x (4096 * bits e1.toNat 0 28 / pageSize e1 * pageSize e1) (pageSize e1)

/-! ## Events: the host, the scheduler, messages and context commands -/

/-- A host memory request to BAR0 or BAR4 is performed (R643, R722). -/
def served (s : State) : Bool :=
  decide (s.host.link = .active) && !s.host.perst && !s.host.d3 && decide (s.mode ≠ .bringup) && decide (s.mode ≠ .sleep)

/-- The issuer of a context command has none in progress (R314, R315), and its command reaches the scheduler. -/
def issued (src : Src) (s : State) : Bool :=
  match src with
  | .ctx c => decide (s.mode ≠ .sleep) && decide ((getCtx s c).st ≠ .free) && decide (bits (axGet (getCtx s c) 9).toNat 44 4 ≠ 0xF)
  | .host => served s && decide (bits s.hctxres.toNat 44 4 ≠ 0xF)
  | .hank _ => false

/-- A context command acts on its target: the issuer may command the number, which is not moving (R269, R315). -/
def commands (m : CtxCmd) (s : State) : Bool := issued m.src s && mayCommand s m.src m.ctx && decide ((getCtx s m.ctx).st ≠ .moving)

/-- The effect of a command given in a state, with its result in the result register of the issuer that gave it (R314, R317). -/
def reported (m : CtxCmd) (s : State) (stat : Nat) (t : State) : State := Machine.answer (some (m.src, srcGen s m.src)) (ctxRes t stat m.ctx) t

/-- The READY context that became READY first (R291). -/
def oldest (l : List (Nat × Ctx)) : Option (Nat × Ctx) :=
  l.foldl (fun r e => match r with
    | some m => if e.2.readySeq < m.2.readySeq then some e else r
    | none => some e) none

/-- A control-register write lands in a context: not in SLEEP, and not in a FREE number. -/
def exists_ (c : CtxId) (s : State) : Bool := decide (s.mode ≠ .sleep) && decide ((getCtx s c).st ≠ .free)

/-- A reply that is discarded: counted, and counted as stale where the hank's GEN has gone on (R142, R568). -/
def discarded (hv : Bool) (k : BitVec 6) (gen : BitVec 16) (s : State) : State :=
  let t := logEvent 0x16 4 37 0 none none 0 s
  if hv = true ∧ (getHank t k).gen ≠ gen then updHank k (fun g => { g with stalecnt := min (2 ^ 32 - 1) (g.stalecnt + 1) }) t else t

/-! ## Events: twist units, the memory system, collector and carder -/

/-- A twist unit that stands at a safe point of its routine, its word fetched right, with nothing that holds it (R240, R243, R247). -/
def atSafePoint (k : SkId) (u : BitVec 2) (up : BitVec 144) (r : TwReq) (s : State) : Bool :=
  let un := getUnit s k u
  decide (un.req = some r) && un.started && un.restore.isNone && safeFetch s un.upc up && !twHeld s r

/-- A unit stands at a microword that it executes: the address exists, the parity of the word and of its fetch is right, the word is well formed, and no
micro-trap, no hold and no HOST request keeps it (R235, R238, R240, R245). -/
def executes (k : SkId) (u : BitVec 2) (up : BitVec 144) (r : TwReq) (s : State) : Bool :=
  let un := getUnit s k u
  let w := fetchWord s un.upc
  decide (un.req = some r) && upcOk un.upc.toNat && parityOk w && parityOk up && !wordBad w && (w.getLsbD 118 || decide (un.sinceSafe < 256)) &&
    !(w.getLsbD 118 && (twHeld s r || (un.started && un.restore.isNone && (trapKind s k un r).isSome))) && (getCtx s r.ctx).hostReq.isNone

/-- A microword that makes no memory access, exchanges nothing and goes on to NEXT (R236). -/
def plainWord (w : BitVec 144) : Bool := decide (mw w 126 4 = 0) && decide (mw w 86 3 = 0) && decide (mw w 29 4 = 0)

/-- The state once a collector command has read the cells of its tag's block, a corrected one written back and recorded (R40, R43); a command that fails
a check before that reads nothing (R520). -/
def blockRead (op : Nat) (m : ColCmd) (s : State) : State := if s.colEn = true ∧ colEarly op m s = 0 then cbScrub m.tag s else s

/-- A collector command whose issuer may send it, and of which none of the checks fails (R520). -/
def colOk (op : Nat) (m : ColCmd) (s : State) : Bool :=
  (match m.src with
    | .ctx c => decide (s.mode ≠ .sleep) && decide ((getCtx s c).st ≠ .free)
    | .host => served s
    | .hank _ => false) && decide (colCheck op m (blockRead op m s) = 0)

/-- A reel's copy of a granule to the destination of its entry, and what it could not read (R495, R511). -/
def copied (d : ReelDesc) (k : SkId) (r : BitVec 1) (n : Nat) (e : Datum) (cl : Claim) : X (Option Nat) := fun s =>
  let z := copyGranule d.ctx k (160 + r.toNat) (fun _ => cardNow d.ctx k d.tag) n cl.src cl.srcP e cl.dstP cl.ent s
  .ok z.1 z.2

/-! ## Events: hanks, the host link and its registers -/

/-- A command of a hank by the host begins: the request is served, and none of the hank is in progress (R558). -/
def hankFree (h : BitVec 6) (s : State) : Bool := served s && decide ((getHank s h).result ≠ 0xF)

/-- A hank command in progress, with nothing of it done yet. -/
def begun (op : Nat) (h : BitVec 6) (s : State) : State := updHank h (fun k => { k with result := 0xF, pend := op }) s

/-- A doorbell-page write of a running hank passes its GEN check (R562). -/
def pageOk (h : BitVec 6) (v : BitVec 64) (s : State) : Bool :=
  served s && decide (v.extractLsb' 48 16 = (getHank s h).gen) && decide ((getHank s h).state = 1 ∨ (getHank s h).state = 2)

/-- The BAR0 write of a register by its offset (R579): registers without another effect, by what they hold. -/
def plainBar0 (off : Nat) (v : BitVec 64) (s : State) : Option State :=
  match off with
  | 0x4000 => some (updM (fun m => { m with patch := { m.patch with addr := v.extractLsb' 0 40 } }) s)
  | 0x4008 => some (updM (fun m => { m with patch := { m.patch with len := v.extractLsb' 0 18 } }) s)
  | 0x5008 => some { s with starve := v.extractLsb' 16 16, quantum := v.extractLsb' 0 16 }
  | 0x5018 => some { s with hctxarg := v.extractLsb' 0 48 }
  | 0x9880 => some (updHost (fun h => { h with extTmo := BitVec.ofNat 20 (max 100 (bits v.toNat 0 20)) }) s)
  | 0x9A00 => some (updHost (fun h => { h with aperture := v.extractLsb' 18 22 }) s)
  | _ => none

/-! ## Events: the object dictionary and its paths -/

/-- A path takes a write of an object now: it serves requests, the device is not in LC_END, the path's lock is clear, and the object can be
written (R676, R678, R699, R700). -/
def takes (p : DPath) (i sub : Nat) (s : State) : Bool :=
  decide (lcState s ≠ 4) && !s.m.wrlock.getLsbD (pathBit p) && writeAvail s i sub && (match p with
    | .can => canServes s
    | .mailbox => mailboxUp s
    | .debug => mirrorWrites s)

/-- The state in which the object is written: the request stands in the path's registers. -/
def asked (p : DPath) (i sub : Nat) (bs : List (BitVec 8)) (s : State) : State :=
  match p with
  | .can => s
  | .mailbox => updHost (fun h => { h with mbox := mbPut bs { h.mbox with req := mbReq 2 i sub bs.length 0 } }) s
  | .debug => updM (fun m => { m with dbg := { m.dbg with mirror := mbPut bs { m.dbg.mirror with req := mbReq 2 i sub bs.length 0 } } }) s

/-- A request of a mailbox is done without data, with an abort code (R675). -/
def finished (b : Mbox) (c : BitVec 32) : Mbox := { b with done := true, rlen := 0, abort := c, tag := mbTag b }

/-- The answer of a path to a write, with an abort code. `a` is the state in which the object was written. -/
def answer (p : DPath) (a : State) (c : BitVec 32) (s : State) : State :=
  match p with
  | .can => usdoAnswer { abort := c } s
  | .mailbox =>
    let t := updHost (fun h => { h with mbox := finished a.host.mbox c }) s
    if a.host.mbox.ien && decide (t.mode ≠ .bringup) then msixRaise a.host.mbox.vec.toNat t else t
  | .debug => updM (fun m => { m with dbg := { m.dbg with mirror := finished a.m.dbg.mirror c } }) s

/-- A write of an object succeeds with an effect. -/
def wrote (p : DPath) (i sub : Nat) (bs : List (BitVec 8)) (f : State → State) (s : State) : State :=
  answer p (asked p i sub bs s) 0 (f (asked p i sub bs s))

/-- A fuse write may start (R682). -/
def fusable (s : State) : Bool := !s.m.pwr.inhibit && s.m.fuseW.isNone

/-- A fuse write has started. -/
def fusing (o : FuseOp) (s : State) : State := updM (fun m => { m with fuseW := some o }) s

/-- The CAN controller with its error counters, and the fault confinement state that they give (R597; ISO 11898-1). -/
def confined (n : Nat × Nat) (s : State) : State :=
  let t (e : CanErr) : State := updM (fun m => { m with txErrs := n.1, rxErrs := n.2, canErr := e }) s
  if n.1 > 255 then condSet 7 true (t .busOff) else if n.1 > 127 ∨ n.2 > 127 then condSet 7 false (t .passive) else condClear 7 (t .active)

/-- The CAN port serves a request of a session: a new one finds fewer than four. -/
def usdoServed (sid : BitVec 8) (s : State) : Bool := canServes s && (decide (s.m.usdo.length < 4) || (usdoFind s sid).isSome)

/-! ## Events: power, restart, time, patches, debug -/

/-- The target of a measured domain after the period (R634, orders 2 and 5 to 7), without a cap in the way. -/
def newTarget (s : State) (x : DomMeas) : Nat :=
  let d := getDom s x.dom
  let lo := rmin s x.dom
  let hi := rmax s x.dom
  let cut := decide (x.cur > (if x.dom < 32 then 14000 else 10000))
  let t := if cut then min (max 1600 (d.target - 100)) hi else max lo (min d.target hi)
  if x.demand > 90 ∧ !cut then min hi (t + 100) else if x.demand < 50 ∧ t ≥ lo then max lo (t - 100) else t

/-- Whether a measured domain is throttled after the period: at TJTHROT, until it is 2 °C below (R634 order 3). -/
def throttled (s : State) (x : DomMeas) : Bool :=
  decide (x.temp ≥ tjThrot s) || ((getDom s x.dom).thr && decide (x.temp ≥ tjThrot s - 16))

/-- The setting of a measured domain's regulator after the period (R629, R632, R634, R637): on the 5 mV grid, from 600 to 920. -/
def newSetting (s : State) (x : DomMeas) : Nat :=
  let grid (v : Nat) : Nat := max 600 (min 920 (5 * ((v + 4) / 5)))
  let d := getDom s x.dom
  if throttled s x then max (grid x.marg) (min d.vset d.volt - 10) else grid (max x.low x.marg)

/-- Its output, which slews at most 50 mV a period towards the setting (R630). -/
def newVolt (s : State) (x : DomMeas) : Nat :=
  let v := (getDom s x.dom).volt
  let want := newSetting s x
  if want > v then min want (v + 50) else max want (v - 50)

/-- The start-up sequence runs its step `n` (R721). -/
def starting (n : Nat) (s : State) : Bool := decide (s.m.step = n) && !startHeld s && decide (lcState s ≠ 4)

/-- A debug command of level `lvl` is performed (R694, R699): the transport answers and the level suffices. -/
def debugs (lvl : Nat) (s : State) : Bool :=
  (decide (s.mode ≠ .bringup) || decide (2 < s.m.step)) && decide (lcState s ≠ 4) && decide (lvl ≤ s.m.dbg.level.toNat)

/-- A debug command has completed: the transport holds its number, its STAT and its data, and the address has moved on by `n`. -/
def debugged (cmd : BitVec 4) (stat : BitVec 4) (d : BitVec 64) (n : BitVec 40) (t : State) : State :=
  updM (fun m => { m with tap := { m.tap with ir := 0x10 }, dbg := { m.dbg with cmd := cmd, stat := stat, data := d, addr := m.dbg.addr + n } }) t

/-- An edge of a capture input rises; it is the only recorded one of a phase too short for both (R623). -/
def edgeUp (e : CapEdge) : Bool := decide (e = .rise ∨ e = .loneRise)
def edgeAlone (e : CapEdge) : Bool := decide (e = .loneRise ∨ e = .loneFall)

/-- The sequence numbers, the error counters and the log of a state with one more record of its own (R716, R718). -/
def recorded (e sev d : Nat) (s : State) : State := logOnly e sev d 0 none none 0 s

/-- The generator column of a protected bit (R39). -/
def column (i : Nat) : BitVec 8 :=
  ([0x07, 0x0B, 0x0D, 0x0E, 0x13, 0x15, 0x16, 0x19, 0x1A, 0x1C, 0x23, 0x25, 0x26, 0x29, 0x2A, 0x2C, 0x31, 0x32, 0x34, 0x38, 0x43, 0x45,
    0x46, 0x49, 0x4A, 0x4C, 0x51, 0x52, 0x54, 0x58, 0x61, 0x62, 0x64, 0x68, 0x70, 0x83, 0x85, 0x86, 0x89, 0x8A, 0x8C, 0x91, 0x92, 0x94,
    0x98, 0xA1, 0xA2, 0xA4, 0xA8, 0xB0, 0xC1, 0xC2, 0xC4, 0xC8, 0xD0, 0xE0] : List (BitVec 8)).getD i 0

/-- The number of bits that are 1. -/
def weightOf (g : BitVec 8) : Nat := ((upto 8).filter fun i => g.getLsbD i).length


/-! ## The slot -/

/-- The context's next slot comes, with nothing due at its boundary (R336): what `canIssue` asks before the word is examined. -/
def atSlot (h : Hd) (s : State) : Bool :=
  let x := getCtx s h.ctx
  let s1 := slotStart h.ctx s
  let y := getCtx s1 h.ctx
  decide (x.st = .running) && issuing s && !heldByFlip s x && !x.invHold && !fileDue s h.ctx && decide (y.st = .running) && y.park.isNone &&
    y.wait.isNone && (boundary h.ctx s1).isNone && !needsFile s1 h.ctx && !y.skip && !y.flow.past && (firstFp y).isNone

/-- The operations with two interpreted operands whose checks 1 and 2 of R149 are all that they share: arithmetic, which dispatches, and
logic, which does not. -/
def arith2 (h : Hd) (f : FA) : List Instr := [.add h f, .sub h f, .mul h f]
def logical2 (h : Hd) (f : FA) : List Instr := [.and h f, .or h f, .xor h f, .andn h f]

/-- The exception that an instruction of the slot raises, with no FP exception pending: it is delivered at its own address. -/
def traps (c : CtxId) (code : BitVec 8) (info : Datum) (s : State) : Host.Outcome State Fault Refusal :=
  .next (deliver c { code := code, info := info, addr := (getCtx s c).flow.pc } s)

/-- The same with DISPINFO written (R154). -/
def trapsWith (c : CtxId) (code : BitVec 8) (d : Datum) (s : State) : Host.Outcome State Fault Refusal :=
  .next (deliver c { code := code, info := 0, addr := (getCtx s c).flow.pc } (setAx c 4 d s))

end Sys2Proof.Expected

open Sys2Proof Sys2Proof.Machine Sys2Proof.Expected

/-! ## Statements -/

/-- A step runs the command at the front of the queue on the state with the queue's rest; on an empty queue one nanosecond passes, which is the
model's choice (log entry 3): the timebase counts while its domain runs, under HOLD by the ticks of the slow clock (log entry 169), and no memory,
context or spindle changes unless a hank command or a SLEEP entry is in progress, the data caches of a skein are being disabled, or a compare is due.
-/
def Obligations.StepRunsTheFrontCommand : Prop :=
  (∀ (c : Instr) (rest : List Instr) (s : State), s.pending = c :: rest → step s = exec c { s with pending := rest }) ∧
  (∀ (s : State), s.pending = [] → s.hanks = [] → s.m.entering = false → (∀ k, (getSk s k).dstate ≠ 1) →
    s.mode = .sleep ∨ (∀ i < 8, cmpDue s i = false) →
    ∃ t, step s = .next t ∧ t.m.clock = s.m.clock + 1 ∧
    t.tb = (if s.tbRun ∧ s.mode ≠ .sleep then
        (s.tb + if s.tbHold then slowAdv s (slowTick s.m.clock) (slowTick (s.m.clock + 1) - slowTick s.m.clock) else 1) % 2 ^ 64
      else s.tb) ∧
    (s.tbRet = true → s.tbRun = true → s.mode ≠ .sleep → t.tbHold = (s.tbHold && decide (slowTick (s.m.clock + 1) ≤ slowTick s.m.clock))) ∧
    t.mem = s.mem ∧ t.ctxs = s.ctxs ∧ t.spindles = s.spindles)

/-- After reset the device is in BRINGUP at start-up step 1, every context is FREE, every hank is FREE, no route is enabled, no patch is loaded, the
log and the counters are empty, TB does not count, and no cell differs from zero, which reads as UNSET without a check error (R38, R264, R643, R721).
-/
def Obligations.ResetLeavesTheBlockInBringup : Prop :=
  let s := State.reset
  s.mode = .bringup ∧ s.m.step = 1 ∧ (∀ c, (getCtx s c).st = .free) ∧ (∀ h, (getHank s h).state = 0) ∧ s.extEn = 0 ∧ s.pgen = 0 ∧ s.log = [] ∧
    s.counters = [] ∧ s.tbRun = false ∧ s.pending = [] ∧ Memory.wf s = true ∧
    (∀ a, cellAt s a = 0 ∧ cTyp (cellAt s a) = tUNSET ∧ verify (cellAt s a) = some (cellAt s a, false))

/-- The canonical form of memory (strictly rising addresses below 2^43, no byte listed that is zero) is kept by every step from every state. -/
def Obligations.EveryStepKeepsMemoryCanonical : Prop :=  ∀ (s t : State), Memory.wf s = true → step s = .next t → Memory.wf t = true

/-- Every instruction command that is well formed decodes from its own word: no bit of an encoding is dropped (R122 to R147). -/
def Obligations.EncodedInstructionsDecode : Prop :=
  ∀ (i : Instr) (h : Hd) (w : BitVec 48), wellFormed i = true → headOf i = some h → encodeWord i = some w → decodeWord h.ctx w = some i

/-- nil, p0 and the guard (R51, R78, R107): nil is CONST with datum 0 and colour 0, and w0 reads it; p0 reads 1, writes to it are discarded, and
another predicate holds what was last written; a guard of p0 without invert executes, with invert it does not; a predicate landing that is due is in
its predicate at the slot. -/
def Obligations.NilAndTheFixedPredicateRead : Prop :=
  (∀ (x : Ctx), wGet x 0 = nilCell ∧ cTyp nilCell = tCONST ∧ cDat nilCell = 0 ∧ cCol nilCell = 0 ∧ pGet x 0 = true ∧
    (∀ v, pSet x 0 v = x) ∧ (∀ n m v, n ≠ 0 → pGet (pSet x n v) m = if m = n then v else pGet x m)) ∧
  (∀ (i : Instr) (h : Hd) (w : BitVec 48) (s : State), headOf i = some h → encodeWord i = some w → atSlot h s = true → h.gpred = 0 → h.ginv = true →
    encOk w (slotStart h.ctx s).extEn = true → exec i s = .next (slotResult h.ctx .seq [] (slotStart h.ctx s))) ∧
  (∀ (h : Hd) (w : BitVec 48) (s : State), let y := getCtx (slotStart h.ctx s) h.ctx
    atSlot h s = true → h.gpred = 0 → h.ginv = false → encOk w (slotStart h.ctx s).extEn = true → minLevel w ≤ y.level.toNat →
    flowFault y w = none → resumes y w = none → (iMajor w = 0x38 → recorded y = false) → canIssue h w s = true) ∧
  (∀ (c : CtxId) (l : Landing) (n : BitVec 3) (s : State), (getCtx s c).land = [l] → l.tgt = .pred n → l.arrived = true → l.fpx = none → l.bit = none →
    l.slot ≤ (getCtx s c).flow.slot → (getCtx s c).st ≠ .free →
    ∀ m, pGet (getCtx (slotStart c s) c) m = if m = n ∧ n ≠ 0 then l.val.getLsbD 0 else pGet (getCtx s c) m)

/-- In a slot with nothing due, a reserved encoding raises the exception 0x03 whatever its guard, with no landing and no access; otherwise an
instruction whose guard is false only uses its slot; otherwise an instruction below its minimum level raises 0x04 (R108, R146 to R148). -/
def Obligations.ReservedFalseAndPrivilegedInstructions : Prop :=
  ∀ (i : Instr) (h : Hd) (w : BitVec 48) (s : State), headOf i = some h → encodeWord i = some w → atSlot h s = true →
    let t := slotStart h.ctx s
    let x := getCtx t h.ctx
    (encOk w t.extEn = false → exec i s = traps h.ctx 0x03 w t) ∧
    (encOk w t.extEn = true → pGet x h.gpred = h.ginv → exec i s = .next (slotResult h.ctx .seq [] t)) ∧
    (encOk w t.extEn = true → pGet x h.gpred ≠ h.ginv → x.level.toNat < minLevel w → exec i s = traps h.ctx 0x04 w t)

/-- The operand checks of R149 on ADD, SUB and MUL and on AND, OR, XOR and ANDN, in their order: an UNSET operand, SA before SB, takes 0x10; a
malformed immediate or a reserved type 0x11; an EXTI, EXTP or INST operand of an arithmetic operation 0x12; a type outside the operation's table 0x11.
DISPINFO describes the last three (R154). An overflow under OVT takes 0x20 (R161). -/
def Obligations.OperandsAreCheckedInOrder : Prop :=
  ∀ (i : Instr) (h : Hd) (f : FA) (w : BitVec 48) (s : State) (a b : Cell), i ∈ arith2 h f ++ logical2 h f →
    headOf i = some h → encodeWord i = some w → canIssue h w s = true →
    let t := slotStart h.ctx s
    let x := getCtx t h.ctx
    firstFp x = none → opnd x f.sa = some a → opnd x f.sb = some b →
    let bad (code : BitVec 8) (reason : BitVec 2) := trapsWith h.ctx code (dispInfo w reason (cTyp a) (cTyp b)) t
    (cTyp a = tUNSET → exec i s = traps h.ctx 0x10 0 t) ∧
    (cTyp a ≠ tUNSET → cTyp b = tUNSET → exec i s = traps h.ctx 0x10 1 t) ∧
    (cTyp a ≠ tUNSET → cTyp b ≠ tUNSET → badCell a = true ∨ badCell b = true → exec i s = bad 0x11 2) ∧
    (cTyp a ≠ tUNSET → cTyp b ≠ tUNSET → badCell a = false → badCell b = false →
      (i ∈ arith2 h f → dispatches (cTyp a) = true ∨ dispatches (cTyp b) = true → exec i s = bad 0x12 0) ∧
      (i ∈ arith2 h f → dispatches (cTyp a) = false → dispatches (cTyp b) = false → isNum (cTyp a) = false ∨ isNum (cTyp b) = false →
        exec i s = bad 0x11 2) ∧
      (i ∈ logical2 h f → fixRaw (cTyp a) = false ∨ fixRaw (cTyp b) = false → exec i s = bad 0x11 2)) ∧
    (i = .add h f → cTyp a = tFIX → cTyp b = tFIX → inFix ((cDat a).toInt + (cDat b).toInt) = false → x.genctl.getLsbD 0 = false →
      x.genctl.getLsbD 1 = true → exec i s = traps h.ctx 0x20 0 t)

/-- The instructions of the four tables of landings (ALU, FIX arithmetic, comparisons and tests, private bits), when they run, change nothing but
their context's pending landings and flow, the time of its last issue (R290) and its spindle's slot count: no byte of memory, no register, flag or
private bit, no special or exception register before a landing falls due, no other context, no other spindle, no skein, hank or management state. LD,
CAR, CDR and LDLOC, read at once, change no byte of memory but the bytes of the cell that they read, where a correction rewrites it (R43), and nothing
of any context but its reservation, of their own context but its landings, flow and time of issue, of no other spindle and of no skein, hank or host
state. ST, SETCAR, SETCDR and STLOC, whose entries find room, change no byte of memory and no other context or spindle. -/
def Obligations.InstructionsChangeOnlyTheirTargets : Prop :=
  (∀ (i : Instr) (h : Hd) (w : BitVec 48) (s t : State) (ls : Machine.Lands), headOf i = some h → encodeWord i = some w → canIssue h w s = true →
     let u := slotStart h.ctx s
     let x := getCtx u h.ctx
     (alu (goodOf u h.ctx) x i = some ls ∨ fixArith x i = some ls ∨ compares x i = some ls ∨ privBits x i = some ls) →
     exec i s = .next t →
     (∀ a, mapGet 0 t.mem a = mapGet 0 u.mem a) ∧ (∀ d, d ≠ h.ctx → getCtx t d = getCtx u d) ∧ (∀ q, q ≠ ctxSp x → getSp t q = getSp u q) ∧
       t.skeins = u.skeins ∧ t.hanks = u.hanks ∧ t.m = u.m ∧ t.host = u.host ∧ t.tb = u.tb ∧
       ∃ fl, getCtx t h.ctx = { x with land := x.land ++ mkLands x.flow.slot ls, flow := fl, issuedAt := u.m.clock } ∧ fl.slot = x.flow.slot + 1) ∧
  ((∀ (i : Instr) (h : Hd) (w : BitVec 48) (s t r : State) (va : VAddr) (dst : BitVec 5) (v : Cell) (pa : PAddr) (mt : Nat), Takes i h w s →
     let u := slotStart h.ctx s
     let x := getCtx u h.ctx
     loadOf x i = some (va, dst) → xLoad h.ctx false va u = .ok (v, pa, mt) t → (dst = 0 ∨ isBad (blockOf t h.ctx) v = false) →
     exec i s = .next r →
     (∀ a, a / 8 ≠ pa.toNat ∨ mt ≠ 0 → mapGet 0 r.mem a = mapGet 0 u.mem a) ∧
     (∀ d, d ≠ h.ctx → getCtx r d = { getCtx u d with res := (getCtx r d).res, resHold := (getCtx r d).resHold }) ∧
     (∀ q, q ≠ ctxSp x → getSp r q = getSp u q) ∧ r.skeins = u.skeins ∧ r.hanks = u.hanks ∧ r.m = u.m ∧ r.host = u.host ∧ r.tb = u.tb ∧
     ∃ fl n z b, fl.slot = x.flow.slot + 1 ∧
       getCtx r h.ctx = { x with land := x.land ++ mkLands x.flow.slot [(4, .word dst, v)], flow := fl, issuedAt := u.m.clock, ioIdx := n, res := z, resHold := b }) ∧
   (∀ (i : Instr) (h : Hd) (w : BitVec 48) (s t b r : State) (va : VAddr) (v : Cell) (pa : PAddr) (mt : Nat), Takes i h w s →
     let u := slotStart h.ctx s
     let x := getCtx u h.ctx
     storeOf x i = some (va, v) → xlate h.ctx x.level false va .write u = .ok (pa, mt) t → Buffered (!rawAdr x i) h.ctx va pa mt v t b →
     exec i s = .next r →
     (∀ a, mapGet 0 r.mem a = mapGet 0 u.mem a) ∧ (∀ d, d ≠ h.ctx → getCtx r d = getCtx u d) ∧ (∀ q, q ≠ ctxSp x → getSp r q = getSp u q) ∧
     r.skeins = u.skeins ∧ r.hanks = u.hanks ∧ r.m = u.m ∧ r.host = u.host ∧ r.tb = u.tb ∧
     ∃ fl f, fl.slot = x.flow.slot + 1 ∧ getCtx r h.ctx = { x with flow := fl, issuedAt := u.m.clock, hostFirst := f }))

/-- Cells and their check code (R38, R39, R40). The all-zero cell is UNSET, colour 0, datum 0, with a check code of 0. CHECK is the exclusive-OR of
the generator columns of the bits that are 1. By the syndrome a cell is delivered as it is, with its check bit or its protected bit corrected, or
uncorrectable, and a corrected error of a cell in memory is counted. No column is written twice, and every byte of weight 3 is a column. A sealed cell
with any one of its 64 bits flipped is corrected; with any two flipped it is uncorrectable. -/
def Obligations.CellsCorrectOneBitAndDetectTwo : Prop :=
  (verify 0 = some (0, false) ∧ cTyp 0 = tUNSET ∧ cCol 0 = 0 ∧ cDat 0 = 0 ∧ checkOf 0 = 0) ∧
  (∀ (v : Cell), checkOf v = (upto 56).foldl (fun a i => if v.getLsbD i then a ^^^ column i else a) 0) ∧
  (∀ (g : BitVec 8), weightOf g = 3 → ((upto 56).filter fun i => decide (column i = g)).length = 1) ∧
  (∀ (v : Cell), let r := v.extractLsb' 56 8 ^^^ checkOf v
    (r = 0 → verify v = some (v, false)) ∧
    (∀ j, j < 8 → r = 1#8 <<< j → verify v = some (v ^^^ (1#64 <<< (56 + j)), true)) ∧
    (∀ i, i < 56 → r = column i → verify v = some (v ^^^ (1#64 <<< i), true)) ∧
    (weightOf r = 5 ∨ weightOf r = 7 ∨ (r ≠ 0 ∧ weightOf r % 2 = 0) → verify v = none)) ∧
  (∀ (c : Option CtxId) (a : PAddr) (v : Cell) (s : State), mapGet false s.poisoned a.toNat = false → mapGet 0 s.arrErr a.toNat = 0 →
    verify (cellAt s a) = some (v, true) →
    (readCell c a s).1 = some v ∧ mapGet 0 (readCell c a s).2.counters 0x0E = min (2 ^ 32 - 1) (mapGet 0 s.counters 0x0E + 1)) ∧
  (∀ (v : Cell), verify (sealCell v) = some (sealCell v, false) ∧
    (∀ i, i < 64 → verify (sealCell v ^^^ (1#64 <<< i)) = some (sealCell v, true)) ∧
    (∀ i j, i < 64 → j < 64 → i ≠ j → verify (sealCell v ^^^ (1#64 <<< i) ^^^ (1#64 <<< j)) = none))

/-- An ALU instruction lands its result at distance 1, and a status form STATUS at distance 3 (R95, R129, R172 to R175). -/
def Obligations.AluInstructionsLandTheirResults : Prop :=
  LandsBy fun s x i => match headOf i with
    | some h => alu (goodOf s h.ctx) x i
    | none => none

/-- TYPEOF, COLOUROF, DATUMOF and the type tests accept every cell, UNSET and reserved codes included (R174, R177): whatever verified cell SA holds,
they land the type code, the colour, the datum, or the truth of the test, and raise nothing. A type test with an SB other than w0 is a reserved
encoding. -/
def Obligations.TypeTestsAcceptEveryCell : Prop :=
  (∀ (h : Hd) (f : FA) (w : BitVec 48) (s : State) (v : Cell),
    let t := slotStart h.ctx s
    let fix (n : Nat) := slotResult h.ctx .seq [(1, .word f.dst, mkCell 0 tFIX (BitVec.ofNat 48 n))] t
    opnd (getCtx t h.ctx) f.sa = some v →
    (Takes (.typeof h f) h w s → exec (.typeof h f) s = .next (fix (v.extractLsb' 48 6).toNat)) ∧
    (Takes (.colourof h f) h w s → exec (.colourof h f) s = .next (fix (v.extractLsb' 54 2).toNat)) ∧
    (Takes (.datumof h f) h w s →
      exec (.datumof h f) s = .next (slotResult h.ctx .seq [(1, .word f.dst, mkCell 0 tRAW (v.extractLsb' 0 48))] t))) ∧
  (∀ (h : Hd) (f : FP) (w : BitVec 48) (s : State) (v : Cell),
    let t := slotStart h.ctx s
    let n := (v.extractLsb' 48 6).toNat
    let lands (b : Bool) := slotResult h.ctx .seq [(2, .pred f.pd, if b then 1 else 0)] t
    opnd (getCtx t h.ctx) f.sa = some v →
    (Takes (.ttype h f) h w s → exec (.ttype h f) s = .next (lands (decide (n = f.tcode.toNat)))) ∧
    (Takes (.tptr h f) h w s → exec (.tptr h f) s = .next (lands (decide (0x20 ≤ n ∧ n ≤ 0x2D)))) ∧
    (Takes (.timm h f) h w s → exec (.timm h f) s = .next (lands (decide ((0x01 ≤ n ∧ n ≤ 0x09) ∨ n = 0x10)))) ∧
    (Takes (.tlist h f) h w s → exec (.tlist h f) s = .next (lands (decide (n = 0x20 ∨ (n = 0x04 ∧ v.extractLsb' 0 48 = 0))))) ∧
    (Takes (.tnum h f) h w s → exec (.tnum h f) s = .next (lands (decide (n = 0x01 ∨ n = 0x03 ∨ n = 0x25 ∨ n = 0x26))))) ∧
  (∀ (h : Hd) (f : FP) (i : Instr) (w : BitVec 48) (e : BitVec 8), i ∈ [.ttype h f, .tptr h f, .timm h f, .tlist h f, .tnum h f] →
    encodeWord i = some w → f.sb ≠ 0 → encOk w e = false)

/-- Generic arithmetic on FIX operands lands the exact result at distance 2 (4 for the multiplications) with the flags of R160 (R157 to R161). -/
def Obligations.FixArithmeticIsExact : Prop := LandsBy fun _ x i => fixArith x i

/-- Comparisons, type tests and predicate operations land a truth value at distance 2 (R133 to R135, R165 to R167, R177). -/
def Obligations.ComparisonsLandATruthValue : Prop := LandsBy fun _ x i => compares x i

/-- The tier-1 forms of the bit instructions act on the private bits (R110, R111, R115, R134). The tier-2 forms of the bit instructions, on a bit that
the context's grant holds (R110, R111, R114). BGET of a bit of the own skein lands the bit: as it stands, or, as a free value chooses, as it stands
when the landing is due (R459). A write enters the store buffer; one of another skein's bit parks its context until the bit is written. BTAS of a bit
of the own skein reads and sets it at once, when no earlier store of the context waits. Each of them performs the reads of the same bit that are still
to be performed before it. -/
def Obligations.BitInstructionsActOnTheirBits : Prop :=
  (LandsBy fun _ x i => privBits x i) ∧
  (∀ (h : Hd) (f : FBT) (w : BitVec 48) (s : State) (v : Cell) (b : BitVec 16),
     let t := slotStart h.ctx s
     let x := getCtx t h.ctx
     let k := brSkein (cDat v) (ctxSp x)
     let r := bitsRead h.ctx (fun l => l.bit = some (k, b)) t
     f.bitx = true → opnd x f.sa = some v → cTyp v = tBITREF → badBitref (cDat v) = false → brTier (cDat v) = 1 →
     b = (cDat v).extractLsb' 0 16 → bitGrant t x b.toNat = true →
     (Takes (.bget h f) h w s → k = x.skein → sbHasDev (getSp t (ctxSp x)) h.ctx = false →
       bit2Forward (getSp t (ctxSp x)) h.ctx x.skein b = none →
       exec (.bget h f) s = .next (slotDone h.ctx .seq
         (if (freshNat r).1 % 2 = 0 ∨ f.pd = 0 then landSeq h.ctx [(4, .pred f.pd, if bit2Get t x.skein b then 1 else 0)] (freshNat r).2
           else updCtx h.ctx (fun y => { y with land := y.land ++ [{ slot := y.flow.slot + 4, tgt := .pred f.pd, val := 0, bit := some (k, b) }] })
             (freshNat r).2))) ∧
     (Takes (.btas h f) h w s → k = x.skein → sbEmpty t h.ctx = true →
       exec (.btas h f) s = .next (slotDone h.ctx .seq (bit2Put x.skein b true
         (updCtx h.ctx (fun y => { y with hostFirst := true })
           (landSeq h.ctx [(4, .pred f.pd, if bit2Get t x.skein b then 1 else 0)] r))))) ∧
     (∀ (i : Instr) (val : Bool) (u : State),
       ((i = .bput h f ∧ val = pGet x f.pd) ∨ (i = .bset h f ∧ val = true) ∨ (i = .bclr h f ∧ val = false)) → Takes i h w s →
       sbPutAll h.ctx [{ ctx := h.ctx, sbar := x.sbars, kind := .bit2 k b val }] r = ([], u) →
       exec i s = .next (slotDone h.ctx .seq (if k = x.skein then u else updCtx h.ctx (fun y => { y with park := some (.bitTrip k b) }) u))))

/-- A generic operation with an F32 operand lands its rounded result or its truth value, and FPFLAGS collect the exceptions that it raised, none of
which is enabled (R153, R155, R158, R168). An FP-class instruction of the context that owns the f register file lands what it computes from the f
registers, and FPFLAGS collect the exceptions that it raised, none of which is enabled (R153, R195 to R199). -/
def Obligations.FloatingPointLandsRoundedResults : Prop :=
  (∀ (i : Instr) (h : Hd) (w : BitVec 48) (s : State) (ls : Machine.Lands) (fl : BitVec 5), Takes i h w s →
     f32Forms (getCtx (slotStart h.ctx s) h.ctx) i = some (ls, fl) → fl &&& fpEnables (getCtx (slotStart h.ctx s) h.ctx) = 0 →
     exec i s = .next (slotResult h.ctx .seq ls (updCtx h.ctx (fun x => { x with fpflags := x.fpflags ||| fl }) (slotStart h.ctx s)))) ∧
  (∀ (i : Instr) (h : Hd) (f : FA) (m : Nat) (w : BitVec 48) (s : State) (v : Cell) (r : FpRes),
     (m, i) ∈ [(0x00, Instr.fadd h f), (0x01, .fsub h f), (0x02, .fmul h f), (0x03, .fdiv h f), (0x04, .fmin h f), (0x05, .fmax h f),
       (0x06, .fneg h f), (0x07, .fabs h f), (0x08, .fmov h f), (0x09, .fsqrt h f), (0x10, .fcmp h f), (0x20, .ffromw h f),
       (0x21, .ftof32 h f), (0x22, .ftofix h f)] →
     Takes i h w s →
     let t := slotStart h.ctx s
     let x := getCtx t h.ctx
     fpsaZero x = false → (getSp t (ctxSp x)).fpOwner = some h.ctx →
     (if m = 0x20 then opnd x f.sa = some v ∧ badCell v = false ∧ (cTyp v = tFIX ∨ cTyp v = tF32) else v = nilCell) →
     fpCompute h.ctx m f.dst f.sa f.sb (cellNum v) t = .ok r t → r.flags &&& fpEnables x = 0 →
     exec i s = .next (slotResult h.ctx .seq r.lands (updCtx h.ctx (fun x => { x with fpflags := x.fpflags ||| r.flags }) t)))

/-- LD, CAR, CDR and LDLOC (R180, R181, R184): a cell that is read at once, and is no bad pointer, lands at distance 4; an LD with a RAW address lands
it whatever it is (R525). Memory and registers are those that the read left. CAR and CDR of nil land nil without an access (R181). VREF, SYMVAL and
SYMFN (R182, R183): after the header check the field's cell lands at distance 4. HLEN lands the header's length as a FIX. -/
def Obligations.LoadsLandTheirCell : Prop :=
  (∀ (i : Instr) (h : Hd) (w : BitVec 48) (s t : State) (va : VAddr) (dst : BitVec 5) (v : Cell) (pa : PAddr) (mt : Nat), Takes i h w s →
     loadOf (getCtx (slotStart h.ctx s) h.ctx) i = some (va, dst) →
     xLoad h.ctx false va (slotStart h.ctx s) = .ok (v, pa, mt) t →
     (dst = 0 ∨ rawAdr (getCtx (slotStart h.ctx s) h.ctx) i = true ∨ isBad (blockOf t h.ctx) v = false) →
     exec i s = .next (slotDone h.ctx .seq (landSeq h.ctx [(4, .word dst, v)] t))) ∧
  (LandsBy fun _ x i => match i with
     | .car _ f | .cdr _ f => if opnd x f.sa = some nilCell then some [(4, .word f.dst, nilCell)] else none
     | _ => none) ∧
  ((∀ (i : Instr) (h : Hd) (w : BitVec 48) (s t u : State) (o hdr v : Cell) (off : Nat) (idx : Bool) (va : VAddr) (dst : BitVec 5)
       (pa : PAddr) (mt : Nat), Takes i h w s →
     fieldLoad (getCtx (slotStart h.ctx s) h.ctx) i = some (o, off, idx, dst) →
     xHeader h.ctx false o (slotStart h.ctx s) = .ok hdr t → (idx = true → off ≤ hdrLen hdr) → vAdd (cDat o) off = some va →
     xLoad h.ctx false va t = .ok (v, pa, mt) u → (dst = 0 ∨ isBad (blockOf u h.ctx) v = false) →
     exec i s = .next (slotDone h.ctx .seq (landSeq h.ctx [(4, .word dst, v)] u))) ∧
   (∀ (h : Hd) (f : FA) (w : BitVec 48) (s t : State) (o hdr : Cell), Takes (.hlen h f) h w s →
     obj (getCtx (slotStart h.ctx s) h.ctx) f.sa [tSYM, tVEC, tSTR, tBVEC, tBIG, tF64, tFUNC, tCODE, tINST, tFACT, tEXTP] = some o →
     xHeader h.ctx false o (slotStart h.ctx s) = .ok hdr t →
     exec (.hlen h f) s = .next (slotDone h.ctx .seq (landSeq h.ctx [(4, .word f.dst, mkCell 0 tFIX (dat (hdrLen hdr)))] t))))

/-- ST, SETCAR, SETCDR and STLOC (R181, R184, R451): the store enters the store buffer, and nothing else changes: no byte of memory until it drains.
An ST with a RAW address marks no card (R525). VSET and SETSYMVAL (R182, R183): after the header check the store of the field enters the store buffer;
no byte of memory changes. -/
def Obligations.StoresWaitInTheStoreBuffer : Prop :=
  (∀ (i : Instr) (h : Hd) (w : BitVec 48) (s t u : State) (va : VAddr) (v : Cell) (pa : PAddr) (mt : Nat), Takes i h w s →
     storeOf (getCtx (slotStart h.ctx s) h.ctx) i = some (va, v) →
     xlate h.ctx (getCtx (slotStart h.ctx s) h.ctx).level false va .write (slotStart h.ctx s) = .ok (pa, mt) t →
     Buffered (!rawAdr (getCtx (slotStart h.ctx s) h.ctx) i) h.ctx va pa mt v t u →
     exec i s = .next (slotDone h.ctx .seq u) ∧ u.mem = t.mem) ∧
  (∀ (i : Instr) (h : Hd) (w : BitVec 48) (s t u b : State) (o hdr v : Cell) (off : Nat) (idx : Bool) (va : VAddr) (pa : PAddr) (mt : Nat),
     Takes i h w s → fieldStore (getCtx (slotStart h.ctx s) h.ctx) i = some (o, off, idx, v) →
     xHeader h.ctx false o (slotStart h.ctx s) = .ok hdr t → (idx = true → off ≤ hdrLen hdr) → vAdd (cDat o) off = some va →
     xlate h.ctx (getCtx t h.ctx).level false va .write t = .ok (pa, mt) u → Buffered true h.ctx va pa mt v u b →
     exec i s = .next (slotDone h.ctx .seq b) ∧ b.mem = u.mem)

/-- LR, SC and TAS (R467 to R470). LR lands the cell and sets the reservation on its line, but where the read wrote a corrected cell back (R43). SC
without the reservation lands 0 and stores nothing; with it, and with every earlier store of the context visible, it stores the cell and lands 1, and
its card mark enters the store buffer (R506). TAS lands the old cell and stores t. -/
def Obligations.AtomicsUseTheReservation : Prop :=
  ∀ (h : Hd) (f : FMA) (w : BitVec 48) (s : State) (va : VAddr), ea (getCtx (slotStart h.ctx s) h.ctx) f.adr f.disp.toInt = some va →
    (∀ (t u : State) (pa : PAddr) (v : Cell), Takes (.lr h f) h w s →
      xlateNormal h.ctx (getCtx (slotStart h.ctx s) h.ctx).level false va .read (slotStart h.ctx s) = .ok pa t →
      xNormal h.ctx false false va pa t = .ok v u → (getCtx u h.ctx).park = none → (f.data = 0 ∨ isBad (blockOf u h.ctx) v = false) →
      exec (.lr h f) s = .next (slotDone h.ctx .seq (updCtx h.ctx (fun x => if wroteBack t u pa then { x with res := none, resHold := false }
          else { x with res := some (lineOf pa), resHold := true })
        (landSeq h.ctx [(4, .word f.data, v)] u)))) ∧
    (∀ (t : State) (pa : PAddr) (v : Cell), Takes (.sc h f) h w s → opnd (getCtx (slotStart h.ctx s) h.ctx) f.data = some v →
      xlateNormal h.ctx (getCtx (slotStart h.ctx s) h.ctx).level false va .rw (slotStart h.ctx s) = .ok pa t →
      (getCtx (slotStart h.ctx s) h.ctx).res ≠ some (lineOf pa) →
      exec (.sc h f) s = .next (slotDone h.ctx .seq (landSeq h.ctx [(4, .pred f.pd, 0)]
        (updCtx h.ctx (fun x => { x with res := none, resHold := false }) t)))) ∧
    (∀ (t u b : State) (pa : PAddr) (v : Cell), Takes (.sc h f) h w s → opnd (getCtx (slotStart h.ctx s) h.ctx) f.data = some v →
      xlateNormal h.ctx (getCtx (slotStart h.ctx s) h.ctx).level false va .rw (slotStart h.ctx s) = .ok pa t →
      (getCtx (slotStart h.ctx s) h.ctx).res = some (lineOf pa) → sbEmpty t h.ctx = true →
      bringLine h.ctx false true va pa t = (true, u) → (getCtx u h.ctx).res = some (lineOf pa) →
      let z := landSeq h.ctx [(4, .pred f.pd, 1)] (updCtx h.ctx (fun x => { x with res := none, resHold := false })
        (putCell (some h.ctx) pa v (updCtx h.ctx (fun x => { x with hostFirst := true }) u)))
      sbPutAll h.ctx ((cardKinds z h.ctx va pa v).map (sbEnt h.ctx (getCtx z h.ctx).sbars none)) z = ([], b) →
      exec (.sc h f) s = .next (slotDone h.ctx .seq b)) ∧
    (∀ (t u : State) (pa : PAddr) (v : Cell), Takes (.tas h f) h w s →
      xlateNormal h.ctx (getCtx (slotStart h.ctx s) h.ctx).level false va .rw (slotStart h.ctx s) = .ok pa t →
      sbEmpty t h.ctx = true → xNormal h.ctx false true va pa t = .ok v u →
      let z := updCtx h.ctx (fun x => { x with res := none, resHold := false, hostFirst := true }) (putCell (some h.ctx) pa tCell u)
      (f.data = 0 ∨ isBad (blockOf z h.ctx) v = false) →
      exec (.tas h f) s = .next (slotDone h.ctx .seq (landSeq h.ctx [(4, .word f.data, v)] z)))

/-- CONS, ALLOC, CONS.I and ALLOC.I (R190 to R194): a pointer to the object that the allocation made lands at distance 4, of the good colour or, for
the immortal forms, of colour 3 (R56). -/
def Obligations.AllocationsLandAPointer : Prop :=
  (∀ (h : Hd) (f : FA) (w : BitVec 48) (s t : State) (a b : Cell) (imm : Bool) (p : VAddr),
    Takes (if imm then .consI h f else .cons h f) h w s →
    opnd (getCtx (slotStart h.ctx s) h.ctx) f.sa = some a → opnd (getCtx (slotStart h.ctx s) h.ctx) f.sb = some b →
    xAlloc h.ctx false 2 [a, b] (slotStart h.ctx s) = .ok p t →
    exec (if imm then .consI h f else .cons h f) s =
      .next (slotDone h.ctx .seq (landSeq h.ctx [(4, .word f.dst, mkCell (if imm then 3 else goodOf t h.ctx) tCONS p)] t))) ∧
  (∀ (h : Hd) (f : FA) (w : BitVec 48) (s t : State) (a : Cell) (ty : Datum) (imm : Bool) (p : VAddr),
    Takes (if imm then .allocI h f else .alloc h f) h w s →
    opnd (getCtx (slotStart h.ctx s) h.ctx) f.sa = some a → cTyp a = tHDR → hdrLen a ≤ 65535 →
    fixOpnd (getCtx (slotStart h.ctx s) h.ctx) f.sb = some ty → allocType ty = true →
    xAlloc h.ctx false ((hdrLen a + 2) / 2 * 2) [a] (slotStart h.ctx s) = .ok p t →
    exec (if imm then .allocI h f else .alloc h f) s =
      .next (slotDone h.ctx .seq (landSeq h.ctx [(4, .word f.dst, mkCell (if imm then 3 else goodOf t h.ctx) (ty.extractLsb' 0 6) p)] t)))

/-- BR, JR and LOOP (R203 to R207, R224): a branch sets its target with two delay slots; LOOP sets the loop registers to the next LEN instructions,
and a count of 0 skips them; an address past the segment's last offset is a free value (log entry 109). They land nothing. -/
def Obligations.BranchesAndLoopsMoveControl : Prop :=
  (∀ (h : Hd) (f : FB) (w : BitVec 48) (s : State) (t : VAddr), Takes (.br h f) h w s →
    vAdd (getCtx (slotStart h.ctx s) h.ctx).flow.pc f.disp.toInt = some t →
    exec (.br h f) s = .next (slotResult h.ctx (.branch t true) [] (slotStart h.ctx s))) ∧
  (∀ (h : Hd) (f : FA) (w : BitVec 48) (s : State) (a : Cell) (t : VAddr), Takes (.jr h f) h w s →
    opnd (getCtx (slotStart h.ctx s) h.ctx) f.sa = some a →
    ((cTyp a = tRAW ∨ cTyp a = tLOC) ∧ t = cDat a) ∨ (cTyp a = tCODE ∧ vAdd (cDat a) 1 = some t) →
    exec (.jr h f) s = .next (slotResult h.ctx (.branch t true) [] (slotStart h.ctx s))) ∧
  (∀ (h : Hd) (f : FL) (w : BitVec 48) (s t u : State) (n : Datum) (a e : VAddr), Takes (.loop h f) h w s →
    (f.cnt = 0 ∧ n = f.icnt.setWidth 48) ∨
      (f.cnt ≠ 0 ∧ fixOpnd (getCtx (slotStart h.ctx s) h.ctx) f.cnt = some n ∧ 0 ≤ n.toInt) →
    (getCtx (slotStart h.ctx s) h.ctx).flow.lpCnt = 0 →
    xLoopAdr (getCtx (slotStart h.ctx s) h.ctx).flow.pc 1 (slotStart h.ctx s) = .ok a t →
    xLoopAdr (getCtx (slotStart h.ctx s) h.ctx).flow.pc f.len.toNat t = .ok e u →
    exec (.loop h f) s = .next (slotResult h.ctx (if n = 0 then .jump (f.len.toNat + 1) else .seq) []
      (updCtx h.ctx (fun x => { x with flow := { x.flow with lpStart := a, lpEnd := e, lpCnt := n } }) u)))

/-- CALL, CALLR and FCALL push a RETA cell of the address after the delay slots and land the lowered w31 at distance 3 (R205, R213). RET pops it,
overwrites it with UNSET and branches to it (R216). TCALL checks the RETA at the stack pointer and branches without a push (R219). -/
def Obligations.CallsPushAndReturnsPop : Prop :=
  (∀ (i : Instr) (h : Hd) (w : BitVec 48) (s r t u : State) (tgt : VAddr) (sp : Cell) (pa : PAddr), Takes i h w s →
    let x := getCtx (slotStart h.ctx s) h.ctx
    let a := vAddW (cDat sp) (-1)
    vOff x.flow.pc ≤ 2 ^ 40 - 4 → opnd x 31 = some sp → (cTyp sp = tLOC ∨ cTyp sp = tRAW) →
    ((∃ f, i = .call h f ∧ vAdd x.flow.pc f.disp.toInt = some tgt ∧ r = slotStart h.ctx s) ∨
      (∃ f v, i = .callr h f ∧ opnd x f.sa = some v ∧ r = slotStart h.ctx s ∧
        (((cTyp v = tRAW ∨ cTyp v = tLOC) ∧ tgt = cDat v) ∨ (cTyp v = tCODE ∧ vAdd (cDat v) 1 = some tgt))) ∨
      (∃ f v, i = .fcall h f ∧ opnd x f.sa = some v ∧ cTyp v = tFUNC ∧
        xFuncEntry h.ctx false w v (slotStart h.ctx s) = .ok tgt r)) →
    xStackRange h.ctx a r = .ok () r →
    xlateNormal h.ctx (getCtx r h.ctx).level false a .write r = .ok pa t →
    Buffered true h.ctx a pa 0 (mkCell 0 tRETA (vAddW (getCtx r h.ctx).flow.pc 3)) t u →
    exec i s = .next (slotDone h.ctx (.branch tgt false) (landSeq h.ctx [(3, .word 31, withAddr sp a)] u))) ∧
  (∀ (h : Hd) (f : FA) (w : BitVec 48) (s t u v b : State) (sp r : Cell) (pa pw : PAddr), Takes (.ret h f) h w s →
    let x := getCtx (slotStart h.ctx s) h.ctx
    opnd x 31 = some sp → (cTyp sp = tLOC ∨ cTyp sp = tRAW) → xStackRange h.ctx (cDat sp) (slotStart h.ctx s) = .ok () (slotStart h.ctx s) →
    xlateNormal h.ctx x.level false (cDat sp) .read (slotStart h.ctx s) = .ok pa t →
    xNormal h.ctx false false (cDat sp) pa t = .ok r u → cTyp r = tRETA →
    xlateNormal h.ctx x.level false (cDat sp) .write u = .ok pw v →
    Buffered true h.ctx (cDat sp) pw 0 unsetCell v b →
    exec (.ret h f) s =
      .next (slotDone h.ctx (.branch (cDat r) true) (landSeq h.ctx [(3, .word 31, withAddr sp (vAddW (cDat sp) 1))] b))) ∧
  (∀ (h : Hd) (f : FA) (w : BitVec 48) (s t u : State) (a sp r : Cell) (tgt : VAddr) (pa : PAddr), Takes (.tcall h f) h w s →
    let x := getCtx (slotStart h.ctx s) h.ctx
    opnd x f.sa = some a → opnd x (if f.sb = 0 then 31 else f.sb) = some sp → (cTyp sp = tLOC ∨ cTyp sp = tRAW) →
    ((cTyp a = tRAW ∨ cTyp a = tLOC) ∧ tgt = cDat a) ∨ (cTyp a = tCODE ∧ vAdd (cDat a) 1 = some tgt) →
    xStackRange h.ctx (cDat sp) (slotStart h.ctx s) = .ok () (slotStart h.ctx s) →
    xlateNormal h.ctx x.level false (cDat sp) .read (slotStart h.ctx s) = .ok pa t →
    xNormal h.ctx false false (cDat sp) pa t = .ok r u → cTyp r = tRETA →
    exec (.tcall h f) s =
      .next (slotDone h.ctx (.branch tgt true) (if f.sb = 0 then u else landSeq h.ctx [(3, .word 31, sp)] u)))

/-- An instruction of another unit's class hands its operation to a twist unit: its context parks with its landings not yet arrived, and the request
enters the twist queue (R101, R155, R163, R178, R186, R230). -/
def Obligations.TwistInstructionsAreHandedOver : Prop :=
  ∀ (i : Instr) (h : Hd) (w : BitVec 48) (s : State) (a b : Cell) (dst : BitVec 5) (ls : List (Nat × Tgt)), Takes i h w s →
    let t := slotStart h.ctx s
    let x := getCtx t h.ctx
    twistOp x i = some (a, b, dst, ls) → x.ms.mv = false →
    exec i s = .next (slotDone h.ctx .seq (updCtx h.ctx (fun y => { y with park := some (.twist x.flow) })
      (twSubmit (twReq h.ctx w a b dst t) (awaits h.ctx ls t))))

/-- RSUB, RSTAT, CSCAN and EXTN park their context with the memory phase that is to be performed, its landings not yet arrived (R101, R140, R509,
R513, R540). When it can be performed, PARKING_RESULT gives its results and the context becomes READY (R276). CPROBE, CINS and CDEL park their context
on the carder, and their request waits for the skein's carder (R536, R537, R545). -/
def Obligations.ParkedInstructionsAndCarderRequests : Prop :=
  ((∀ (i : Instr) (h : Hd) (w : BitVec 48) (s : State) (op : MemOp), Takes i h w s →
     parkOp (getCtx (slotStart h.ctx s) h.ctx) i = some op →
     exec i s = .next (slotDone h.ctx .seq (updCtx h.ctx (fun x => { x with park := some (.mem op w x.flow) })
       (awaits h.ctx (opLands op) (slotStart h.ctx s))))) ∧
   (∀ (c : CtxId) (s t : State) (op : MemOp) (w : BitVec 48) (back : Flow) (a : Adv),
     s.mode ≠ .sleep → (getCtx s c).park = some (.mem op w back) → (getCtx s c).hostReq = none → twBusy s c = false →
     memArrive c w op (updCtx c (fun y => { y with
       ioIdx := 0, park := none, flow := back, land := y.land.filter fun l => l.arrived }) s) = .ok a t →
     (getCtx t c).park = none → (getCtx t c).wait = none → (getCtx t c).hostReq = none →
     exec (.parkingResult c) s = .next (resumeParked c (updCtx c (fun y => { y with ioVals := [], ioIdx := 0 }) (advance c a t))))) ∧
  (∀ (i : Instr) (h : Hd) (w : BitVec 48) (s : State) (r : CReq) (f : FX), Takes i h w s →
     cardOp (getCtx (slotStart h.ctx s) h.ctx) i = some (r, f) →
     let t := awaits h.ctx [(6, .word f.dst), (6, .pred (f.func.extractLsb' 18 3))] (slotStart h.ctx s)
     exec i s = .next (slotDone h.ctx .seq (cardAdmit (getCtx t h.ctx).skein 32
       (updSk (getCtx t h.ctx).skein (fun k => { k with cardHeld := k.cardHeld ++ [r] })
         (updCtx h.ctx (fun x => { x with park := some (.carder w x.flow) }) t)))))

/-- SVC and BKPT (R333): the exception is delivered with code 0x70 or 0x71; after SVC the context resumes at the next instruction. Entry into level
`n` through its frame (R337 to R340): w28 to w30 hold the cause, INFO and the address as RAW cells, w31 the handler's stack pointer, SVn_INFO and
SVn_ADDR hold INFO and the address, SVn_CAUSE is active with the code, the level is `n`, and the handler starts with GENCTL 0x0005, no pending
landing, no delay slot and no loop. EXCEPTION_ENTRY (R336): at the boundary before its next slot a running context takes what is due, in order: a
stop, the interrupt that goes first, or, when nothing is due or ERET skips the slot (R341), the fault of the fetch at its PC. -/
def Obligations.ExceptionsAreTakenAndSaved : Prop :=
  (∀ (h : Hd) (f : FA) (w : BitVec 48) (s : State), firstFp (getCtx (slotStart h.ctx s) h.ctx) = none →
     let t := slotStart h.ctx s
     (∀ v, Takes (.svc h f) h w s → opnd (getCtx t h.ctx) f.sa = some v →
       exec (.svc h f) s =
         .next (deliver h.ctx { code := 0x70, info := cDat v, addr := (getCtx t h.ctx).flow.pc } (advance h.ctx .seq t))) ∧
     (Takes (.bkpt h f) h w s →
       exec (.bkpt h f) s = .next (deliver h.ctx { code := 0x71, info := 0, addr := (getCtx t h.ctx).flow.pc } t))) ∧
  (∀ (c : CtxId) (n : Nat) (r : Raise) (esc : Bool) (s t : State), 1 ≤ n → n ≤ 3 → enterLevel c n n r esc s = (true, t) →
     let x := getCtx t c
     x.level = BitVec.ofNat 2 n ∧ axGet x (svCell n + 1) = r.info ∧ axGet x (svCell n + 2) = r.addr ∧
       activeBit (axGet x (svCell n)) = true ∧ (axGet x (svCell n)).extractLsb' 0 8 = r.code ∧
       wGet x 28 = sealCell (rawCell (axGet x (svCell n))) ∧ wGet x 29 = sealCell (rawCell r.info) ∧
       wGet x 30 = sealCell (rawCell r.addr) ∧ x.genctl = 0x0005 ∧ x.land = [] ∧ x.flow.dcnt = 0 ∧ x.flow.lpCnt = 0 ∧ x.res = none) ∧
  (∀ (c : CtxId) (s : State), issuing s = true → heldByFlip s (getCtx s c) = false → (getCtx s c).st = .running →
     (getCtx s c).invHold = false → fileDue s c = false →
     let t := slotStart c s
     let x := getCtx t c
     x.st = .running → x.park = none → x.entry = none → x.pendExc = none → firstFp x = none →
     (x.skip = false → x.stopReq = true → exec (.exceptionEntry c) s = .next (suspendCtx c t)) ∧
     (∀ i, x.skip = false → x.stopReq = false → bestSource t x = some i → exec (.exceptionEntry c) s = .next (deliverIrq c i t)) ∧
     (∀ e u, (x.skip = true ∨ x.stopReq = false ∧ bestSource t x = none) → fetchCheck c t = .error (.exc e) u →
       exec (.exceptionEntry c) s = .next (raiseAt c 0 e t u)))

/-- ERET (R341 to R344): when its checks pass, the context is restored from the frame of its level: its level is the PLEV of the cause, the cause is
no longer active, and the reservation ends. When a check fails it takes the exception 0x07 with the number of the check. -/
def Obligations.EretRestoresTheFrame : Prop :=
  ∀ (h : Hd) (f : FA) (w : BitVec 48) (s t : State) (v : Cell),
    let s1 := slotStart h.ctx s
    Takes (.eret h f) h w s → opnd (getCtx s1 h.ctx) f.sa = some v →
    (∀ cs skip, eretCheck h.ctx v s1 = (.inr (cs, skip), t) →
      let x := getCtx t h.ctx
      let k := if x.level = 3 ∧ activeBit (axGet x 27) then 27 else svCell x.level.toNat
      ∃ u, exec (.eret h f) s = .next (slotDone h.ctx .stay u) ∧
        (getCtx u h.ctx).level = (axGet x k).extractLsb' 44 2 ∧ activeBit (axGet (getCtx u h.ctx) k) = false ∧
        (getCtx u h.ctx).res = none ∧ (getCtx u h.ctx).skip = skip) ∧
    (∀ n, eretCheck h.ctx v s1 = (.inl n, t) → firstFp (getCtx s1 h.ctx) = none →
      exec (.eret h f) s = .next (deliver h.ctx { code := 0x07, info := dat n, addr := (getCtx s1 h.ctx).flow.pc } t))

/-- LBAR, SBAR and FBAR (R457, R458): LBAR changes nothing but that the tier-2 reads still to be performed are performed (R458, R459). SBAR places a
marker, which the stores after it carry. FBAR completes at once when every store of the context is visible, no CLEAN or FLUSH is still to be accepted
(R425) and no HOST store is to be flushed; it too performs those reads. WAITT and WAITB register their wait and the context waits for it, its
reservation ended and its tier-2 reads performed (R292, R295, R459). YIELD takes the context off its ply, READY, when a peer is, and otherwise changes
nothing (R298). SEND posts its message when the context's stores are visible, and SENDST reads 7 until the acknowledgement (R300). -/
def Obligations.BarriersWaitsAndMessagesComplete : Prop :=
  (∀ (h : Hd) (f : FA) (w : BitVec 48) (s : State),
     let t := slotStart h.ctx s
     (Takes (.lbar h f) h w s → exec (.lbar h f) s = .next (slotResult h.ctx .seq [] (bitsRead h.ctx (fun _ => true) t))) ∧
     (Takes (.sbar h f) h w s → exec (.sbar h f) s =
       .next (slotResult h.ctx .seq [] (updCtx h.ctx (fun x => { x with sbars := x.sbars + 1, hostFirst := true }) t))) ∧
     (Takes (.fbar h f) h w s → sbEmpty t h.ctx = true → (getCtx t h.ctx).cleans = [] → (getCtx t h.ctx).hostLast = none →
       exec (.fbar h f) s = .next (slotResult h.ctx .seq []
         (bitsRead h.ctx (fun _ => true) (updCtx h.ctx (fun x => { x with hostFirst := true }) t))))) ∧
  (∀ (h : Hd) (f : FA) (w : BitVec 48) (s : State),
     let t := slotStart h.ctx s
     let x := getCtx t h.ctx
     let waits (y : Wait) (t : State) : State := beginWait h.ctx (updCtx h.ctx (fun x => { x with res := none, resHold := false })
       (bitsRead h.ctx (fun _ => true) (slotResult h.ctx .seq [] (updCtx h.ctx (fun x => { x with wait := some y, wake := 0 }) t))))
     (∀ d, Takes (.waitt h f) h w s → fixOpnd x f.sa = some d → fpPending x = false →
       exec (.waitt h f) s = .next (waits { deadline := some d } t)) ∧
     (∀ v b, Takes (.waitb h f) h w s → opnd x f.sa = some v → cTyp v = tBITREF → badBitref (cDat v) = false → brTier (cDat v) = 1 →
       b = (cDat v).extractLsb' 0 16 → bitGrant t x b.toNat = true →
       sbHasDev (getSp t (ctxSp x)) h.ctx = false → bit2Forward (getSp t (ctxSp x)) h.ctx (brSkein (cDat v) (ctxSp x)) b = none → fpPending x = false →
       ∀ dl : Option Datum, (f.sb = 0 ∧ opnd x 0 = some nilCell ∧ dl = none ∨ f.sb ≠ 0 ∧ dl = fixOpnd x f.sb ∧ dl.isSome) →
       exec (.waitb h f) s = .next (waits { bit := some (.t2 (brSkein (cDat v) (ctxSp x)) b), deadline := dl }
         (bitsRead h.ctx (fun l => l.bit = some (brSkein (cDat v) (ctxSp x), b)) t))) ∧
     (Takes (.yield h f) h w s →
       (peerReady t (ctxSp x) x = false → exec (.yield h f) s = .next (slotResult h.ctx .seq [] t)) ∧
       (peerReady t (ctxSp x) x = true → fpPending x = false → exec (.yield h f) s =
         .next (slotDone h.ctx .seq (makeReady h.ctx (offPly h.ctx t))))) ∧
     (∀ d v, Takes (.send h f) h w s → fixOpnd x f.sa = some d → opnd x f.sb = some v → d.toNat ≤ 65535 → x.sendWait = [] →
       x.sendst ≠ 7 → sbEmpty t h.ctx = true → exec (.send h f) s =
         .next (slotDone h.ctx .seq (sendPost h.ctx (d.extractLsb' 0 16) v (updCtx h.ctx (fun x => { x with sendst := 7 }) t)))))

/-- CRD lands the register's value as a FIX at distance 2, with the effect of the read (R82); a CRD of TB_LO is its own row (R615). CWR lands the
value in the register at distance 3 (R83). Each needs the level that the register has for it (R84). -/
def Obligations.ControlRegistersReadAndWrite : Prop :=
  ∀ (h : Hd) (f : FC) (w : BitVec 48) (s : State),
    let t := slotStart h.ctx s
    let x := getCtx t h.ctx
    (∀ rl wl, Takes (.crd h f) h w s → crLevels f.crn.toNat = some (rl, wl) → rl ≤ x.level.toNat →
      exec (.crd h f) s = .next (slotDone h.ctx .seq (crReadEffect h.ctx f.crn.toNat
        (landSeq h.ctx [(2, .word f.dst, mkCell 0 tFIX (crRead t h.ctx f.crn.toNat))] t)))) ∧
    (Takes (.tbLoRead h f) h w s →
      exec (.tbLoRead h f) s = .next (slotDone h.ctx .seq (crReadEffect h.ctx 0x3C0
        (landSeq h.ctx [(2, .word f.dst, mkCell 0 tFIX (crRead t h.ctx 0x3C0))] t)))) ∧
    (∀ rl wl v, Takes (.cwr h f) h w s → crLevels f.crn.toNat = some (rl, wl) → wl ≤ x.level.toNat →
      opnd x f.sa = some v → fixRaw (cTyp v) = true → crGrant t x f.crn.toNat (cDat v) = none →
      exec (.cwr h f) s = .next (slotResult h.ctx .seq [(3, .creg f.crn, crCell f.crn.toNat v)] t))

/-- ZLINE, CLEAN, FLUSH, PREF and INVAL (R424 to R428): ZLINE is one entry of the store buffer; CLEAN and FLUSH write back, and FLUSH also
invalidates, every copy of the line of a NORMAL cell, where the data caches are enabled, no fill of the line is in flight (R443) and, for FLUSH, no
other spindle holds it for an LR (R473); what was modified is noted until its controller accepts it; PREF fills the line when its translation passes
and otherwise, or where its operand fails a check, does nothing; INVAL invalidates all instruction-cache lines, or one. -/
def Obligations.CacheInstructionsAct : Prop :=
  (∀ (h : Hd) (f : FM) (w : BitVec 48) (s : State) (va : VAddr),
    let t := slotStart h.ctx s
    let x := getCtx t h.ctx
    ea x f.adr f.disp.toInt = some va →
    (∀ u b pa, Takes (.zline h f) h w s → xlateNormal h.ctx x.level false (vMk (vSeg va) (vOff va / 8 * 8)) .write t = .ok pa u →
      sbPutAll h.ctx [{ ctx := h.ctx, sbar := (getCtx u h.ctx).sbars, kind := .zline (lineOf pa) }] u = ([], b) →
      exec (.zline h f) s = .next (slotDone h.ctx .seq b)) ∧
    (∀ u pa mt, Takes (.clean h f) h w s → xlate h.ctx x.level false va .read t = .ok (pa, mt) u →
      (mt = 0 → heldAny u (lineOf pa) = false) →
      exec (.clean h f) s = .next (slotDone h.ctx .seq
        (if mt = 0 ∧ (getSk u x.skein).dstate ≠ 2 then cleanLine (lineOf pa) false (noted h.ctx (lineOf pa) u) else u))) ∧
    (∀ u pa mt, Takes (.flush h f) h w s → xlate h.ctx x.level false va .read t = .ok (pa, mt) u →
      (mt = 0 → heldAny u (lineOf pa) = false ∧ lineHeld (some (ctxSp x)) (lineOf pa) u = false) →
      exec (.flush h f) s = .next (slotDone h.ctx .seq
        (if mt = 0 ∧ (getSk u x.skein).dstate ≠ 2 then cleanLine (lineOf pa) true (noted h.ctx (lineOf pa) u) else u))) ∧
    (∀ u pa, Takes (.pref h f) h w s → prefXlate h.ctx x.level va t = (some pa, u) →
      exec (.pref h f) s = .next (slotDone h.ctx .seq (prefFill h.ctx (lineOf pa) u))) ∧
    (∀ u, Takes (.pref h f) h w s → prefXlate h.ctx x.level va t = (none, u) → exec (.pref h f) s = .next (slotDone h.ctx .seq u))) ∧
  (∀ (h : Hd) (f : FM) (w : BitVec 48) (s : State) (v : Cell), Takes (.pref h f) h w s → opnd (getCtx (slotStart h.ctx s) h.ctx) f.adr = some v →
    (adrOk v = false ∨ vAdd (cDat v) f.disp.toInt = none) → exec (.pref h f) s = .next (slotResult h.ctx .seq [] (slotStart h.ctx s))) ∧
  (∀ (h : Hd) (f : FA) (w : BitVec 48) (s : State) (n : Datum),
    let t := slotStart h.ctx s
    let x := getCtx t h.ctx
    Takes (.inval h f) h w s → fixOpnd x f.sb = some n →
    (f.sa = 0 → opnd x 0 = some nilCell → (n = 1 ∨ (n = 3 ∧ (getSp t (ctxSp x)).ibusy = [])) →
      exec (.inval h f) s = .next (slotDone h.ctx .seq (doInval h.ctx none (decide (n = 3)) t))) ∧
    (∀ a u pa mt, opnd x f.sa = some a → adrOk a = true → (n = 0 ∨ (n = 2 ∧ (getSp t (ctxSp x)).ibusy = [])) →
      xlate h.ctx x.level false (cDat a) .read t = .ok (pa, mt) u →
      exec (.inval h f) s =
        .next (slotDone h.ctx .seq (if mt = 0 then doInval h.ctx (some (lineOf pa)) (decide (n = 2)) u else u))))

/-- TLBW, TLBLK, TLBINV, TLBINVS and TLBRD (R391 to R395). TLBW removes overlapping entries and installs a valid pair; TLBLK does so with a locked
ITLB entry; TLBINV and TLBINVS invalidate a page, a descriptor or the entries of tags, here and, broadcast, on the other spindles; TLBRD lands the E1
of a matching entry, or UNSET. SHOOTDOWN, SHOOTDOWN_COMPLETE and INVAL_BROADCAST (R397, R398, R428). A target applies the invalidation, and
acknowledges where no access that it has translated is still to be completed: a store, a fill for it, a HOST load on its way; SBUSY of the issuer
clears with the last acknowledgement. A target of a broadcast INVAL applies it, and IBUSY falls with the last one: an INVAL that waits in its slot may
issue then, and a move of the issuing context that waits for it begins. -/
def Obligations.TlbInstructionsAndBroadcastsAct : Prop :=
  (∀ (h : Hd) (f : FA) (w : BitVec 48) (s : State),
     let t := slotStart h.ctx s
     let x := getCtx t h.ctx
     let q := ctxSp x
     (∀ e0 e1, pair x f tRAW tRAW = some (e0, e1) → entBad e0 e1 = false →
       let meets : TlbEnt → Bool := fun e => entOverlap e (bits e0.toNat 36 12) (pageSpan e0 e1).1 (pageSpan e0 e1).2
       let u := updSp q (tlbRemove meets false) t
       (Takes (.tlbw h f) h w s → e1.getLsbD 47 = false → exec (.tlbw h f) s = .next (slotDone h.ctx .seq u)) ∧
       (Takes (.tlbw h f) h w s → e1.getLsbD 47 = true → pageGranted u (getCtx u h.ctx) e1 = true →
         exec (.tlbw h f) s = .next (slotDone h.ctx .seq (updSp q (fun p =>
           let p := dtlbIns (entryOf x e0 e1 false) p
           if e1.getLsbD 41 && !p.itlb.any (fun i => i.2.locked && meets i.2) then itlbIns (entryOf x e0 e1 false) p else p) u))) ∧
       (Takes (.tlblk h f) h w s → e1.getLsbD 47 = false →
         exec (.tlblk h f) s = .next (slotDone h.ctx .seq (updSp q (fun p => { p with itlb := p.itlb.filter fun i => !meets i.2 }) t))) ∧
       (Takes (.tlblk h f) h w s → e1.getLsbD 47 = true → pageGranted t x e1 = true →
         ((getSp t q).itlb.filter fun i => i.2.locked && !meets i.2).length < 16 →
         exec (.tlblk h f) s = .next (slotDone h.ctx .seq
           (updSp q (fun p => itlbIns (entryOf x e0 e1 true) { p with itlb := p.itlb.filter fun i => !meets i.2 }) t)))) ∧
     (∀ a n, Takes (.tlbinv h f) h w s → pair x f tRAW tFIX = some (a, n) → n.toNat < 8 → (bitN n.toNat 0 = true → bits a.toNat 8 28 = 0) →
       (bitN n.toNat 1 = true → (axGet x 30).getLsbD 47 = false) →
       exec (.tlbinv h f) s = .next (slotDone h.ctx .seq (doShoot h.ctx
         (if bitN n.toNat 0 then .seg (a.extractLsb' 36 12) (a.extractLsb' 0 8) else .page a (bitN n.toNat 2)) (bitN n.toNat 1) t))) ∧
     (∀ a n, Takes (.tlbinvs h f) h w s → pair x f tFIX tFIX = some (a, n) → a.toNat ≤ 4095 → n.toNat < 16 → bitN n.toNat 0 = false →
       (x.hv = true → tagIn (getHank t x.hank).cur (a.extractLsb' 0 12) = true) →
       (bitN n.toNat 1 = true → (axGet x 30).getLsbD 47 = false) →
       let g := (getHank t x.hank).cur
       exec (.tlbinvs h f) s = .next (slotDone h.ctx .seq (doShoot h.ctx
         (.space (if bitN n.toNat 3 then (if x.hv then (g.taglo.toNat, g.taghi.toNat) else (0, 4095)) else (a.toNat, a.toNat))
           (bitN n.toNat 3) (bitN n.toNat 2)) (bitN n.toNat 1) t))) ∧
     (∀ a, Takes (.tlbrd h f) h w s → opnd x f.sa = some a → cTyp a = tRAW →
       let tag : BitVec 12 := (cDat a).extractLsb' 36 12
       let lin := 4096 * bits (cDat a).toNat 0 36
       exec (.tlbrd h f) s = .next (slotResult h.ctx .seq [(4, .word f.dst,
         match tlbFind (getSp t q).dtlb tag lin, tlbFind (getSp t q).itlb tag lin with
         | some e, _ => mkCell 0 tRAW e.e1
         | none, some e => mkCell 0 tRAW e.e1
         | none, none => unsetCell)] t))) ∧
  ((∀ (c : CtxId) (q : SpId) (b : Bcast) (s : State), (s.bcasts.find? fun b => decide (b.ctx = c) && b.todo.contains q) = some b →
     let u := updAllCtx (fun _ x => if ctxSp x = q ∧ !x.hostSent then { x with hostReq := none } else x) (updSp q (invApply b.op) s)
     (accessOut q u = false → exec (.shootdown c q) s = .next { u with
       bcasts := u.bcasts.map fun x => if x.ctx = c ∧ x.gen = b.gen then { x with todo := x.todo.filter fun p => p ≠ q } else x }) ∧
     (accessOut q u = true → exec (.shootdown c q) s = .next u)) ∧
   (∀ (c : CtxId) (b : Bcast) (s : State), (s.bcasts.find? fun b => decide (b.ctx = c) && b.todo.isEmpty) = some b →
     let u : State := { s with bcasts := s.bcasts.filter fun x => !(decide (x.ctx = c) && decide (x.gen = b.gen)) }
     ((getCtx s c).gen = b.gen → exec (.shootdownComplete c) s = .next (setAx c 30 (setBit (axPeek u c 30) 47 false) u)) ∧
     ((getCtx s c).gen ≠ b.gen → exec (.shootdownComplete c) s = .next u)) ∧
   (∀ (q t : SpId) (s : State), (getSp s q).ibusy.contains t = true → q ≠ t →
     let u := updSp q (fun p => { p with ibusy := p.ibusy.filter fun x => x ≠ t }) (icApply t (getSp s q).ibLine s)
     ((getSp s q).ibusy.filter (fun x => x ≠ t) ≠ [] → exec (.invalBroadcast q t) s = .next u) ∧
     ((getSp s q).ibusy.filter (fun x => x ≠ t) = [] →
       let v := updAllCtx (fun _ x => if ctxSp x = q then { x with invHold := false } else x)
         (updSp q (fun p => { p with ibCtx := none, ibLine := none }) u)
       exec (.invalBroadcast q t) s = .next (match (getSp s q).ibCtx with
         | some c => startMove c v
         | none => v))))

/-- EXTENSION_MESSAGE_SEND, EXTREPLY and EXTENSION_TIMEOUT (R140 to R144, R591). The message of 32 bytes is sent, kept as outstanding, and counted in
the sequence number. A reply that matches delivers its cell, and the context goes on; a reply that matches nothing is discarded and counted, as one
after the timeout is; a reply to a hank whose incarnation has ended is counted in STALECNT too (R568). At the timeout the instruction takes exception
0x3A. -/
def Obligations.ExtensionMessagesAreSentAndAnswered : Prop :=
  (∀ (c : CtxId) (n : BitVec 3) (a b : Cell) (func : BitVec 21) (dst : BitVec 5) (w : BitVec 48) (back : Flow) (s : State),
    let x := getCtx s c
    let m : ExtMsg :=
      { seq := s.extSeq, gen := if x.hv then (getHank s x.hank).gen else 0, ctx := c, cgen := x.gen, n := n, func := func
        cella := a, cellb := b, hv := x.hv, hank := x.hank, due := s.tb + 1000 * s.host.extTmo.toNat }
    x.park = some (.mem (.extn n a b func dst) w back) → sbEmpty s c = true → linkUp s = true →
    ∃ t, exec (.extensionMessageSend c) s = .next t ∧ t.extSeq = s.extSeq + 1 ∧ t.extOut = s.extOut ++ [m] ∧
      t.host.out = s.host.out ++ [.write ((mapGet 0 s.host.extTgt n.toNat : BitVec 59) ++ (0 : BitVec 5))
        [a, b, m.gen ++ c ++ (0 : BitVec 1) ++ b1 x.hv ++ (if x.hv then x.hank else 0) ++ n ++ func, (0 : BitVec 32) ++ s.extSeq]
        false false false] ∧
      (getCtx t c).park = some (.ext s.extSeq w back) ∧ t.mem = s.mem) ∧
  (∀ (seq : BitVec 32) (gen : BitVec 16) (v : Cell) (m : ExtMsg) (s : State), served s = true →
    (s.extOut.find? fun m => m.seq = seq) = some m →
    let u := reach hostSector (getCtx s m.ctx).skein { s with extOut := s.extOut.filter fun n => n.seq ≠ seq }
    (m.gen = gen → (m.hv = true → (getHank s m.hank).gen = gen) → s.tb < m.due → cTyp (sealCell v) ≠ tRETA → cTyp (sealCell v) ≠ tFWD → isReserved (cTyp (sealCell v)) = false →
      isBad (blockOf u m.ctx) (sealCell v) = false →
      exec (.extreply seq gen 0 v) s = .next (resumeParked m.ctx (deliverBy m.ctx (fun t => match t with
        | .word _ => some (sealCell v)
        | _ => none) u))) ∧
    (m.due ≤ s.tb ∨ m.gen ≠ gen ∨ m.hv = true ∧ (getHank s m.hank).gen ≠ gen →
      exec (.extreply seq gen 0 v) s = .next (discarded m.hv m.hank gen s))) ∧
  (∀ (seq : BitVec 32) (gen : BitVec 16) (status : BitVec 8) (v : Cell) (s : State), served s = true →
    (s.extOut.find? fun m => m.seq = seq) = none →
    ((s.extGone.find? fun m => m.1 = seq) = none → exec (.extreply seq gen status v) s = .next (logEvent 0x16 4 37 0 none none 0 s)) ∧
    (∀ m, (s.extGone.find? fun m => m.1 = seq) = some m → exec (.extreply seq gen status v) s = .next (discarded true m.2.2 gen s))) ∧
  (∀ (seq : BitVec 32) (m : ExtMsg) (s : State), (s.extOut.find? fun m => m.seq = seq) = some m → m.seq = seq →
    (s.tb < m.due → exec (.extensionTimeout seq) s = .next s) ∧
    (m.due ≤ s.tb → exec (.extensionTimeout seq) s = .next (parkFault m.ctx (parkBack (getCtx s m.ctx))
      { code := 0x3A, info := seq.setWidth 48 } { s with
        extOut := s.extOut.filter fun n => n.seq ≠ seq
        extGone := if m.hv then s.extGone ++ [(seq, m.gen, m.hank)] else s.extGone })))

/-- PLY_PREPARE, SWITCH_IN and QUANTUM_EXPIRY (R282 to R289). The READY context of highest priority is loaded, with its annex, into an empty idle ply,
unless the READY context of the kept ply comes first. A spindle whose issuing ply is empty starts its prepared context, and so does one whose issuing
ply is kept for a context that is not READY; a READY one that comes first, or that no prepared context follows, runs on on its kept ply, its slots
counted on. A prepared context of higher priority takes over from the running one, which becomes READY. When its quantum expires a running context
gives way to a prepared one of at least its priority; without such a peer its count restarts. STARVATION, STEALING and DEADLINE_PASSES (R290, R291,
R295). A READY context that has not issued for STARVE µs, by the slow clock since it issued or was created (the model's reading, log entry 171), is
preferred. A spindle without READY contexts takes the oldest movable one of PIN 0 or 1 from the busiest spindle of its skein. A waiting context whose
deadline has passed becomes READY with WAKE 2. -/
def Obligations.PliesSwitchAndWaitingContextsWake : Prop :=
  (∀ (q : SpId) (s : State), issuing s = true → outOfService s q = false → (getSp s q).rst = none →
     let p := getSp s q
     (∀ n x, (getSk s (spSk q)).parked = false → bestReady s (readyOff s q) = some (n, x) → idleCtx p = none →
       keptFirst s q x = false →
       exec (.plyPrepare q none) s = .next (updSp q (fun p =>
         if p.issB then { p with plyA := some (BitVec.ofNat 16 n), prepared := true }
         else { p with plyB := some (BitVec.ofNat 16 n), prepared := true }) (annexLoad (BitVec.ofNat 16 n) s))) ∧
     (∀ d, readyPrepared s q = some d → issuingCtx p = none →
       exec (.switchIn q) s = .next (updCtx d (fun x => { x with st := .running })
         (updSp q (fun p => { p with issB := !p.issB, prepared := false, quantum := 0 }) s))) ∧
     (∀ d c, readyPrepared s q = some d → issuingCtx p = some c → (getCtx s c).st ≠ .running → (getCtx s c).st ≠ .ready →
       fpPending (getCtx s c) = false →
       exec (.switchIn q) s = .next (dropIdle q (updCtx d (fun x => { x with st := .running })
         (updSp q (fun p => { p with issB := !p.issB, prepared := false, quantum := 0 }) s)))) ∧
     (∀ c, issuingCtx p = some c → (getCtx s c).st = .ready → heldByFlip s (getCtx s c) = false →
       (∀ d, readyPrepared s q = some d → fpPending (getCtx s c) = true ∨ outranks s (getCtx s c) (getCtx s d) = true) →
       exec (.switchIn q) s = .next (updCtx c (fun x => { x with st := .running }) s)) ∧
     (∀ d c, readyPrepared s q = some d → issuingCtx p = some c → (getCtx s c).st = .ready → fpPending (getCtx s c) = false →
       outranks s (getCtx s c) (getCtx s d) = false →
       exec (.switchIn q) s = .next (dropIdle q (updCtx d (fun x => { x with st := .running })
         (updSp q (fun p => { p with issB := !p.issB, prepared := false, quantum := 0 }) s)))) ∧
     (∀ d c, readyPrepared s q = some d → issuingCtx p = some c → (getCtx s c).st = .running → heldByFlip s (getCtx s c) = false →
       (getCtx s c).invHold = false → fpPending (getCtx s c) = false →
       let u := makeReady c (dropIdle q (updCtx d (fun x => { x with st := .running })
         (updSp q (fun p => { p with issB := !p.issB, prepared := false, quantum := 0 }) s)))
       ((getCtx s c).boost = false → effPrio s (getCtx s d) > (getCtx s c).prio.toNat → exec (.switchIn q) s = .next u) ∧
       ((getCtx s c).boost = false → s.quantum ≠ 0 → s.quantum.toNat ≤ p.quantum → effPrio s (getCtx s d) ≥ (getCtx s c).prio.toNat →
         exec (.quantumExpiry q) s = .next (preempt q c (updCtx c (fun x => { x with boost := false }) s)))) ∧
     (∀ c, issuingCtx p = some c → (getCtx s c).st = .running → heldByFlip s (getCtx s c) = false → (getCtx s c).invHold = false →
       s.quantum ≠ 0 → s.quantum.toNat ≤ p.quantum → (readyOn s q) = [] → idleCtx p = none →
       exec (.quantumExpiry q) s =
         .next (updSp q (fun p => { p with quantum := 0 }) (updCtx c (fun x => { x with boost := false }) s)))) ∧
  ((∀ (c : CtxId) (s : State), (getCtx s c).st = .ready → s.starve ≠ 0 → (getCtx s c).issuedAt + 1000 * s.starve.toNat ≤ s.m.clock →
     exec (.starvation c) s = .next (updCtx c (fun x => { x with boost := true }) s)) ∧
   (∀ (q b : SpId) (n : Nat) (x : Ctx) (s : State), readyOn s q = [] → outOfService s q = false → busiest s (spSk q) = some b →
     oldest ((readyOn s b).filter fun e =>
       decide (e.2.pin.toNat ≤ 1) && e.2.mig.isNone && canMove s (BitVec.ofNat 16 e.1) true && spAllowed s e.2.hv e.2.hank q) = some (n, x) →
     exec (.stealing q) s = .next (startMove (BitVec.ofNat 16 n)
       (updCtx (BitVec.ofNat 16 n) (fun x => { x with mig := some (spSk q, spLs q), migSrc := none }) s))) ∧
   (∀ (c : CtxId) (b : Option BitKey) (d : Datum) (s : State), (getCtx s c).st = .waiting →
     (getCtx s c).wait = some { bit := b, deadline := some d } → passed s d = true →
     exec (.deadlinePasses c) s = .next (makeReady c (updCtx c (fun x => { x with wait := none, wake := 2 }) s))))

/-- MIGRATION_INSTALL, THERMAL_MIGRATION and SEND_ACKNOWLEDGED (R300, R302, R307, R642). A moved image is installed in its target; a migration result
is reported to the issuer. A context of the hottest skein moves to the coolest one with a free slot, 100 µs of the slow clock after the one before
(log entry 171). An acknowledgement sets SENDST, and SENDERR when it is not 0, and the first of the SENDs that wait is posted then; with the last of
them the context becomes READY. -/
def Obligations.MovesInstallAndSendsAreAcknowledged : Prop :=
  (∀ (c : CtxId) (s : State), let x := getCtx s c
    x.st = .moving → x.heldItems = [] → x.movedFrom = .suspended →
    spAllowed s x.hv x.hank (x.toSkein ++ x.toLspin) = true → outOfService s (x.toSkein ++ x.toLspin) = false →
    let u := updCtx c (fun x =>
      { x with st := .suspended, skein := x.toSkein, lspin := x.toLspin, img := x.imgTo, heldItems := [], migSrc := none })
      (reach (skSector x.skein) x.toSkein s)
    exec (.migrationInstall c) s = .next (Machine.answer x.migSrc (ctxRes u 0 c) u)) ∧
  (∀ (c : CtxId) (j k : Nat) (l : BitVec 4) (s : State), let x := getCtx s c
    let h := hottest s
    let spread : Int := (getDom s h).temp - (getDom s j).temp
    coolest s = some j → migTarget s = some k → k ≠ h → s.m.pwr.tmigAt ≤ s.m.clock → (objGet s 0x2104 1).getLsbD 2 = true → spread > 8 * ((objGet s 0x2104 4).toNat : Int) →
    (getDom s h).temp ≥ 8 * (((objGet s 0x2103 1).setWidth 8 : BitVec 8).toInt - 10) → x.skein.toNat = h →
    (x.st = .ready ∨ x.st = .waiting) → x.pin = 0 → x.mig = none → canMove s c false = true →
    anySpindle s (BitVec.ofNat 5 k) x.hv x.hank = some l →
    exec (.thermalMigration c) s = .next (startMove c (updCtx c (fun x => { x with mig := some (BitVec.ofNat 5 k, l), migSrc := none })
      (updM (fun m => { m with pwr := { m.pwr with tmig := true, tmigAt := s.m.clock + 100000 } }) s)))) ∧
  (∀ (c : CtxId) (n : BitVec 3) (s : State), (getCtx s c).sendOut = some (some n) → (getCtx s c).sendWait = [] →
    exec (.sendAcknowledged c) s = .next (updCtx c (fun x =>
      { x with sendst := n, senderr := x.senderr || decide (n ≠ 0), sendOut := none }) s)) ∧
  (∀ (c d : CtxId) (v : Cell) (rest : List (CtxId × Cell)) (s : State), (getCtx s c).sendOut = none →
    (getCtx s c).sendWait = (d, v) :: rest → (getCtx s c).sendst ≠ 7 → sbEmpty s c = true →
    let u := sendPost c d v (updCtx c (fun x => { x with sendst := 7, sendWait := rest }) s)
    (rest = [] → (getCtx s c).st = .waiting → (getCtx s c).wait = some {} →
      exec (.sendAcknowledged c) s = .next (makeReady c (updCtx c (fun x => { x with wait := none }) u))) ∧
    (rest ≠ [] → exec (.sendAcknowledged c) s = .next u))

/-- CREATE, DESTROY, SUSPEND, RESUME, MIGRATE, SETPRIO, WAKE and QUERY (R265, R266, R296, R304, R313 to R318), of a context or of the host: what the
command does to its target, with status 0 in the issuer's result register. The command crosses the fabric to the target's home skein, and wakes it
(R27, R269). -/
def Obligations.ContextCommandsActOnTheirTarget : Prop :=
  ∀ (m : CtxCmd) (s : State), commands m s = true →
    let c := m.ctx
    let t := hear (srcSector s m.src) c s
    let x := getCtx t c
    let src := match m.src with
      | .ctx d => ((getCtx t d).hv, (getCtx t d).hank, axGet (getCtx t d) 8)
      | _ => (false, 0, t.hctxarg)
    (x.st = .free → b2n m.lvl ≤ cmdLevel t m.src → t.annexEn = true → slotsUsed t (spSk (homeSp c)) < 2048 → src.1 = false →
      outOfService t (homeSp c) = false →
      let y : Ctx :=
        { gen := x.gen + 1, issuedAt := t.m.clock, level := if m.lvl then 1 else 0, prio := m.prio, pin := if m.pin = 3 then 0 else m.pin
          skein := spSk (homeSp c), lspin := spLs (homeSp c), img := freeSlot t (spSk (homeSp c))
          flow := { pc := src.2.2 }, genctl := 0x0005, ax := newAnnex t m.src false c }
      exec (.create m) s = .next (reported m s 0
        ((upto 32).foldl (fun u i => annexPut c i (rawCell (axGet y i)) u) (makeReady c (setCtx t c y))))) ∧
    (x.st ≠ .free →
      exec (.destroy m) s = .next (reported m s 0 (destroyCtx c t)) ∧
        ∃ g k l, getCtx (destroyCtx c t) c = { gen := g, skein := k, lspin := l }) ∧
    (x.st ≠ .free → x.st ≠ .suspended → fpPending x = false → (x.st = .running → x.invHold = false) → x.stopSrc = none →
      exec (.suspend m) s = .next (reported m s 0 (updCtx c (fun y =>
        { y with st := .suspended, suspFrom := if y.st = .running then .ready else y.st, resArrived := false, wakeRec := false
                 stopReq := false, stopSrc := none, invHold := false }) (offPly c t)))) ∧
    (x.st = .suspended → (axPeek t c 27).getLsbD 46 = false → (x.resArrived = true ∨ x.wakeRec = true ∨ x.suspFrom = .ready) →
      exec (.resume m) s = .next (reported m s 0 (makeReady c (updCtx c (fun y => { y with resArrived := false, wakeRec := false }) t)))) ∧
    (x.st ≠ .free → m.up = none → ∀ d : SkId × BitVec 4, migrateTo m t = (0, some d) → canMove t c true = true → d.1 = x.skein → x.mig = none →
      (x.ms.mv = false ∨ x.ms.kind ≠ 3) →
      exec (.migrate m) s = .next (reported m s 0 (updCtx c (fun y => { y with lspin := d.2, mig := none, migSrc := none, migHold := false })
        (offPly c (fpRelease c true (endStreams c (updCtx c (fun y => { y with mig := some d, migSrc := none }) t))))))) ∧
    (x.st ≠ .free → m.up = none → x.prio ≠ m.prio →
      exec (.setprio m) s = .next (reported m s 0 (updCtx c (fun y => { y with prio := m.prio }) t))) ∧
    (x.st = .waiting → exec (.wake m) s = .next (reported m s 0 (makeReady c (updCtx c (fun y => { y with wait := none, wake := 6 }) t)))) ∧
    (x.st ≠ .free → exec (.query m) s = .next (reported m s 0 t))

/-- DOORBELL, HIRQ, IPISEND, IPEND_WRITE and XCTL_WRITE (R296, R303, R321, R328 to R330): flags and pending bits are set, and a waiting context that
they concern wakes; a write of IPEND clears, then sets, and never sets source 7; a write of XCTL changes PREC, and the MASK of the sources that the
writer's level may change. -/
def Obligations.InterruptsAndDoorbellsReachContexts : Prop :=
  (∀ (c : CtxId) (s : State), served s = true → (getCtx s c).st ≠ .free → (getCtx s c).hv = false →
    let t := hear hostSector c s
    (getCtx t c).st ≠ .free → (getCtx t c).st ≠ .moving →
    let u := updCtx c (fun x => { x with db := true }) t
    let v := setAx c 26 (axPeek t c 26 ||| 4) (heard c t)
    exec (.doorbell c) s = .next (if (axGet (getCtx t c) 6).getLsbD 1 then wakeCtx c 4 u else u) ∧
    exec (.hirq c) s = .next (if (bestSource v (getCtx v c)).isSome then wakeCtx c 5 v else v)) ∧
  (∀ (c t : CtxId) (s : State), exists_ c s = true →
    let x := getCtx s c
    let r := hear (skSector x.skein) t s
    let v := setAx t 26 (axPeek r t 26 ||| 2) (heard t r)
    (sbEmpty s c = true → (getCtx s t).st ≠ .free → (getCtx r t).st ≠ .free → (getCtx r t).st ≠ .moving → hankOfNum s t = (if x.hv then some x.hank else none) →
      exec (.ipisend c t) s = .next (if (bestSource v (getCtx v t)).isSome then wakeCtx t 5 v else v)) ∧
    (sbEmpty s c = false → exec (.ipisend c t) s = .next (updCtx c (fun x => { x with ipiOut := x.ipiOut ++ [t] }) s))) ∧
  (∀ (c : CtxId) (v : Datum) (s : State), exists_ c s = true →
    let old := axGet (getCtx s c) 25
    let l := (getCtx s c).level.toNat
    exec (.ipendWrite c v) s = .next (setAx c 26 (((axGet (getCtx s c) 26 &&& ~~~v) ||| (v >>> 8)) &&& 0x7F) s) ∧
    ∃ n : Datum, exec (.xctlWrite c v) s = .next (setAx c 25 n s) ∧ n.getLsbD 25 = v.getLsbD 25 ∧
      ∀ i, i < 7 → n.getLsbD i = if l = 0 ∨ max 1 (bits old.toNat (8 + 2 * i) 2) > l then old.getLsbD i else v.getLsbD i)

/-- ANNEXBASE_WRITE, COLBASE_WRITE and HFPBASE_WRITE (R318, R485, R556): EN and BASE are set while every context, or every hank, is FREE; otherwise
the write is discarded and counted. FPSA_WRITE, SPILL, DISCARD, SPACE_WRITE, HPTCFG_WRITE and INBBASE_WRITE (R198, R201, R256, R312, R365, R380), of a
context that no hank owns: FPSA is set, SAVED cleared and the f file given up unsaved; a spill puts four line entries into the store buffer and sets
SAVED; the micro-state record ends; SPACE, HPTCFG and the inbox ring are set as the rules normalise them. A write of one of them that the grant of its
context's hank refuses raises the hank-grant fault there (R365, R380, R554). -/
def Obligations.TableBasesAndSpecialRegisters : Prop :=
  (∀ (v : BitVec 64) (s : State), served s = true →
     let en := v.getLsbD 63
     let base : PAddr := v.extractLsb' 0 40
     let drop := logOnly 0x2A 4 39 0 none none 0 s
     (allFree s = true → exec (.annexbaseWrite v) s = .next { s with annexEn := en, annexBase := base } ∧
       exec (.colbaseWrite v) s = .next { s with colEn := en, colBase := base }) ∧
     (allFree s = false → exec (.annexbaseWrite v) s = .next drop ∧ exec (.colbaseWrite v) s = .next drop) ∧
     ((s.hanks.all fun h => h.2.state = 0) = true → exec (.hfpbaseWrite v) s = .next { s with hfpEn := en, hfpBase := base }) ∧
     ((s.hanks.all fun h => h.2.state = 0) = false → exec (.hfpbaseWrite v) s = .next drop)) ∧
  ((∀ (c : CtxId) (v i : Datum) (s : State), exists_ c s = true → (getCtx s c).st = .running →
     (crGrant s (getCtx s c) 0x200 v = some i → exec (.spaceWrite c v) s = .next (raiseAt c 0 { code := 0x5C, info := i } s s)) ∧
     (crGrant s (getCtx s c) 0x203 v = some i → exec (.hptcfgWrite c v) s = .next (raiseAt c 0 { code := 0x5C, info := i } s s)) ∧
     (crGrant s (getCtx s c) 0x048 v = some i → exec (.fpsaWrite c v) s = .next (raiseAt c 0 { code := 0x5C, info := i } s s)) ∧
     (crGrant s (getCtx s c) 0x0C4 v = some i → exec (.inbbaseWrite c v) s = .next (raiseAt c 0 { code := 0x5C, info := i } s s))) ∧
   (∀ (c : CtxId) (v : Datum) (s : State), exists_ c s = true → (getCtx s c).hv = false →
     exec (.fpsaWrite c v) s =
       .next (fpRelease c false (updCtx c (fun x => { x with fpSaved := false }) (setAx c 5 (v &&& 0xFFFFFFFFE0) s))) ∧
     (∀ u, (getSp s (ctxSp (getCtx s c))).fpOwner = some c → (getSp s (ctxSp (getCtx s c))).fpWritten = true → fpsaZero (getCtx s c) = false →
       (getCtx s c).park = none →
       sbPutAll c ((upto 4).map fun j =>
         { ctx := c, sbar := (getCtx s c).sbars
           kind := .line (lineOf (fpCell (getCtx s c) (8 * j))) ((upto 8).map fun i =>
             ((fpCell (getCtx s c) (8 * j + i)).toNat, (fpImage (getSp s (ctxSp (getCtx s c)))).getD (8 * j + i) 0)) }) s = ([], u) →
       (getCtx u c).park = none → (getCtx u c).wait = none →
       exec (.spill c) s = .next (updCtx c (fun x => { x with fpSaved := true }) u)) ∧
     exec (.discard c) s = .next (updCtx c (fun x => { x with ms := {} }) s) ∧
     exec (.spaceWrite c v) s = .next (setAx c 28 (v &&& 0xFFF07FFFFFFF) s) ∧
     exec (.hptcfgWrite c v) s = .next (setAx c 31 (hptNorm v) s) ∧
     exec (.inbbaseWrite c v) s = .next (updCtx c (fun x => { x with inbBase := inbNorm v, inbHead := 0, inbTail := 0 }) s)))

/-- XFRAME_WRITE and HIRQ (R321): while every context is FREE a write sets EN and BASE of the frame table of L1, L2, L3 or the double fault, which the
register then reads; otherwise the write is discarded and counted in counter 0x2A. HIRQ sets interrupt source 2 of a non-hank context, in either case,
and reads 0. -/
def Obligations.FrameTablesAreSetOnlyWhileFree : Prop :=
  ∀ (v : BitVec 64) (n : BitVec 2) (s : State), served s = true →
    (allFree s = true →
      exec (.xframeWrite n v) s =
        .next { s with frames := mapSet (false, 0) s.frames (n.toNat + 1) (v.getLsbD 63, v.extractLsb' 0 40) }) ∧
    (allFree s = false → ∃ t, exec (.xframeWrite n v) s = .next t ∧ t.frames = s.frames ∧ t.ctxs = s.ctxs ∧ t.mem = s.mem ∧
      mapGet 0 t.counters 0x2A = min (2 ^ 32 - 1) (mapGet 0 s.counters 0x2A + 1)) ∧
    exec (.hostRegisterAccess 0 (BitVec.ofNat 22 (0x5030 + 8 * n.toNat)) 8 false 0) s = .next (updHost (fun h =>
      { h with ans := .data (b1 (mapGet (false, 0) s.frames (n.toNat + 1)).1 ++ (0 : BitVec 23) ++
          (mapGet (false, 0) s.frames (n.toNat + 1)).2) }) s) ∧
    exec (.hostRegisterAccess 0 0x5050 8 false 0) s = .next (updHost (fun h => { h with ans := .data 0 }) s) ∧
    (∀ c : CtxId, (getCtx s c).st ≠ .free → (getCtx s c).hv = false → exec (.hirq c) s = .next (raiseIrq c 2 (hear hostSector c s)) ∧
      ((getCtx s c).st ≠ .moving → (axGet (getCtx (raiseIrq c 2 (hear hostSector c s)) c) 26).getLsbD 2 = true))

/-- TWIST_START, OVERFLOW_ADMISSION and MICRO_TRAP, TWIST_YIELD (R231, R234, R245, R247, R248). A free unit takes the request at the head of the
queue, with SA and SB in t0 and t1. The oldest overflow request enters a queue that has room. At a safe point a requested micro-trap writes the
micro-state record and frees the unit: for an interrupt (KIND 0) the instruction is issued again, for a yield (KIND 2) the request is queued again. -/
def Obligations.TwistUnitsStartYieldAndTrap : Prop :=
  (∀ (k : SkId) (u : BitVec 2) (entry : BitVec 14) (r : TwReq) (rest : List TwReq) (s : State), (getSk s k).twq = r :: rest →
    (getUnit s k u).req = none → (getUnit s k u).off = false → s.m.entering = false → s.mode ≠ .sleep → r.cont = false →
    exec (.twistStart k u entry) s = .next (setUnit k u
      { unitFree (getUnit s k u) with req := some { r with cont := false }, upc := entry, t := mapSet 0 (mapSet 0 [] 0 r.sa) 1 r.sb }
      (updSk k (fun y => { y with twq := rest }) s))) ∧
  (∀ (k : SkId) (d : CtxId) (r : TwReq) (rest : List CtxId) (s : State), (getSk s k).twOvf = d :: rest → (getSk s k).twq.length < 64 →
    (getCtx s d).deferred = none → (getCtx s d).ms.mv = true → (getCtx s d).ms.kind = 4 → (getCtx s d).ms.req = some r →
    exec (.overflowAdmission k) s = .next (updSk k (fun y => { y with twq := y.twq ++ [r] })
      (updCtx d (fun x => { x with ms := {} }) (updSk k (fun y => { y with twOvf := rest }) s)))) ∧
  (∀ (k : SkId) (u : BitVec 2) (up : BitVec 144) (r : TwReq) (s : State), atSafePoint k u up r s = true → (getCtx s r.ctx).ms.mv = false →
    let t := updCtx r.ctx (fun x =>
      { x with ms := unitRec s (getUnit s k u) r (if trapKind s k (getUnit s k u) r = some 0 then 0 else 2), hostReq := none
               hostSent := false, ioVals := [] })
      (releaseClaim k (getCtx s r.ctx).hv (getCtx s r.ctx).hank (getUnit s k u).claim (setUnit k u (unitFree (getUnit s k u)) s))
    (trapKind s k (getUnit s k u) r = some 0 → exec (.microTrap k u up) s = .next (parkRedo r.ctx t)) ∧
    (trapKind s k (getUnit s k u) r = some 2 → exec (.twistYield k u up) s = .next (twAdmit k { r with cont := true } t)))

/-- MICROWORD (R235, R238, R240): a microword that makes no memory access and exchanges nothing completes: the unit stands at NEXT, the scratch cells
that the word does not name and memory are as before. Any microword that executes does what its fields say, and a final fault of it ends the routine.
A second failure of parity is the micro-fault 0x40, which frees the unit. -/
def Obligations.MicrowordsExecute : Prop :=
  (∀ (k : SkId) (u : BitVec 2) (up : BitVec 144) (r : TwReq) (s : State),
    let un := getUnit s k u
    let w := fetchWord s un.upc
    executes k u up r s = true → plainWord w = true → un.started = true → un.restore = none → (w.getLsbD 118 = false ∨ isWalk r = false) →
    ∃ t, exec (.microword k u up) s = .next t ∧ (getUnit t k u).upc = BitVec.ofNat 14 (mw w 130 14) ∧ (getUnit t k u).req = some r ∧
      (getUnit t k u).sinceStart = un.sinceStart + 1 ∧ (getUnit t k u).stack = un.stack ∧
      (∀ i, i ≠ mw w 101 4 → i ≠ mw w 34 4 → tGet (getUnit t k u) i = tGet un i) ∧ t.mem = s.mem) ∧
  (∀ (k : SkId) (u : BitVec 2) (up : BitVec 144) (r : TwReq) (s t : State) (e : Exc), executes k u up r s = true →
    (runWord k u r (fetchWord s (getUnit s k u).upc) s = .ok none t → exec (.microword k u up) s = .next t) ∧
    (runWord k u r (fetchWord s (getUnit s k u).upc) s = .ok (some e) t → exec (.microword k u up) s = .next (unitFault k u r e t))) ∧
  (∀ (k : SkId) (u : BitVec 2) (up : BitVec 144) (r : TwReq) (s : State), (getUnit s k u).req = some r → upcOk (getUnit s k u).upc.toNat = true →
    (parityOk (fetchWord s (getUnit s k u).upc) = false ∨ parityOk up = false) →
    ((getUnit s k u).retry = false → exec (.microword k u up) s = .next (updUnit k u (fun x => { x with retry := true }) s)) ∧
    ((getUnit s k u).retry = true → exec (.microword k u up) s = .next (microFault k u r s)))

/-- LOAD_BARRIER_SLOW_PATH and GRANULE_WAIT (R494, R495). With no granule to claim, the slow path forwards, recolours and heals the cell, delivers it
and frees the unit. A pending granule is claimed first, with ST 2; the path that holds the claim copies it, with the addresses translated before the
claim, and ends in the same way. After 64 handshakes a waiting slow path goes on as at its first step. HOST_COMPLETION, COMPLETION_TIMEOUT and
VICTIM_ACCEPTED (R44, R421, R444, R476, R477). The cell that a HOST request returns is kept with its address, and the parked memory phase is performed
with it; an uncorrectable one is recorded as event 0x0F and gives the load no value. A request refused or timed out, on the slow clock from its
sending (the model's reading, log entry 168), ends at a dead target, with UNSET and event 0x18. A victim that its controller's write queue of 64 lines
accepts lets its held fill be installed (R413), and each request that has waited for the line goes on in turn. -/
def Obligations.SlowPathsAndCompletionsGoOn : Prop :=
  (∀ (k : SkId) (u : BitVec 2) (r : TwReq) (x : Cell) (fv : Option VAddr) (s : State), (getUnit s k u).req = some r →
     r.kind = .slow x fv → twHeld s r = false → (getUnit s k u).fault = none → (getUnit s k u).restore = none →
     let a := updUnit k u (fun z => { z with started := true, good := if z.started then z.good else goodOf s r.ctx }) s
     let done (y : Cell) (t : State) : State :=
       finishCtx r (some y) (deliverBy r.ctx (wordPred y true) (setUnit k u (unitFree (getUnit t k u)) t))
     (∀ y t t2, (getUnit s k u).claim = none → slowClaim k r x fv a = .ok none t → (getUnit t k u).claim = none →
       xSlow r.ctx k r.level (spaceTag (getCtx t r.ctx)) x fv t = .ok y t2 →
       exec (.loadBarrierSlowPath k u) s = .next (done y t2)) ∧
     (∀ p t, (getUnit s k u).claim = none → slowClaim k r x fv a = .ok (some p) t →
       exec (.loadBarrierSlowPath k u) s = .next (updUnit k u (fun z => { z with claim := some p, gwait := false }) t)) ∧
     (∀ cl e d y t1 t2 t3, (getUnit s k u).claim = some cl → xTable r.ctx k 1 cl.ent a = .ok e t1 →
       xCopy r.ctx k (spaceTag (getCtx a r.ctx)) x cl.src cl.srcP cl.ent cl.dstP e t1 = .ok d t2 →
       xRecolour r.ctx k (spaceTag (getCtx a r.ctx)) x fv cl.field d t2 = .ok y t3 →
       exec (.loadBarrierSlowPath k u) s = .next (done y t3)) ∧
     ((getUnit s k u).gwait = true → exec (.granuleWait k u) s = exec (.loadBarrierSlowPath k u) s) ∧
     ((getUnit s k u).gwait = false → exec (.granuleWait k u) s = .next s)) ∧
  ((∀ (c : CtxId) (va : VAddr) (pa : PAddr) (v : Cell) (s : State), (getCtx s c).hostReq = some (va, pa) → (getCtx s c).hostSent = true →
     parksForFbar (getCtx s c) = false →
     let u := reach hostSector (getCtx s c).skein s
     let dead (s : State) : State := hostNext (parkRun c (hostValue c unsetCell
       (logEvent 0x18 3 37 0 (some c) none 0 (updSp (spOf s c) (fun p => { p with moCtx := c, moFlags := setBit p.moFlags 2 true }) s))))
     (verify v = some (v, false) → exec (.hostCompletion c (.success v)) s = .next (hostNext (parkRun c (updCtx c (fun x =>
       { x with hostReq := none, hostSent := false, ioVals := x.ioVals ++ [{ va := va, pa := pa, mt := 2, v := v }] }) u)))) ∧
     (verify v = none → exec (.hostCompletion c (.success v)) s =
       .next (hostNext (hostBad c va (logEvent 0x0F 3 37 0 (some c) (some pa.toNat) (syndrome v).toNat u)))) ∧
     exec (.hostCompletion c .refused) s = .next (dead u) ∧
     ((getCtx s c).hostDue ≤ s.m.clock → exec (.completionTimeout c) s = .next (dead s)) ∧
     (s.m.clock < (getCtx s c).hostDue → exec (.completionTimeout c) s = .next s)) ∧
   (∀ (k : SkId) (ln : Nat) (h : HeldFill) (s : State), ((getSk s k).held.find? fun h => h.ln = ln) = some h →
     let ch := chanOf h.victim
     let q := mapGet [] s.wq ch
     (q.length < 64 →
       let t := skInstall k h.idx ln h.st h.age
         (updSk k (fun x => { x with held := x.held.filter fun g => g.ln ≠ ln }) { s with wq := mapSet [] s.wq ch (q ++ [h.victim]) })
       exec (.victimAccepted k ln) s =
         .next (h.asks.foldl (askDone ln) (updSk k (fun x => skUpd x ln fun l => { l with fresh := h.asks }) t))) ∧
     (64 ≤ q.length → exec (.victimAccepted k ln) s = .next s)))

/-- STORE_DRAIN, STORE_BUFFER_ENTRY_FREE and RESERVATION_RELEASE (R451 to R453, R473). An entry whose turn it is, and whose line its spindle obtains,
becomes visible and leaves the buffer: its cells are written, other contexts' reservations on the line end; the line that a ZLINE zeroes has age 1 in
the skein cache (R424). A write of a tier-2 bit performs the context's reads of that bit before it. A parked store takes a freed entry, and with its
last one the context becomes eligible, unless it still waits for a bit of another skein to be written (R101, R110). -/
def Obligations.StoresBecomeVisibleAndBuffersDrain : Prop :=
  (∀ (q : SpId) (i : Nat) (e : SbEntry) (s : State), (getSp s q).sb[i]? = some e → sbMayDrain s q i = true →
    let gone (t : State) : State := spindleResume q (afterDrain e.ctx (bitArrive e.ctx (updSp q (fun p => { p with sb := p.sb.eraseIdx i }) t)))
    (∀ t ln cells, e.kind = .line ln cells → drainOwn q e.ctx ln e.via s = (true, t) →
      exec (.storeDrain q i) s = .next (gone (cells.foldl (fun s e' => putCell (some e.ctx) (paOf e'.1) e'.2 s) t))) ∧
    (∀ t ln, e.kind = .zline ln → drainOwn q e.ctx ln none s = (true, t) →
      exec (.storeDrain q i) s =
        .next (gone ((upto 8).foldl (fun s j => putCell (some e.ctx) (paOf (8 * ln + j)) unsetCell s) (skAge (spSk q) ln 1 t)))) ∧
    (∀ k b v, e.kind = .bit2 k b v → exec (.storeDrain q i) s = .next (gone (bit2Put k b v
      (bit2Reach (spSk q) k (bitsRead e.ctx (fun l => l.bit = some (k, b)) s)))))) ∧
  (∀ (q : SpId) (i : Nat) (s : State), (getSp s q).sb[i]? = none ∨ sbMayDrain s q i = false → exec (.storeDrain q i) s = .next s) ∧
  (∀ (c : CtxId) (es : List SbEntry) (t s : State), (getCtx s c).park = some (.stores es) →
    (sbPutAll c es s = ([], t) → exec (.storeBufferEntryFree c) s = .next (match tripOf (getCtx t c).skein es with
      | some b => updCtx c (fun x => { x with park := some (.bitTrip b.1 b.2) }) t
      | none => resumeParked c t)) ∧
    (∀ e l, sbPutAll c es s = (e :: l, t) →
      exec (.storeBufferEntryFree c) s = .next (updCtx c (fun x => { x with park := some (.stores (e :: l)) }) t))) ∧
  (∀ (c : CtxId) (s : State), exec (.reservationRelease c) s = .next (updCtx c (fun x => { x with resHold := false }) s))

/-- WAY_POWER_DOWN, WAY_POWER_UP, DIS_SET, DIS_CLEAR and SCRUB_LINE (R440 to R442, R708). A way is cleaned and loses its power, or is powered again.
DIS = 1 begins to disable the skein's data caches, which once no fill is in flight lose every line and their power; DIS = 0 begins to enable them, and
ends with every way powered. The scrubber goes on by a line; a line that its DRAM code cannot correct, with wrong symbols of two devices, or of two
pairs of beats of one device wider than x4 (R595), is poisoned and logged. None of these but a correction writes memory. -/
def Obligations.CachesArePoweredDisabledAndScrubbed : Prop :=
  (∀ (k : SkId) (w : Nat) (s : State), wayDown k s = some w → (getSk s k).held.any (fun h => h.idx = w) = false →
    exec (.wayPowerDown k) s = .next (updSk k (fun x => { x with pwrOff := setBit x.pwrOff w true }) (wayClean k w s))) ∧
  (∀ (k : SkId) (w : BitVec 4) (s : State), (getSk s k).dstate = 0 →
    exec (.wayPowerUp k w) s = .next (updSk k (fun x => { x with pwrOff := setBit x.pwrOff w.toNat false }) s)) ∧
  (∀ (k : SkId) (hm : BitVec 16) (s : State), served s = true →
    let u := updSk k (fun x => { x with hmask := hm }) (reach hostSector k s)
    ((getSk u k).dstate = 0 → exec (.disSet k hm) s = .next (updSk k (fun x => { x with dis := true, dstate := 1 }) u)) ∧
    ((getSk u k).dstate = 2 →
      exec (.disClear k hm) s = .next (updSk k (fun x => { x with dis := false, dstate := 3, pwrOff := 0xFFFF }) u))) ∧
  (∀ (k : SkId) (s : State),
    ((getSk s k).dstate = 1 → (getSk s k).held = [] →
      skPhase k s = updSk k (fun x => { x with dstate := 2, pwrOff := 0xFFFF }) (skCleanAll k s)) ∧
    ((getSk s k).dstate = 3 → skPhase k s = updSk k (fun x => { x with dstate := 0, pwrOff := 0 }) s)) ∧
  (∀ (s : State), s.mode ≠ .bringup → s.mode ≠ .sleep → s.dram ≠ 0 → (dramAt s (s.m.scrub % (s.dram / 8))).syms = [] →
    let ln := s.m.scrub % (s.dram / 8)
    let cells := (upto 8).map fun i => paOf (8 * ln + i)
    let on (t : State) : State := updM (fun m =>
      { m with scrub := if ln + 1 ≥ t.dram / 8 then 0 else ln + 1, scrubFast := m.scrubFast && !decide (ln + 1 ≥ t.dram / 8) }) t
    (∀ dev, (∀ a ∈ cells, mapGet 0 s.arrErr a.toNat = 0 ∧ ∃ v, verify (cellAt s a) = some (v, false)) → exec (.scrubLine [] dev) s = .next (on s)) ∧
    (∀ dev (x y : BitVec 8 × BitVec 3), (x.1 ≠ y.1 ∨ (s.m.dimms.width ≠ 4 ∧ x.2 ≠ y.2)) → exec (.scrubLine [x, y] dev) s = .next (on (logEvent 0x0C 3 36 (192 + chanOf ln) none (some (8 * ln)) 0
      { s with poisoned := cells.foldl (fun m a => mapSet false m a.toNat true) s.poisoned }))))

/-- FLIP, UPDATE and FLIP_RELEASE (R517 to R522). After its checks an UPDATE installs the block with MARK and RACT changed and reports 0. A FLIP
advances the good colour modulo 3, holds the space's contexts, and passes over their roots; the release reports 0 with the duration in µs. A command
whose check fails reports its status and changes nothing else. -/
def Obligations.CollectorCommandsInstallTheirBlock : Prop :=
  (∀ (m : ColCmd) (s : State),
    (colOk 2 m s = true →
      let z := blockRead 2 m s
      let b := (cbWork z m.tag).1
      exec (.update m) s =
        .next (putColRes m.src 0 (cbGood b) (colDur z m.src) m.tag (cbInstall m.tag (cbApply m (cbGood b) b) (wakeSkeins z)))) ∧
    (colOk 1 m s = true →
      let z := blockRead 1 m s
      let b := (cbWork z m.tag).1
      let t := putColRes m.src 0xF (cbGood b) (colDur z m.src) m.tag z
      exec (.flip m) s = .next (rootPass m.tag (cbInstall m.tag (cbApply m (BitVec.ofNat 2 ((cbGood b).toNat + 1) % 3) b)
        (wakeSkeins { t with flips := t.flips ++ [{ tag := m.tag, gen := srcGen t m.src, src := m.src, start := t.tb }] }))).2)) ∧
  (∀ (m : ColCmd) (s : State) (n : Nat), m.src = .host → served s = true → colCheck 2 m (blockRead 2 m s) = n → n ≠ 0 → n < 16 →
    ∃ v, exec (.update m) s = .next { blockRead 2 m s with hcolres := v } ∧ v.extractLsb' 44 4 = BitVec.ofNat 4 n) ∧
  (∀ (tag : BitVec 12) (f : Flip) (s t : State), (s.flips.find? fun f => f.tag = tag) = some f → rootPass tag s = (false, t) →
    let u : State := { t with flips := t.flips.filter fun g => g.tag ≠ tag }
    let dur := min 65535 ((u.tb - f.start) / 1000)
    srcGen u f.src = f.gen →
    (bits (colRes u f.src).toNat 44 4 = 0xF → (colRes u f.src).extractLsb' 0 12 = tag →
      exec (.flipRelease tag) s = .next (putColRes f.src 0 (cbGood (mapGet {} (getSk u 0).blocks tag.toNat)) dur tag u)) ∧
    (bits (colRes u f.src).toNat 44 4 ≠ 0xF → exec (.flipRelease tag) s = .next
      (putColRes f.src (bits (colRes u f.src).toNat 44 4) ((colRes u f.src).extractLsb' 42 2) dur ((colRes u f.src).extractLsb' 0 12) u)))

/-- EVAC (R511, R512): a free reel takes the next descriptor of its skein's queue. A granule that it has claimed, whose cells it can copy, is copied
and counted, its first cell made a FWD where the descriptor asks for it, and the descriptor goes on with the next one; a cell that it cannot read
finishes the descriptor with RESULT 2. A descriptor without further granules finishes with RESULT 0: RD7 is stored, the NOTIFY bit set, and the reel
is free. CLR0 and CARDER_ACCEPT (R531 to R538, R545). CLR0 deletes every entry of the HV = 0 owner in the skein, and only those, its METAs verified as
they are read (R546). The carder takes the request at the head of its queue and, where the keys of its entries need no correction, delivers its
result: a probe without a match UNSET and 0; a probe with one its value and 1, with AGE 0; an insertion with room a new entry of AGE 1 and 1; a
deletion the deleted value and 1. -/
def Obligations.ReelsAndCardersServe : Prop :=
  (∀ (k : SkId) (r : BitVec 1) (s : State),
     (∀ d, issuing s = true → mapGet [] (getSk s k).reels r.toNat = [] → reelNext (getSk s k) = some d →
       exec (.evac k r) s = .next (setReel k r.toNat (some d)
         (updSk k (fun y => { y with reelQ := y.reelQ.filter (fun e => e ≠ d), reelLast := rdParty d }) s))) ∧
     (∀ d, issuing s = true → mapGet [] (getSk s k).reels r.toNat = [d] → d.claim = none → rdCount d ≤ d.next →
       exec (.evac k r) s = .next (reelFinish k d 0 (setReel k r.toNat none s))) ∧
     (∀ d cl e v t, mapGet [] (getSk s k).reels r.toNat = [d] → d.claim = some cl →
       let n := 2 ^ cbGsh (blockAt s k d.tag)
       asSubmitter d (xTable d.ctx k 3 cl.ent) s = .ok e v →
       asSubmitter d (do
         xGranule d.ctx k 3 n cl.srcP cl.dstP cl.ent
         if rdFwdm d then xUnitLine d.ctx k cl.srcP true 3
         pure ()) v = .ok () t →
       (∀ u, asSubmitter d (copied d k r n e cl) t = .ok none u →
         exec (.evac k r) s = .next (setReel k r.toNat (some { d with claim := none, next := d.next + 1, copied := d.copied + 1 })
           (if rdFwdm d then putCell (some d.ctx) cl.srcP (mkCell 3 tFWD (rlDest e)) u else u))) ∧
       (∀ i u, asSubmitter d (copied d k r n e cl) t = .ok (some i) u →
         exec (.evac k r) s = .next (reelFinish k { d with claim := none, next := d.next + 1 } 2 (setReel k r.toNat none u))))) ∧
  ((∀ (k : SkId) (s : State), served s = true →
     exec (.clr0 k) s = .next (updSk k (fun x =>
       { x with card := x.card.filter fun e => !(metaV e.2 && decide (metaOwner e.2 = 0)) }) (cMetas k (reach hostSector k s)))) ∧
   (∀ (k : SkId) (r : CReq) (q : List CReq) (s : State), (getSk s k).cardQ = r :: q →
     (∀ e ∈ (getSk s k).card, cPlain e.2 = true) →
     let o := ownerBits r.hv r.hank
     let m := (getSk s k).card
     let u := updSk k (fun x => { x with cardQ := q }) s
     let done (v : Cell) (p : Bool) (t : State) : State := cardAdmit k 32 (cardDeliver k r v p t)
     (r.op = .probe → cWinner o r.k0 r.k1 r.wa r.wb m = none → exec (.carderAccept k) s = .next (done unsetCell false u)) ∧
     (∀ i e, r.op = .probe → cWinner o r.k0 r.k1 r.wa r.wb m = some (i, e) → cVerify (mapGet {} m i) = some (mapGet {} m i) →
       exec (.carderAccept k) s = .next (done (mapGet {} m i : CEnt).val true
         (updSk k (fun x => { x with card := mapSet {} x.card i (withAge (mapGet {} m i) 0) }) u))) ∧
     (∀ i, r.op = .ins → cSame o r.k0 r.k1 r.wa r.wb m = none → cardHeldBy (getSk s k) o < (cardMode s (getSk s k) r.hv r.hank).2 →
       cFreeEntry m = some i →
       let n : CEnt :=
         { k0 := if r.wa then nilCell else sealCell r.k0, k1 := if r.wb then nilCell else sealCell r.k1, val := sealCell r.v
           meta_ := metaCell r.wa r.wb r.lock o 1 r.user }
       exec (.carderAccept k) s = .next (done (rawCell (dat i)) true (updSk k (fun x => { x with card := mapSet {} x.card i n }) u))) ∧
     (∀ i e, r.op = .del → cSame o r.k0 r.k1 r.wa r.wb m = some (i, e) → cVerify (mapGet {} m i) = some (mapGet {} m i) →
       exec (.carderAccept k) s = .next (done (mapGet {} m i : CEnt).val true (updSk k (fun x => { x with card := mapDel i x.card }) u)))))

/-- HANK_CREATE, COMMIT, PAUSE, HANK_RESUME, HANK_RESET and REMOVE (R558 to R571). In a state that the command allows, after its checks: CREATE
installs the staged values under a new generation; COMMIT installs changed ones; PAUSE, RESET and REMOVE begin; RESUME makes the hank ACTIVE and
resumes its contexts. In another state the result is BADSTATE; a CREATE or COMMIT whose check fails reports it and installs nothing. -/
def Obligations.HankCommandsBegin : Prop :=
  ∀ (h : BitVec 6) (s : State), hankFree h s = true →
    let k := getHank s h
    let told (n : BitVec 4) : State := updHank h (fun k => { k with result := n }) s
    (k.state = 0 → hankCheck true h s = 0 →
      exec (.hankCreate h) s = .next (hankSettle h (begun 1 h (updHank h (fun k =>
        { k with gen := genNext k.gen, sqtail := 0, sqhead := 0, cqhead := 0, cqtail := 0, phase := true, msixSent := false, cmds := [] })
        (updHank h (fun k => { k with cur := k.stg, state := 1 }) s))))) ∧
    (k.state = 0 → hankCheck true h s ≠ 0 → exec (.hankCreate h) s = .next (told (BitVec.ofNat 4 (hankCheck true h s)))) ∧
    (k.state = 1 ∨ k.state = 2 → hankCheck false h s = 0 →
      exec (.commit h) s = .next (hankSettle h (begun 2 h (installEffects h k.cur k.stg (updHank h (fun k => { k with cur := k.stg }) s))))) ∧
    (k.state = 1 → exec (.pause h) s = .next (hankSettle h (begun 3 h s))) ∧
    (k.state = 2 → exec (.hankResume h) s = .next (hankResumeAll h (updHank h (fun k => { k with state := 1, result := 0 }) s))) ∧
    (k.state = 1 ∨ k.state = 2 →
      exec (.hankReset h) s = .next (hankSettle h (begun 5 h (updHank h (fun k => { k with state := 3, gen := genNext k.gen }) s))) ∧
      exec (.remove h) s = .next (hankSettle h (begun 6 h (updHank h (fun k => { k with state := 4, gen := genNext k.gen }) s)))) ∧
    (k.state ≠ 0 → exec (.hankCreate h) s = .next (told 1)) ∧ (k.state ≠ 1 → exec (.pause h) s = .next (told 1)) ∧
    (k.state ≠ 2 → exec (.hankResume h) s = .next (told 1)) ∧
    (k.state = 0 → exec (.hankReset h) s = .next (told 1) ∧ exec (.remove h) s = .next (told 1) ∧ exec (.commit h) s = .next (told 1))

/-- SQTAIL, CQHEAD, GUEST_DOORBELL, GUEST_INTERRUPT, SYNC and SYNC_COMPLETE (R562, R567, R574). A doorbell-page write with the right GEN sets the
index modulo the queue's size, or rings or interrupts a context of the hank; one with another GEN only counts in STALECNT. SYNC empties the record of
marks and sends the flush read; SBUSY falls when that has returned, and a command that waits for its own flush read goes on when that returns.
SUBMISSION_FETCH, READ, WRITE, SUBMISSION_CTXCMD and FENCE (R563 to R568). A fetched entry with the hank's GEN that may run joins the commands of the
hank. READ sends a block of cells to the host window, and WRITE stores the cells that the host returned; a command whose last block is done completes
with status 0 and the count of its cells. A context command acts at L1, and completes with its CTXRES. A FENCE completes when it is the oldest. An
entry that may not run completes with its status, behind an earlier FENCE. -/
def Obligations.HankQueuesRun : Prop :=
  (∀ (h : BitVec 6) (v : BitVec 64) (s : State),
     let c : CtxId := v.extractLsb' 0 16
     (pageOk h v s = true → (getHank s h).cur.sqs ≠ 0 → exec (.sqtail h v) s = .next (updHank h (fun k =>
       { k with sqtail := BitVec.ofNat 16 ((v.extractLsb' 0 16).toNat % 2 ^ k.cur.sqs.toNat) }) s)) ∧
     (pageOk h v s = true → (getHank s h).cur.cqs ≠ 0 → exec (.cqhead h v) s = .next (updHank h (fun k =>
       { k with cqhead := BitVec.ofNat 16 ((v.extractLsb' 0 16).toNat % 2 ^ k.cur.cqs.toNat), msixSent := false }) s)) ∧
     (pageOk h v s = true → (getCtx s c).st ≠ .free → (getCtx s c).hv = true → (getCtx s c).hank = h →
       exec (.guestDoorbell h v) s = .next (ringDoorbell c (hear hostSector c s)) ∧
       exec (.guestInterrupt h v) s = .next (raiseIrq c 2 (hear hostSector c s))) ∧
     (served s = true → v.extractLsb' 48 16 ≠ (getHank s h).gen →
       let t := updHank h (fun k => { k with stalecnt := min (2 ^ 32 - 1) (k.stalecnt + 1) }) s
       exec (.sqtail h v) s = .next t ∧ exec (.cqhead h v) s = .next t ∧ exec (.guestDoorbell h v) s = .next t ∧
         exec (.guestInterrupt h v) s = .next t) ∧
     (served s = true → (getHank s h).sbusy = false → linkUp s = true →
       let a := (getHank s h).sent.getD (getHank s h).dlmap
       exec (.sync h) s = .next (updHank h (fun k => { k with sync := .out (s.m.clock + ctoNs s.host.cto) })
         (linkSend (.read a 0 false) (updHank h (fun k => { k with sbusy := true, marked := [], sync := .want a }) s)))) ∧
     (served s = true → (getHank s h).sbusy = true → exec (.sync h) s = .next s) ∧
     (∀ d, (getHank s h).sync = .out d → flushOut (getHank s h).flush = false → (getHank s h).pend = 0 →
       exec (.syncComplete h) s = .next (updHank h (fun k => { k with sync := .none, sbusy := false }) s)) ∧
     (∀ d, flushOut (getHank s h).sync = false → (getHank s h).flush = .out d →
       exec (.syncComplete h) s = .next (hankSettle h (updHank h (fun k => { k with flush := .none }) s)))) ∧
  ((∀ (h : BitVec 6) (w0 w1 w2 w3 : BitVec 64) (a : BitVec 64) (s t : State), mayFetch s h = true →
     let k := getHank s h
     let c : SubCmd :=
       { gen := w0.extractLsb' 48 16, cid := w0.extractLsb' 32 16, op := w0.extractLsb' 24 8, arg0 := w1, arg1 := w2, arg2 := w3, stat := 0
         done := 0 }
     busAddr s (paOf (k.cur.sqbase.toNat + 4 * k.sqhead.toNat)) = some a →
     entryStatus h c (updHank h (fun k => { k with sqhead := BitVec.ofNat 16 ((k.sqhead.toNat + 1) % 2 ^ k.cur.sqs.toNat) })
       (linkSend (.read a 4 false) s)) = (0, t) →
     exec (.submissionFetch h w0 w1 w2 w3) s = .next (updHank h (fun k => { k with cmds := k.cmds ++ [c] }) t)) ∧
   (∀ (h : BitVec 6) (w0 w1 w2 w3 : BitVec 64) (a : BitVec 64) (s : State), mayFetch s h = true →
     let k := getHank s h
     busAddr s (paOf (k.cur.sqbase.toNat + 4 * k.sqhead.toNat)) = some a →
     w0.extractLsb' 48 16 = k.gen → 4 < (w0.extractLsb' 24 8).toNat →
     let c : SubCmd := { gen := k.gen, cid := w0.extractLsb' 32 16, op := 0, arg0 := w1, arg1 := w2, arg2 := w3, stat := 2, done := 0 }
     let t := updHank h (fun k => { k with cmds := k.cmds ++ [c] })
       (updHank h (fun k => { k with sqhead := BitVec.ofNat 16 ((k.sqhead.toNat + 1) % 2 ^ k.cur.sqs.toNat) }) (linkSend (.read a 4 false) s))
     (k.cmds = [] → exec (.submissionFetch h w0 w1 w2 w3) s = .next (hankComplete h c 2 0 (updHank h (fun k => { k with cmds := [] }) t))) ∧
     (∀ f, k.cmds = [f] → f.op = 4 → exec (.submissionFetch h w0 w1 w2 w3) s = .next t)) ∧
   (∀ (h : BitVec 6) (i : Nat) (c : SubCmd) (s t : State), cmdAt s h i 1 = some c → linkDead s = false →
     c.done + min 512 (c.arg2.toNat - c.done) = c.arg2.toNat →
     readCells h (bits c.arg0.toNat 0 40 + c.done) (bits c.arg1.toNat 0 40 + c.done) (c.arg2.toNat - c.done) 0 ([], 0, false) false s =
       (c.arg2.toNat - c.done, false, false, t) →
     exec (.read h i) s = .next (cmdEnd h i { c with done := c.arg2.toNat } c.stat.toNat (BitVec.ofNat 64 c.arg2.toNat) t)) ∧
   (∀ (h : BitVec 6) (i : Nat) (c : SubCmd) (data : List Cell) (s : State), cmdAt s h i 2 = some c → linkDead s = false →
     data.length = c.arg2.toNat - c.done → 0 < data.length → data.length ≤ 512 →
     (∀ j, j < data.length → (busAddr s (paOf (bits c.arg1.toNat 0 40 + c.done + j))).isSome = true) →
     exec (.write h i data true) s = .next (cmdEnd h i { c with done := c.arg2.toNat } 0 (BitVec.ofNat 64 c.arg2.toNat)
       (data.zipIdx.foldl (fun s e =>
         let a := paOf (bits c.arg0.toNat 0 40 + c.done + e.2)
         putCell none a e.1 (hostReach (lineOf a) true s)) (readRuns (bits c.arg1.toNat 0 40 + c.done) data.length 0 none s)))) ∧
   (∀ (src n : Nat) (b : BitVec 64) (s : State), 0 < n → n ≤ maxRead s →
     (∀ j, j < n → busAddr s (paOf (src + j)) = some (b + BitVec.ofNat 64 (8 * j))) →
     readRuns src n 0 none s = linkSend (.read b n false) s) ∧
   (∀ (h : BitVec 6) (i : Nat) (c : SubCmd) (s : State), cmdAt s h i 3 = some c → c.done = 0 → bits (getHank s h).res.toNat 44 4 ≠ 0xF →
     let v : Datum := c.arg0.extractLsb' 0 48
     let t := ctxCommand (bits v.toNat 44 4) (ctxCmdOf (.hank h) v) (updHank h (fun k => { k with arg := c.arg1.extractLsb' 0 48 }) s)
     bits (getHank t h).res.toNat 44 4 ≠ 0xF →
     exec (.submissionCtxcmd h i) s = .next (cmdEnd h i c 0 ((getHank t h).res.setWidth 64) t)) ∧
   (∀ (h : BitVec 6) (c : SubCmd) (s : State), cmdAt s h 0 4 = some c → exec (.fence h) s = .next (cmdEnd h 0 c 0 0 s)))

/-- PERST_N, HOT_RESET, D3HOT_TO_D0, LINK_TRAINING, LINK_DOWN, LINK_RECOVERY and BUS_MASTER_ENABLE (R476, R583, R584, R722): each resets the link's
domain, or changes the state of the link, and lets the requests that waited go on or end. -/
def Obligations.TheLinkChangesItsState : Prop :=
  ∀ (s : State),
    exec (.perstN false) s =
      .next (updHost (fun h => { h with perst := true }) (linkReset (updHost (fun h => { h with perst := true }) s))) ∧
    exec (.perstN true) s = .next (updHost (fun h => { h with perst := false }) s) ∧
    exec .hotReset s = .next (linkReset s) ∧ exec .d3hotToD0 s = .next (linkReset s) ∧
    ((∀ e ∈ s.ctxs, e.2.hostReq = none) → linkReset s =
      { s with
        extEn := 0
        host := { out := s.host.out, ans := s.host.ans, mbox := s.host.mbox, perst := s.host.perst
                  ssvid := (objGet s 0x1E00 3).setWidth 16, ssid := (objGet s 0x1E00 4).setWidth 16 } }) ∧
    (s.host.perst = false → (s.mode ≠ .bringup ∨ s.m.step > 4) → s.host.trained = true →
      exec .linkTraining s = .next (hostResume (updHost (fun h => { h with link := .active, trained := true }) s))) ∧
    exec .linkDown s = .next (hostResume (updHost (fun h => { h with link := .down }) s)) ∧
    (s.host.link = .active → exec (.linkRecovery true) s = .next (updHost (fun h => { h with link := .recovery }) s)) ∧
    (s.host.link = .recovery →
      exec (.linkRecovery false) s = .next (hostResume (updHost (fun h => { h with link := .active }) s))) ∧
    (∀ v, s.host.link = .active → s.host.perst = false →
      exec (.busMasterEnable v) s = .next (hostResume (msixFlush (updHost (fun h => { h with bme := v }) s))))

/-- REGISTER_WRITE, RC_READ and HOST_REGISTER_ACCESS (R7, R579, R580, R582). A BAR0 register without other effects takes its fields; a control
register takes what its CWR would land, at the level that the register has; a device register takes a DEVICE store; configuration registers take
theirs. A read of an RC register returns its value and clears it. A read of an undefined offset returns 0 and changes nothing. APERTURE_READ and
APERTURE_WRITE (R45, R588, R589), of a whole cell of installed DRAM: a read returns the 8 bytes of the cell, marked as poisoned when it is
uncorrectable; a write replaces the cell. An access above installed DRAM is refused, and a write there changes nothing. -/
def Obligations.RegistersAndApertureAreReadAndWritten : Prop :=
  ((∀ (off : BitVec 22) (v : BitVec 64) (s t : State), served s = true → plainBar0 off.toNat v s = some t →
     exec (.registerWrite (.bar0 off) v) s = .next t ∧ exec (.hostRegisterAccess 0 off 8 true v.toNat) s = .next t) ∧
   (∀ (c : CtxId) (n : BitVec 12) (rl wl : Nat) (v : BitVec 64) (s : State), exists_ c s = true → crLevels n.toNat = some (rl, wl) →
     wl ≤ (getCtx s c).level.toNat → crGrant s (getCtx s c) n.toNat (v.extractLsb' 0 48) = none →
     exec (.registerWrite (.cr c n) v) s = .next (crLand c n.toNat (v.extractLsb' 0 48) s)) ∧
   (∀ (c : CtxId) (n : BitVec 12) (rl wl : Nat) (v : BitVec 64) (i : Datum) (s : State), exists_ c s = true →
     crLevels n.toNat = some (rl, wl) → wl ≤ (getCtx s c).level.toNat → (getCtx s c).st = .running →
     crGrant s (getCtx s c) n.toNat (v.extractLsb' 0 48) = some i →
     exec (.registerWrite (.cr c n) v) s = .next (raiseAt c 0 { code := 0x5C, info := i } s s)) ∧
   (∀ (c : CtxId) (a : PAddr) (v : BitVec 64) (s : State), exists_ c s = true →
     exec (.registerWrite (.device c a) v) s = .next (deviceStore c a v s)) ∧
   (∀ (v : BitVec 64) (s : State), s.host.link = .active → s.host.perst = false →
     exec (.registerWrite .cfgTimeout v) s = .next (updHost (fun h => { h with cto := v.extractLsb' 0 4 }) s) ∧
     exec (.registerWrite (.cfg 0x88) v) s = .next (updHost (fun h => { h with cto := v.extractLsb' 0 4 }) s) ∧
     exec (.hostRegisterAccess 7 0x88 4 false 0) s = .next (updHost (fun h => { h with ans := .data (h.cto.setWidth 64) }) s)) ∧
   (∀ (off : BitVec 22) (n v : Nat) (s : State), served s = true → off.toNat < 0x98A0 → 0x9890 < off.toNat + n →
     (off.toNat = 0x9890 → n ≠ 16) → exec (.hostRegisterAccess 0 off n true v) s = .next (logEvent 0x16 4 37 0 none none 0 s)) ∧
   (∀ (off : BitVec 22) (n v : Nat) (s : State), served s = true → off.toNat + n ≤ 0x9890 → (n = 8 → off.toNat % 8 ≠ 0) →
     exec (.hostRegisterAccess 0 off n true v) s = .next s) ∧
   (∀ (k : SkId) (s : State), served s = true →
     exec (.rcRead (BitVec.ofNat 22 (0x8018 + 0x20 * k.toNat))) s =
       .next (updHost (fun h => { h with ans := .data ((getSk s k).ucnt.setWidth 64) })
         (updSk k (fun x => { x with ucnt := 0 }) (reach hostSector k s)))) ∧
   (∀ (s : State), served s = true →
     exec (.hostRegisterAccess 0 0x0000 8 false 0) s = .next (updHost (fun h => { h with ans := .data 0 }) s) ∧
     exec (.hostRegisterAccess 0 0x0000 8 true 0) s = .next s)) ∧
  (∀ (x : BitVec 21) (bs : List (BitVec 8)) (s : State), served s = true → x.toNat % 8 = 0 → bs.length = 8 →
     let a := apCell s x.toNat
     (a < s.dram → exec (.apertureWrite x bs) s =
       .next (putCell none (paOf a) (bs.getD 7 0 ++ bs.getD 6 0 ++ bs.getD 5 0 ++ bs.getD 4 0 ++ bs.getD 3 0 ++ bs.getD 2 0 ++ bs.getD 1 0 ++
         bs.getD 0 0) (hostReach (lineOf (paOf a)) true s))) ∧
     (s.dram ≤ a → exec (.apertureWrite x bs) s = .next s ∧
       exec (.apertureRead x 8) s = .next (updHost (fun h => { h with ans := .unsupported }) s)) ∧
     (∀ v t, a < s.dram → readCell none (paOf a) (hostReach (lineOf (paOf a)) false s) = (v, t) →
       exec (.apertureRead x 8) s = .next (updHost (fun h =>
         { h with ans := .cells ((upto 8).map fun j => (cellAt t (paOf a)).extractLsb' (8 * j) 8) v.isNone }) t)))

/-- USDO_REQUEST and USDO_SESSION_TIMEOUT (R672). A value of at most 8 bytes is answered at once; a longer one opens a session, whose segments are the
bytes of the value in order. A write is done with its last segment. A fifth session is refused with 0x05040005; a session that times out ends with
0x05040000, by the slow clock (the model's reading, log entry 171). MAILBOX_READ and MAILBOX_WRITE (R675): with the mailbox reachable, a read returns
the object's bytes, and a write stores its data; DONE, RLEN, ABORT and TAG report it. A write of no data is refused with 0x06070010. -/
def Obligations.CanAndMailboxRequestsAreServed : Prop :=
  (∀ (sid : BitVec 8) (s : State),
     (∀ i sub a t, usdoServed sid s = true → dictRead i.toNat sub.toNat none s = (a, t) →
       (a.abort ≠ 0 ∨ a.data.length ≤ 8 → exec (.usdoRequest sid (.read i sub)) s = .next (usdoAnswer a (usdoDrop sid t))) ∧
       (a.abort = 0 → 8 < a.data.length → exec (.usdoRequest sid (.read i sub)) s = .next (usdoAnswer {}
         (usdoOpen { id := sid, idx := i, sub := sub, write := false, len := a.data.length, data := a.data } t)))) ∧
     (∀ i sub len d c t, usdoServed sid s = true → len ≤ 8 → dictWrite .can i.toNat sub.toNat d true (usdoDrop sid s) = (c, t) →
       exec (.usdoRequest sid (.write i sub len d)) s = .next (usdoAnswer { abort := c } t)) ∧
     (∀ i sub len d, usdoServed sid s = true → 8 < len → exec (.usdoRequest sid (.write i sub len d)) s = .next (usdoAnswer {}
       (usdoOpen { id := sid, idx := i, sub := sub, write := true, len := len, data := d } s))) ∧
     (∀ i sub, canServes s = true → 4 ≤ s.m.usdo.length → usdoFind s sid = none →
       exec (.usdoRequest sid (.read i sub)) s = .next (usdoAnswer { abort := 0x05040005 } s)) ∧
     (∀ u n, canServes s = true → usdoFind s sid = some u → u.write = false →
       exec (.usdoRequest sid (.segRead n)) s = .next (if u.data.length ≤ n then usdoDrop sid (usdoAnswer { data := u.data.take n } s)
         else usdoOpen { u with data := u.data.drop n } (usdoAnswer { data := u.data.take n } s))) ∧
     (∀ u d, canServes s = true → usdoFind s sid = some u → u.write = true →
       exec (.usdoRequest sid (.segWrite d false)) s = .next (usdoAnswer {} (usdoOpen { u with data := u.data ++ d } s)) ∧
       (∀ c t, (u.data ++ d).length = u.len → dictWrite .can u.idx.toNat u.sub.toNat (u.data ++ d) true (usdoDrop sid s) = (c, t) →
         exec (.usdoRequest sid (.segWrite d true)) s = .next (usdoAnswer { abort := c } t))) ∧
     (∀ u, canServes s = true → usdoFind s sid = some u → u.due ≤ s.m.clock →
       exec (.usdoSessionTimeout sid) s = .next (usdoAnswer { abort := 0x05040000 } (usdoDrop sid s)))) ∧
  (∀ (i : BitVec 16) (sub : BitVec 8) (tag : BitVec 16) (s : State), mailboxUp s = true → s.host.mbox.ien = false →
     (∀ len a t, let u := updHost (fun h => { h with mbox := { h.mbox with req := mbReq 1 i.toNat sub.toNat len.toNat tag } }) s
       dictRead i.toNat sub.toNat (some (min 4096 len.toNat)) u = (a, t) →
       exec (.mailboxRead i sub len tag) s = .next (updHost (fun h =>
         { h with mbox :=
             { mbPut a.data u.host.mbox with done := true, rlen := BitVec.ofNat 13 a.data.length, abort := a.abort, tag := tag } }) t)) ∧
     (∀ d c t, 0 < d.length → d.length ≤ 4096 →
       let u := updHost (fun h => { h with mbox := mbPut d { h.mbox with req := mbReq 2 i.toNat sub.toNat d.length tag } }) s
       dictWrite .mailbox i.toNat sub.toNat d true u = (c, t) →
       exec (.mailboxWrite i sub tag d) s = .next (updHost (fun h => { h with mbox := finished u.host.mbox c }) t)) ∧
     exec (.mailboxWrite i sub tag []) s = .next (updHost (fun h =>
       { h with mbox := finished { h.mbox with req := mbReq 2 i.toNat sub.toNat 0 tag } 0x06070010 }) s))

/-- RESET_NODE, RESET_COMMUNICATION, STOP, PRE_OPERATIONAL, OPERATIONAL and HEARTBEAT, for a port that can send (R672): the NMT commands for node 0 or
for the port's own node restart the port or set its state; a heartbeat that is due by the slow clock (the model's reading, log entry 171) sends the
state. A command for another node changes nothing. EMCY, EMCY_INHIBIT_EXPIRY, ERROR_PASSIVE and BUS_OFF_RECOVERY (R597, R673, R674). The oldest
emergency that is due enters the history; it is sent unless the inhibit time runs or others wait, when it waits, eight at most. At the end of that
time, by the slow clock (the model's reading, log entry 171), the next one is sent. The events of the bus move the error counters of the controller,
and these give error active, error passive or bus-off (by ISO 11898-1: presumed, log entry 187): the last two hold condition 7. A recovery starts from
counters of 0. Without the reference nothing is counted. -/
def Obligations.NetworkManagementAndEmergencies : Prop :=
  (∀ (node : BitVec 8) (s : State), canSends s = true →
     (node = 0 ∨ node = s.m.canNode →
       exec (.resetNode node) s = .next (canStart s) ∧ exec (.resetCommunication node) s = .next (canStart s) ∧
       exec (.stop node) s = .next (updM (fun m => { m with nmt := .stopped }) s) ∧
       exec (.preOperational node) s = .next (updM (fun m => { m with nmt := .preOp }) s) ∧
       exec (.operational node) s = .next (updM (fun m => { m with nmt := .oper }) s)) ∧
     (node ≠ 0 → node ≠ s.m.canNode → exec (.resetNode node) s = .next s ∧ exec (.resetCommunication node) s = .next s ∧
       exec (.stop node) s = .next s ∧ exec (.preOperational node) s = .next s ∧ exec (.operational node) s = .next s) ∧
     (objGet s 0x1017 0 ≠ 0 → s.m.hbDue ≤ s.m.clock → exec .heartbeat s = .next (updM (fun m => { m with
       hbDue := m.clock + 1000000 * (objGet s 0x1017 0).toNat, canOut := m.canOut ++
       [{ id := BitVec.ofNat 11 (0x700 + m.canNode.toNat)
          data := [if m.nmt = .stopped then 0x04 else if m.nmt = .oper then 0x05 else 0x7F] }] }) s))) ∧
  (∀ (s : State),
     (∀ e r, s.m.emcyDue = e :: r → s.m.canErr ≠ .busOff →
       let t := updM (fun m => { m with emcyDue := r, hist := (e :: m.hist).take 16 }) s
       exec .emcy s = .next (if !canServes t then t
         else if t.m.emcyInh || !t.m.emcyQ.isEmpty then (if t.m.emcyQ.length < 8 then updM (fun m => { m with emcyQ := m.emcyQ ++ [e] }) t else t)
         else emcySend e t)) ∧
     (s.m.clock < s.m.emcyEnd → exec .emcyInhibitExpiry s = .next s) ∧
     (s.m.emcyQ = [] → s.m.emcyEnd ≤ s.m.clock → exec .emcyInhibitExpiry s = .next (updM (fun m => { m with emcyInh := false }) s)) ∧
     (∀ e r, s.m.emcyQ = e :: r → canServes s = true → s.m.emcyEnd ≤ s.m.clock →
       exec .emcyInhibitExpiry s = .next (emcySend e (updM (fun m => { m with emcyQ := r, emcyInh := false }) s))) ∧
     (canRuns s = true → s.m.canErr ≠ .busOff → s.m.txErrs ≤ 255 →
       let x := s.m.txErrs
       let y := s.m.rxErrs
       exec (.errorPassive [.txErr]) s = .next (confined (x + 8, y) s) ∧ exec (.errorPassive [.rxErr]) s = .next (confined (x, y + 1) s) ∧
       exec (.errorPassive [.rxErr8]) s = .next (confined (x, y + 8) s) ∧ exec (.errorPassive [.txOk]) s = .next (confined (x - 1, y) s) ∧
       (∀ e, e = .rxOk ∨ e = .ext29 ∨ e = .remote →
         exec (.errorPassive [e]) s = .next (confined (x, if 127 < y then 127 else y - 1) s)) ∧
       (∀ n ≤ 32, x = 0 → exec (.errorPassive (List.replicate n .txErr)) s = .next (confined (8 * n, y) s))) ∧
     (canRuns s = false → ∀ e, exec (.errorPassive e) s = .next s ∧ exec .busOffRecovery s = .next s) ∧
     (canRuns s = true → s.m.canErr = .busOff → (∀ e, exec (.errorPassive e) s = .next s) ∧
       exec .busOffRecovery s = .next (condClear 7 (updM (fun m => { m with canErr := .active, txErrs := 0, rxErrs := 0 }) s))))

/-- STORE_PARAMETERS, RESTORE_DEFAULTS, ERROR_COUNT_CLEAR, LOGCLR, WRLOCK, NONCE, CERTCHUNK and DBGLOCK (R661, R664, R669, R670, R676, R693, R703), by
every path that takes the write: a store makes a snapshot the current bank, "load" marks the image, the history or the log is erased, lock bits are
set, a report is started, certificate bytes are stored, a debug session ends. Under the inhibit a store is refused with 0x08000020. -/
def Obligations.DictionaryCommandsTakeEffect : Prop :=
  ∀ (p : DPath) (s : State),
    (takes p 0x1010 1 s = true → s.m.pwr.inhibit = false → exec (.storeParameters p true) s = .next (wrote p 0x1010 1 [0x73, 0x61, 0x76, 0x65]
      (updM fun m =>
        let b : Bank := { seq := (if m.cur then m.bankB else m.bankA).seq + 1, valid := true, vals := m.objs }
        if m.cur then { m with bankA := b, cur := false, loadMark := false } else { m with bankB := b, cur := true, loadMark := false }) s)) ∧
    (takes p 0x1010 1 s = true → s.m.pwr.inhibit = true → exec (.storeParameters p true) s =
      .next (answer p (asked p 0x1010 1 [0x73, 0x61, 0x76, 0x65] s) 0x08000020 (asked p 0x1010 1 [0x73, 0x61, 0x76, 0x65] s))) ∧
    (takes p 0x1011 1 s = true → s.m.pwr.inhibit = false → exec (.restoreDefaults p) s =
      .next (wrote p 0x1011 1 [0x6C, 0x6F, 0x61, 0x64] (updM fun m => { m with loadMark := true }) s)) ∧
    (takes p 0x1003 0 s = true → exec (.errorCountClear p) s = .next (wrote p 0x1003 0 [0] (updM fun m => { m with hist := [] }) s)) ∧
    (takes p 0x2402 2 s = true → s.m.pwr.inhibit = false → exec (.logclr p) s =
      .next (wrote p 0x2402 2 [0x63, 0x6C, 0x61, 0x72] (fun s => { s with log := [] }) s)) ∧
    (∀ v, takes p 0x2002 1 s = true → exec (.wrlock p v) s = .next (wrote p 0x2002 1 [v]
      (updM fun m => { m with wrlock := (v &&& 7) ||| (m.wrlock &&& setBit 0 (pathBit p) true) }) s)) ∧
    (∀ v : BitVec 256, takes p 0x2802 1 s = true → s.m.att.astat ≠ 1 → hasIdentity (lcState s) = true →
      exec (.nonce p v) s = .next (wrote p 0x2802 1 (leBytes 32 v.toNat)
        (fun s => updM (fun m => { m with att := { m.att with astat := 1, snap := reportBytes s (leBytes 32 v.toNat) } }) s) s)) ∧
    (∀ d, takes p 0x2801 3 s = true → lcState s ≤ 1 → s.m.pwr.inhibit = false → 0 < d.length → d.length ≤ 4096 →
      s.m.att.certOff.toNat + d.length ≤ 20480 →
      exec (.certchunk p d) s = .next (wrote p 0x2801 3 d (updM fun m =>
        { m with att := { m.att with
            cert := d.zipIdx.foldl (fun c e => mapSet 0 c (m.att.certOff.toNat + e.2) e.1) m.att.cert
            certLen := BitVec.ofNat 16 (max m.att.certLen.toNat (m.att.certOff.toNat + d.length)) } }) s)) ∧
    (takes p 0x2803 4 s = true → exec (.dbglock p 1) s = .next (wrote p 0x2803 4 [1]
      (updM fun m => { m with dbg := { m.dbg with level := openLevel (lcOf m.fuses.lc), perm := false } }) s))

/-- MODE_REQUEST_STANDBY, _RUN, _DROWSE, _SLEEP and _HALT (R643 to R647), by every path that takes the write, with no request in progress: the
transitions of R644, with result 0. SLEEP entry begins with result 1. A request that the mode does not allow has result 3 and changes nothing else. -/
def Obligations.ModeRequestsChangeTheMode : Prop :=
  ∀ (p : DPath) (s : State), takes p 0x2000 2 s = true → s.m.reqBusy = false →
    (s.mode = .run ∨ s.mode = .drowse → exec (.modeRequestStandby p) s = .next (wrote p 0x2000 2 [1] (fun s =>
      updM (fun m => { m with modeRes := 0, pwr := { m.pwr with sectors := 0 } }) { s with mode := .standby }) s)) ∧
    (s.mode = .standby ∨ s.mode = .drowse → runAllowed s = true → exec (.modeRequestRun p) s = .next (wrote p 0x2000 2 [2] (fun s =>
      updM (fun m =>
        { m with modeRes := 0, patch := { m.patch with locked := true, ran := true }, pwr := { m.pwr with sectors := 0 } })
        { s with mode := .run }) s)) ∧
    (s.mode = .run → exec (.modeRequestDrowse p) s =
      .next (wrote p 0x2000 2 [3] (fun s => updM (fun m => { m with modeRes := 0 }) { s with mode := .drowse }) s)) ∧
    (s.mode = .standby ∨ s.mode = .run ∨ s.mode = .drowse →
      exec (.modeRequestHalt p) s = .next (wrote p 0x2000 2 [5] (fun s => updM (fun m => { m with modeRes := 0 }) (slowAll
        (updM (fun m => { m with saved := s.mode, haltOrg := 1, pwr := { m.pwr with sectors := 0 } }) { s with mode := .halt }))) s) ∧
      (sleepAreaOk s = true → sleepBusy s = false → exec (.modeRequestSleep p) s = .next (wrote p 0x2000 2 [4] (fun s =>
        sleepSettle (updM (fun m => { m with modeRes := 1, entering := true, reqBusy := true }) s)) s))) ∧
    (s.mode = .standby → exec (.modeRequestDrowse p) s =
      .next (wrote p 0x2000 2 [3] (updM fun m => { m with modeRes := 3 }) s))

/-- LC_DEV, LC_PROD, LC_RETURN, LC_END, SVNCOMMIT, ODKHSET and POLICYSET (R682 to R689, R703): on the path and in the state that each asks for, its
fuse write starts; FUSE_WRITE_COMPLETE makes it take effect: the fuse pair is blown, and a new lifecycle state ends the debug session.
ATTESTATION_SIGNED (R693): while a report is being signed, the signed report becomes ready, with ASEQ advanced; otherwise nothing changes. -/
def Obligations.FusesAndReportsTakeEffect : Prop :=
  ((∀ (p : DPath) (s : State), fusable s = true →
     let mode : Prop := s.mode = .bringup ∨ s.mode = .standby
     (takes .debug 0x2800 2 s = true → mode → lcState s = 0 → s.m.fuses.keys = true →
       exec (.lcDev .debug 0) s = .next (wrote .debug 0x2800 2 [1, 0, 0, 0, 0] (fusing (.lc 0)) s)) ∧
     (takes p 0x2800 2 s = true → mode → lcState s = 1 → p ≠ .can →
       exec (.lcProd p Config.serial) s = .next (wrote p 0x2800 2 (2 :: leBytes 4 Config.serial.toNat) (fusing (.lc 1)) s)) ∧
     (takes .debug 0x2800 2 s = true → mode → lcState s = 2 → s.m.dbg.perm = true →
       exec (.lcReturn .debug 0) s = .next (wrote .debug 0x2800 2 [3, 0, 0, 0, 0] (fusing (.lc 2)) s)) ∧
     (takes p 0x2800 2 s = true → mode → p ≠ .can →
       exec (.lcEnd p (Config.serial ^^^ 0x454E4421)) s =
         .next (wrote p 0x2800 2 (4 :: leBytes 4 (Config.serial ^^^ 0x454E4421 : BitVec 32).toNat) (fusing (.lc 3)) s)) ∧
     (∀ v, takes p 0x2800 4 s = true → s.m.patch.busy = false → s.pgen ≠ 0 → v.toNat ≤ s.m.patch.psvn.toNat → s.m.fuses.svn < v.toNat →
       v.toNat ≤ 64 → exec (.svncommit p v) s = .next (wrote p 0x2800 4 [v] (fusing (.svn v.toNat)) s)) ∧
     (∀ v : BitVec 256, takes p 0x2800 0x0A s = true → s.m.fuses.odkh = none → (lcState s = 1 ∨ lcState s = 2) →
       exec (.odkhset p v) s = .next (wrote p 0x2800 0x0A (leBytes 32 v.toNat) (fusing (.odkh v)) s)) ∧
     (∀ v, takes p 0x2800 9 s = true → p ≠ .can → (lcState s = 1 ∨ lcState s = 2) →
       exec (.policyset p v) s = .next (wrote p 0x2800 9 [v] (fusing (.policy v)) s))) ∧
   (∀ (s : State),
     (∀ v, s.m.fuseW = some (.svn v) → exec (.fuseWriteComplete true) s =
       .next (updM (fun m => { m with fuseW := none, fuses := { m.fuses with svn := v } }) s)) ∧
     (∀ v, s.m.fuseW = some (.policy v) → exec (.fuseWriteComplete true) s =
       .next (updM (fun m => { m with fuseW := none, fuses := { m.fuses with policy := m.fuses.policy ||| v } }) s)) ∧
     (∀ v, s.m.fuseW = some (.odkh v) → exec (.fuseWriteComplete true) s =
       .next (updM (fun m => { m with fuseW := none, fuses := { m.fuses with odkh := some v } }) s)) ∧
     (∀ i, s.m.fuseW = some (.lc i) → lcState s < i + 1 → i < 4 →
       ∃ t, exec (.fuseWriteComplete true) s = .next t ∧ lcState t = i + 1 ∧ t.m.dbg.level = openLevel (i + 1) ∧ t.m.fuseW = none ∧
         t.mem = s.mem))) ∧
  (∀ (s : State),
     (s.m.att.astat = 1 → exec .attestationSigned s = .next (updM (fun m => { m with att := { m.att with
       astat := 2, aseq := m.att.aseq + 1, snap := []
       report := m.att.snap ++ (upto 17088).map (Config.attSign (leNat (slice m.att.snap 14 1)) m.att.snap) } }) s)) ∧
     (s.m.att.astat ≠ 1 → exec .attestationSigned s = .next s))

/-- SLEEP_EXIT, SKEIN_PARK, SKEIN_WAKE, SECTOR_PARK and SECTOR_WAKE (R638 to R640, R649). An exit that has started ends in the mode held before, with
TB moved forward from its value at the last tick before SLEEP by the ticks it counted at the measured period, and marked as reconstructed; a compare
whose value it has left behind is late, and the capture levels are sampled; without a request or a wake tick SLEEP goes on. An idle skein parks (its
idle time on the slow clock is the model's reading, log entry 171) and a parked one wakes, with its sector; a sector parks in DROWSE with its eight
skeins. WHORL_PERIOD (R631 to R637): the supply and the domain are measured, and the constraints act in their order: over-current and demand move the
target by 100 M hs/s within the floor and the ceiling, the throttle point throttles, the voltage follows. In HALT and at a critical temperature every
target is 1,600; in BRINGUP and SLEEP only the supply and the temperatures are measured. -/
def Obligations.SleepParkingAndTheWhorl : Prop :=
  (∀ (s : State),
     (∀ ticks p, s.mode = .sleep → s.m.exiting = true → s.m.saved = .standby ∨ s.m.saved = .drowse → s.m.haltHeld = false →
       let v := s.m.slow.tb + max 1 (ticks * s.m.slow.p / 2 ^ 20)
       v < 2 ^ 64 →
       ∃ t, exec (.sleepExit ticks p true) s = .next t ∧ t.mode = s.m.saved ∧ t.tb = v ∧ t.tbRecon = true ∧
         (∀ i < 8, (getCap t i).lvl = s.m.capPins.getLsbD i) ∧
         (∀ i, (getCmp s i).en = true → (getCmp s i).done = false → (getCmp s i).v.toNat + 1 < v → (getCmp t i).late = true) ∧ t.m.exiting = false ∧ t.m.reqBusy = false ∧ t.ctxs = s.ctxs ∧ t.mem = s.mem ∧ t.spindles = s.spindles) ∧
     (∀ ticks p ok, s.mode = .sleep → s.m.exiting = false → s.cmps = [] → exec (.sleepExit ticks p ok) s = .next s) ∧
     (∀ k, canPark k s = true → ∃ t, exec (.skeinPark k) s = .next t ∧ (getSk t k).parked = true ∧
       (∀ j, j ≠ k → getSk t j = getSk s j) ∧ t.ctxs = s.ctxs ∧ t.mem = s.mem ∧ t.m = s.m ∧ (∀ b ∈ t.bcasts, ∀ q ∈ b.todo, spSk q ≠ k)) ∧
     (∀ k, (getSk s k).parked = true → exec (.skeinWake k) s = .next (updSk k (fun x => { x with parked := false })
       (fabric (skSector k) (skSector k) s)) ∧ (fabric (skSector k) (skSector k) s).m.pwr.sectors.getLsbD (k.toNat / 8) = false) ∧
     (∀ n : BitVec 2, s.mode = .drowse → s.m.entering = false → (n = 1 ∨ n = 2) → (objGet s 0x2104 1).getLsbD 3 = true →
       objGet s 0x2102 (n.toNat + 33) = 1600 → mapGet 0 s.m.pwr.trafAt n.toNat + parkIdle s ≤ s.m.clock →
       ((∀ i < 8, (getSk s (BitVec.ofNat 5 (8 * n.toNat + i))).parked = true) →
         exec (.sectorPark n) s = .next (updPwr (fun p => { p with sectors := setBit p.sectors n.toNat true }) s)) ∧
       ((∃ i < 8, (getSk s (BitVec.ofNat 5 (8 * n.toNat + i))).parked = false) → exec (.sectorPark n) s = .next s)) ∧
     (∀ n : BitVec 2, exec (.sectorWake n) s = .next (updPwr (fun p => { p with sectors := setBit p.sectors n.toNat false }) s))) ∧
  (∀ (vin iin pin : Nat) (s : State),
     (∀ x : DomMeas, x.dom < 36 → (s.mode = .standby ∨ s.mode = .run ∨ s.mode = .drowse) → s.m.pwr.critical = false →
       domParked s x.dom = false → s.m.pwr.rounds = [] → pin ≤ 1000 * capW s →
       ∃ t, exec (.whorlPeriod vin iin pin [x]) s = .next t ∧ t.m.pwr.vin = vin ∧ t.m.pwr.iin = iin ∧ t.m.pwr.pin = pin ∧
         getDom t x.dom = { (getDom s x.dom) with
           temp := x.temp, rate := x.rate, demand := x.demand, target := newTarget s x, thr := throttled s x
           vset := newSetting s x, volt := newVolt s x } ∧
         (∀ d, d ≠ x.dom → getDom t d = getDom s d) ∧ t.ctxs = s.ctxs ∧ t.mem = s.mem ∧ t.spindles = s.spindles ∧ t.tb = s.tb) ∧
     (s.mode = .halt ∨ s.m.pwr.critical = true → s.mode ≠ .bringup → s.mode ≠ .sleep →
       ∃ t, exec (.whorlPeriod vin iin pin []) s = .next t ∧ (∀ d < 36, domParked s d = false → (getDom t d).target = 1600) ∧ t.mem = s.mem) ∧
     (s.mode = .bringup ∨ s.mode = .sleep → ∀ l,
       exec (.whorlPeriod vin iin pin l) s = .next (l.foldl (fun s x => updDom x.dom (fun d => { d with temp := x.temp }) s)
         (updPwr (fun p => { p with vin := vin, iin := iin, pin := pin }) s))))

/-- CRITICAL_TEMPERATURE and its release, THERMAL_TRIP, COLD_LIMIT and its clear, SUPPLY_OUT_OF_RANGE and the return, SAG, INHIBIT_LIFT, BROWN_OUT,
OVER_VOLTAGE and DISTAFF_STOP (R651 to R656, R720): each records its event once, begins or ends its condition, and the trips and shutdowns put the
device into BRINGUP with their cause; the slow clock, the fuses and the retirement records stay. -/
def Obligations.TemperatureAndSupplyEventsProtect : Prop :=
  ∀ (s : State),
    (∀ d : BitVec 6, s.m.pwr.critical = false → exec (.criticalTemperature d) s =
      .next (slowAll (condSet 0 false (recorded 0x24 4 d.toNat (updPwr (fun p => { p with critical := true }) s))))) ∧
    exec .criticalTemperatureRelease s = .next (condClear 0 (updPwr (fun p => { p with critical := false }) s)) ∧
    (∀ d : BitVec 6, s.m.pwr.thermtrip = false → ∃ t, exec (.thermalTrip d) s = .next t ∧ t.mode = .bringup ∧ t.m.step = 2 ∧ t.m.cause = 4 ∧
      t.m.pwr.thermtrip = true ∧ t.ctxs = [] ∧ t.m.conds.getLsbD 9 = true ∧ t.m.fuses = s.m.fuses ∧ t.m.retire = s.m.retire) ∧
    (∀ d : BitVec 6, s.m.pwr.cold = false →
      (s.mode = .bringup → s.m.step ≤ 2 → exec (.coldLimit d) s = .next (updPwr (fun p => { p with cold := true }) s)) ∧
      (s.mode ≠ .bringup → exec (.coldLimit d) s = .next (condSet 1 false (recorded 0x25 4 d.toNat (updPwr (fun p => { p with cold := true }) s))))) ∧
    exec .coldLimitClear s = .next (condClear 1 (updPwr (fun p => { p with cold := false }) s)) ∧
    (∀ above, s.m.conds.getLsbD 2 = false → exec (.supplyOutOfRange above) s = .next (condSet 2 (!above) (recorded 0x26 4 39 s))) ∧
    exec .supplyReturnToRange s = .next (condClear 2 s) ∧
    (s.m.pwr.inhibit = false → ∃ t r, exec .sag s = .next t ∧ t.m.pwr.inhibit = true ∧ t.log = (r :: s.log).take 3200 ∧ r.event = 0x28 ∧
      r.seq = s.recSeq ∧ r.tb = s.tb ∧ t.mode = s.mode ∧ mapGet 0 t.counters 0x28 = mapGet 0 s.counters 0x28) ∧
    (∃ t, exec .inhibitLift s = .next t ∧ t.m.pwr.inhibit = false ∧ t.m.boots = (if s.m.bootsDue then s.m.boots + 1 else s.m.boots) ∧
      t.m.bootsDue = false ∧ t.mem = s.mem ∧ t.ctxs = s.ctxs ∧ t.mode = s.mode) ∧
    (∃ t, exec .brownOut s = .next t ∧ t.mode = .bringup ∧ t.m.step = 1 ∧ t.m.cause = 2 ∧ t.m.pwr.inhibit = true ∧ t.ctxs = [] ∧
      t.recQ = [] ∧ (∀ n, mapGet 0 t.counters n = if n = 0x28 then 1 else 0)) ∧
    (∃ t, exec .overVoltage s = .next t ∧ t.mode = .bringup ∧ t.m.step = 1 ∧ t.m.cause = 3 ∧ t.ctxs = [] ∧
      mapGet 0 t.counters 0x28 = min (2 ^ 32 - 1) (mapGet 0 s.counters 0x28 + 1)) ∧
    (∃ t, exec .distaffStop s = .next t ∧ t.mode = .bringup ∧ t.m.step = 1 ∧ t.m.cause = 0 ∧ t.ctxs = [] ∧ t.counters = [] ∧
      t.m.tap = {} ∧ t.m.canErr = .active ∧ t.m.txErrs = 0 ∧ t.m.rxErrs = 0)

/-- RESET_N and START_UP (R721 to R730). RESET_N low abandons operation and holds the sequence at step 2; released, the sequence runs. Its steps: the
supply, the parameters, the timebase and the CAN port, the fixed domains, the units and their spares, the size of DRAM, DRAM cleared, and STANDBY. A
step that fails leaves the device at its step with cause 6; in LC_END the sequence stops at the end of its step. -/
def Obligations.ResetAndStartUpRunTheSequence : Prop :=
  ∀ (s : State),
    (∀ te, exec (.resetN true te) s = .next (updM (fun m => { m with resetN := true, testEn := te }) s)) ∧
    (∀ te, ∃ t, exec (.resetN false te) s = .next t ∧ t.mode = .bringup ∧ t.m.step = 2 ∧ t.m.cause = 1 ∧ t.m.resetN = false ∧ t.m.testEn = te ∧
      t.ctxs = [] ∧ t.counters = s.counters ∧ t.log = s.log ∧ t.m.fuses = s.m.fuses) ∧
    (∀ r u, startHeld s = false → ∃ t, exec (.startUp (.fail r u)) s = .next t ∧ t.m.failed = true ∧ t.m.cause = 6 ∧ t.m.step = s.m.step ∧
      t.mode = .bringup) ∧
    (startHeld s = true → ∀ o, exec (.startUp o) s = .next s) ∧
    (lcState s = 4 → startHeld s = false → s.m.step = 3 ∨ s.m.step = 4 ∨ s.m.step = 7 → ∃ t, exec (.startUp .done) s = .next t ∧ t.m.step = s.m.step ∧ t.m.failed = true) ∧
    (starting 1 s = true → exec (.startUp .done) s = .next (updM (fun m => { m with step := 2, pwr := { m.pwr with inhibit := false } }) s)) ∧
    (starting 2 s = true → exec (.startUp .done) s = .next (updM (fun m => { m with step := m.step + 1 }) (initDistaff s))) ∧
    (∀ b, starting 2 s = true → bankToLoad s.m = some b → ∃ t, exec (.startUp .done) s = .next t ∧ t.m.step = 3 ∧ t.m.cur = b ∧
      t.m.objs = (if b then s.m.bankB else s.m.bankA).vals ∧ t.m.boots = (if s.m.pwr.inhibit then s.m.boots else s.m.boots + 1)) ∧
    (starting 3 s = true → exec (.startUp .done) s = .next (updM (fun m => { m with step := m.step + 1 })
      (canStart (slowStart (slowTick s.m.clock) { s with tb := 0, tbRun := true })))) ∧
    (starting 4 s = true → ∃ t, exec (.startUp .done) s = .next t ∧ t.m.step = 5 ∧
      t.m.pwr.bus = 1800 ∧ (∀ i < 8, (getCap t i).lvl = s.m.capPins.getLsbD i) ∧
      (∀ d, 36 ≤ d → d ≤ 38 → (getDom t d).volt = (if d = 36 then 750 else if d = 37 then 850 else 800) ∧
        (getDom t d).volt2 = (if d = 36 then 1100 else if d = 37 then 1200 else 0))) ∧
    (starting 5 s = true → s.m.retire = [] → ∃ t, exec (.startUp (.units [])) s = .next t ∧ t.m.step = 6 ∧
      (∀ d < 36, (getDom t d).target = 1600 ∧ (getDom t d).rate = 1600)) ∧
    (∀ n rate, ∀ d : Dimm, starting 6 s = true → lcState s ≠ 4 → n = 1 ∨ n = 2 → rate = 128 ∨ rate = 112 ∨ rate = 96 → 12 * n * d.gib ≤ 3072 →
      ∃ t, exec (.startUp (.dram (List.replicate 12 (List.replicate n d)) rate)) s = .next t ∧ t.m.step = 7 ∧ t.dram = 2 ^ 27 * (12 * n * d.gib) ∧
        t.m.dimms = { per := n, gib := d.gib, ranks := d.ranks, width := d.width, rate := rate } ∧ t.m.pwr.dramReset = false) ∧
    (∀ pop rate, starting 6 s = true → popOk pop rate = false → ∃ t, exec (.startUp (.dram pop rate)) s = .next t ∧ t.m.failed = true ∧
      t.m.step = 6 ∧ t.m.cause = 6) ∧
    (starting 7 s = true → exec (.startUp .done) s = .next (updM (fun m => { m with step := 8 }) { s with mem := [], poisoned := [], arrErr := [], arrDue := [], dramBad := [] })) ∧
    (starting 8 s = true → ∃ t, exec (.startUp .done) s = .next t ∧ t.mode = (if s.m.haltHeld then .halt else .standby) ∧ t.m.step = 0 ∧
      t.mem = s.mem ∧ ∀ k, (getSk t k).dis = false)

/-- COMPARE_FIRE, COMPARE_WRITE, CAPTURE_EDGE, REFERENCE_LOSS and REFERENCE_RETURN (R617 to R628). Of the compares whose value TB has reached the
lowest numbered fires: its flag, its pin, its interrupt or bit, and a periodic value moves to the next multiple after TB. A write of a control
register clears the flags it names, but not those that a firing has set in the same nanosecond. An edge sets the level of its input; an enabled one
records TB, its sequence number and an overrun of a record not yet read. The loss of the reference sets HOLD and is counted; after its return HOLD
ends at the next tick of the slow clock (TB under HOLD: the model's reading, log entry 169). -/
def Obligations.ComparesFireAndEdgesAreCaptured : Prop :=
  (∀ (n : BitVec 3) (s : State), let x := getCmp s n.toNat
    x.en = true → x.done = false → x.v.toNat ≤ s.tb → (∀ j < n.toNat, cmpDue s j = false) → s.mode ≠ .sleep → x.irq = false → x.bite = false →
    (∀ w ∈ s.cmpW, w.1.toNat ≠ 0x3E0 + n.toNat) →
    (x.period = 0 → exec (.compareFire n) s = .next { (setCmp s n.toNat
      { x with fired := true, lateF := x.lateF || x.late, en := false, done := true, late := false }) with
      cmpo := pinAction n.toNat x.pinact s.cmpo }) ∧
    (x.period ≠ 0 → x.v.toNat + ((s.tb - x.v.toNat) / x.period.toNat + 1) * x.period.toNat < 2 ^ 64 →
      ∃ t, exec (.compareFire n) s = .next t ∧ (getCmp t n.toNat).en = true ∧ (getCmp t n.toNat).fired = true ∧
        s.tb < (getCmp t n.toNat).v.toNat ∧ (getCmp t n.toNat).v.toNat ≤ s.tb + x.period.toNat ∧
        (getCmp t n.toNat).v.toNat % x.period.toNat = x.v.toNat % x.period.toNat ∧ t.tb = s.tb ∧ t.mem = s.mem)) ∧
  (∀ (n : BitVec 3) (s : State), let x := getCmp s n.toNat
    x.en = true → x.done = false → x.v.toNat ≤ s.tb → (∀ j < n.toNat, cmpDue s j = false) → (s.mode = .standby ∨ s.mode = .run) →
    x.irq = true → x.bite = false → x.period = 0 → (getCtx s x.bind).st ≠ .free → (∀ w ∈ s.cmpW, w.1.toNat ≠ 0x3E0 + n.toNat) → exec (.compareFire n) s = .next (raiseIrq x.bind 0 { (setCmp s n.toNat
      { x with fired := true, lateF := x.lateF || x.late, en := false, done := true, late := false }) with
      cmpo := pinAction n.toNat x.pinact s.cmpo })) ∧
  (∀ (n : BitVec 3) (s : State), (getCmp s n.toNat).en = false ∨ s.tb < (getCmp s n.toNat).v.toNat ∨ (∃ j < n.toNat, cmpDue s j = true) →
    exec (.compareFire n) s = .next s) ∧
  (∀ (n : BitVec 12) (v : Datum) (r : List (BitVec 12 × Datum)) (s : State), s.cmpW = (n, v) :: r →
    (s.mode ≠ .sleep → exec .compareWrite s = .next (cmpWrite n.toNat v { s with cmpW := r })) ∧
    (s.mode = .sleep → exec .compareWrite s = .next s) ∧
    (∀ i < 8, n.toNat = 0x3E0 + i → s.mode ≠ .sleep → ∃ t, exec .compareWrite s = .next t ∧ (getCmp t i).en = v.getLsbD 47 ∧
      (getCmp t i).v = (getCmp s i).v ∧
      ((getCmp s i).kept = none → (getCmp t i).fired = ((getCmp s i).fired && !v.getLsbD 46)) ∧
      (∀ b : BitVec 3, (getCmp s i).kept = some (s.m.clock, b) → b.getLsbD 2 = true → (getCmp t i).fired = (getCmp s i).fired))) ∧
  (∀ (n : BitVec 3) (e : CapEdge) (s : State), let x := getCap s n.toNat
    let a := edgeAlone e
    let u := updM (fun m => { m with capPins := setBit m.capPins n.toNat (edgeUp e != a) }) s
    (s.mode = .sleep ∨ s.m.pwr.off = true → exec (.captureEdge n e) s = .next u) ∧
    (s.mode ≠ .sleep → s.m.pwr.off = false →
      (s.capctl.getLsbD (if edgeUp e then n.toNat else 8 + n.toNat) = false →
        exec (.captureEdge n e) s = .next (setCap u n.toNat { x with lvl := edgeUp e != a })) ∧
      (s.capctl.getLsbD (16 + n.toNat) = false → s.tbHold = false →
        (edgeUp e = true → s.capctl.getLsbD n.toNat = true → exec (.captureEdge n e) s = .next (setCap u n.toNat { x with
          lvl := !a, rise := BitVec.ofNat 64 s.tb, rseq := x.rseq + 1, rovr := x.rovr || x.rv, rv := true, pair := false, lastRise := true })) ∧
        (edgeUp e = false → s.capctl.getLsbD (8 + n.toNat) = true → exec (.captureEdge n e) s = .next (setCap u n.toNat { x with
          lvl := a, fall := BitVec.ofNat 64 s.tb, fseq := x.fseq + 1, fovr := x.fovr || x.fv, fv := true
          pair := x.lastRise && s.capctl.getLsbD n.toNat && !a && decide (x.rise ≠ BitVec.ofNat 64 s.tb), lastRise := false }))))) ∧
  (∀ (s : State), s.tbRun = true →
    (s.tbHold = false ∨ s.tbRet = true → s.mode ≠ .sleep → exec .referenceLoss s = .next (logEvent 0x1B 4 38 0 none none 0
      { s with tbHold := true, tbRet := false })) ∧
    (s.tbHold = true → s.tbRet = false → ∃ t, exec .referenceReturn s = .next t ∧ t.tbRet = true ∧ t.tbHold = true ∧ t.tb = s.tb ∧ t.mem = s.mem ∧
      mapGet 0 t.counters 0x1B = mapGet 0 s.counters 0x1B))

/-- PATCH_LOAD, PATCH_LOAD_COMPLETE and PATCH_LOCK (R258 to R263, R729). GO starts a load unless the loader is locked or RUN has been entered, when
the load fails with code 0x01. A load that passes every check installs its match entries, its microwords and its generation; one that fails leaves
them as they are. LOCK ends loading. -/
def Obligations.PatchesLoadAndLock : Prop :=
  ∀ (s : State),
    (served s = true → s.m.patch.busy = false →
      (s.m.patch.locked = false → s.m.patch.ran = false → exec .patchLoad s =
        .next (updM (fun m => { m with patch := { m.patch with busy := true, gaddr := m.patch.addr, glen := m.patch.len } }) s)) ∧
      (s.m.patch.locked = true ∨ s.m.patch.ran = true → ∃ t, exec .patchLoad s = .next t ∧ t.m.patch.code = 0x01 ∧ t.patch = s.patch ∧
        t.matchRegs = s.matchRegs ∧ t.pgen = s.pgen)) ∧
    (∀ ms ws, s.m.patch.busy = true → imgCheck s = (0, ms, ws) → s.injArmed = none → ∃ t, exec .patchLoadComplete s = .next t ∧
      t.m.patch.busy = false ∧ t.m.patch.code = 0 ∧ t.nwords = ws.length ∧ t.pgen = BitVec.ofNat 8 (leNat (slice (imageBytes s) 16 1)) ∧
      (∀ i, mapGet 0 t.patch i = ws.getD i 0) ∧ (∀ i, mapGet 0 t.matchRegs i = ms.getD i 0) ∧ t.mem = s.mem ∧ t.ctxs = s.ctxs) ∧
    (∀ c ms ws, s.m.patch.busy = true → imgCheck s = (c + 1, ms, ws) → ∃ t, exec .patchLoadComplete s = .next t ∧ t.m.patch.busy = false ∧
      t.m.patch.code = BitVec.ofNat 8 (c + 1) ∧ t.patch = s.patch ∧ t.matchRegs = s.matchRegs ∧ t.pgen = s.pgen ∧ t.nwords = s.nwords ∧
      t.mem = s.mem) ∧
    (served s = true → exec .patchLock s = .next (updM (fun m => { m with patch := { m.patch with locked := true } }) s))

/-- STATUS, CHAL, TOKW, TOKEN_VERIFICATION, LOCK, ADDR, RD, WR, HALT, RELEASE and DIRQ (R694 to R701): at a sufficient level each answers STAT 0 with
its effect; below its level it answers STAT 1 with none. The challenge of CHAL is a free value. -/
def Obligations.DebugCommandsActAtTheirLevel : Prop :=
  ∀ (s : State),
    (∀ cmd ∈ [(5, Instr.rd), (7, Instr.halt), (8, Instr.release), (6, Instr.wr 0), (9, Instr.dirq 0)],
      debugs 0 s = true → s.m.dbg.level = 0 → exec cmd.2 s = .next (debugged (BitVec.ofNat 4 cmd.1) 1 0 0 s)) ∧
    (debugs 0 s = true →
      (∃ d, exec .status s = .next (debugged 0 0 d 0 s) ∧ d.extractLsb' 62 2 = s.m.dbg.level ∧ d.extractLsb' 48 8 = s.m.dbg.result ∧
        d.extractLsb' 32 16 = s.m.dbg.failcnt) ∧
      (∀ data : BitVec 64, waitLeft s = 0 → s.m.dbg.verify = false →
        (data.extractLsb' 0 2 = 0 → let r := freshNat s
          exec (.chal data) s = .next (debugged 1 0 (BitVec.ofNat 64 r.1) 0
            (updDbg (fun d => { d with chal := some (BitVec.ofNat 256 r.1), tok := [] }) r.2))) ∧
        (∀ ch, data.extractLsb' 0 2 ≠ 0 → s.m.dbg.chal = some ch →
          exec (.chal data) s = .next (debugged 1 0 (ch.extractLsb' (64 * (data.extractLsb' 0 2).toNat) 64) 0 s)) ∧
        exec (.tokw data) s = .next (debugged 2 0 0 0
          (updDbg (fun d => { d with tok := d.tok ++ [data], verify := decide (2040 ≤ d.tok.length + 1) }) s))) ∧
      exec .lock s = .next (debugged 3 0 0 0 (updDbg (fun d => { d with level := openLevel (lcState s), perm := false }) s)) ∧
      (∀ data : BitVec 64, exec (.addr data) s =
        .next (debugged 4 0 0 0 (updDbg (fun d => { d with space := data.extractLsb' 62 2, addr := data.extractLsb' 0 40 }) s)))) ∧
    (s.m.dbg.verify = true →
      (∀ lv perm, tokenCheck s = (0, lv, perm) → ∃ t, exec .tokenVerification s = .next t ∧ t.m.dbg.level = BitVec.ofNat 2 lv ∧ t.m.dbg.perm = perm ∧
        t.m.dbg.result = 0 ∧ t.m.dbg.failcnt = 0 ∧ t.m.dbg.chal = none ∧ t.mem = s.mem) ∧
      (∀ r lv perm, tokenCheck s = (r + 1, lv, perm) → ∃ t, exec .tokenVerification s = .next t ∧ t.m.dbg.level = s.m.dbg.level ∧
        t.m.dbg.failcnt.toNat = min 65535 (s.m.dbg.failcnt.toNat + 1) ∧ t.m.dbg.result = BitVec.ofNat 8 (r + 1) ∧ t.m.dbg.chal = none ∧
        (4 ≤ s.m.dbg.failcnt.toNat + 1 → t.m.dbg.waitEnd =
          s.m.clock + 1000000000 * min 1024 (2 ^ min 10 (min 65535 (s.m.dbg.failcnt.toNat + 1) - 4))))) ∧
    (debugs 1 s = true →
      (∀ v, s.m.dbg.space = 1 → (s.mode = .standby ∨ s.mode = .run ∨ s.mode = .drowse ∨ s.mode = .halt) → s.m.dbg.addr.toNat < s.dram →
        ∀ t, readCell none s.m.dbg.addr (distaffReach (lineOf s.m.dbg.addr) false s) = (some v, t) → t.m.dbg = s.m.dbg →
        exec .rd s = .next (debugged 5 0 (cellAt t s.m.dbg.addr) 1 t)) ∧
      (∀ c, s.m.dbg.space = 2 → imageCtx s s.m.dbg.addr = some c →
        let u := reach distaffSector (getCtx s c).skein s
        exec .rd s = .next (debugged 5 0 (bobbinRead c (getCtx u c) (s.m.dbg.addr.toNat % 64)) 1 u))) ∧
    (debugs 2 s = true →
      (∀ data : BitVec 64, s.m.dbg.space = 1 → (s.mode = .standby ∨ s.mode = .run ∨ s.mode = .drowse ∨ s.mode = .halt) → s.m.dbg.addr.toNat < s.dram →
        exec (.wr data) s = .next (debugged 6 0 0 1 (putCell none s.m.dbg.addr data (distaffReach (lineOf s.m.dbg.addr) true s)))) ∧
      (∀ c data, s.m.dbg.space = 2 → imageCtx s s.m.dbg.addr = some c →
        exec (.wr data) s = .next (debugged 6 0 0 1 (updCtx c (fun x => bobbinWrite c x (s.m.dbg.addr.toNat % 64) data)
          (reach distaffSector (getCtx s c).skein s)))) ∧
      ((s.mode = .standby ∨ s.mode = .run ∨ s.mode = .drowse) → s.m.entering = false → exec .halt s = .next (debugged 7 0 0 0 (slowAll
        (updM (fun m => { m with saved := s.mode, haltOrg := 2, pwr := { m.pwr with sectors := 0 } }) { s with mode := .halt })))) ∧
      (s.mode = .halt → s.m.haltOrg = 2 → s.heldActs = [] → s.m.saved = .standby → exec .release s = .next (debugged 8 0 0 0
        (updPwr (fun p => { p with sectors := 0 }) { (updM (fun m => { m with haltOrg := 0 }) s) with mode := .standby }))) ∧
      (s.mode ≠ .halt ∨ s.m.haltOrg ≠ 2 → exec .release s = .next (debugged 8 2 0 0 s)) ∧
      (∀ data : BitVec 64, let c : CtxId := data.extractLsb' 0 16
        s.mode ≠ .sleep → s.mode ≠ .bringup → (getCtx s c).st ≠ .free → exec (.dirq data) s = .next (debugged 9 0 0 0 (raiseIrq c 4 (hear distaffSector c s)))))

/-- MCRD, INJADDR, INJARM, SCRUB, RETCLR and SUBST (R719) at level VENDOR, and EXTEST, CLAMP, HIGHZ and TEST_LOGIC_RESET (R599 to R601): each answers
with its effect; a boundary instruction is loaded into the TAP, and drives no pin outside BRINGUP and HALT or below level FULL. EXTEST takes the value
shifted in and captures the pins where it acts, and acts as BYPASS elsewhere; SAMPLE/PRELOAD captures and preloads in every mode; another code is
loaded as it is (the loads within the row EXTEST and the levels from outside: the model's choices, log entry 192). -/
def Obligations.DiagnosticsAndBoundaryScanAct : Prop :=
  (∀ (s : State), debugs 3 s = true →
    (∀ data : BitVec 64, let a := data.extractLsb' 0 16
      lcState s ≠ 0 → a.toNat < 0x2100 →
      exec (.mcrd data) s = .next (debugged 0xA 0
        ((if a.toNat < 0x2000 then Config.rom a.toNat else mapGet 0 s.patch (a.toNat - 0x2000) : BitVec 144).extractLsb' (64 * (data.extractLsb' 16 2).toNat) 64) 0 s)) ∧
    (∀ data : BitVec 64, lcState s ≠ 0 ∨ s.mode ≠ .sleep →
      exec (.injaddr data) s = .next (debugged 0xB 0 0 0 { s with injAddr := data }) ∧
      exec (.injarm data) s = .next (debugged 0xC 0 0 0 { s with injArmed := some data }) ∧
      (s.mode ≠ .bringup → s.mode ≠ .sleep →
        exec .scrub s = .next (debugged 0xD 0 0 0 (updM (fun m => { m with scrub := 0, scrubFast := true }) s)) ∧
        exec (.subst data) s = .next (debugged 0xF 0 0 0
          (updSk (data.extractLsb' 16 5) (fun x => { x with failed := setBit x.failed (data.extractLsb' 0 4).toNat true }) s))) ∧
      (lcState s = 2 → exec .retclr s = .next (debugged 0xE 2 0 0 s)) ∧
      (lcState s ≠ 2 → exec .retclr s = .next (debugged 0xE 0 0 0 (updM (fun m => { m with retClr := true }) s))))) ∧
  (∀ (s : State), s.mode ≠ .bringup ∨ s.m.step ≠ 1 →
    (∀ v, scanActs s = true → exec (.extest (.extest v)) s = .next (updM (fun m => { m with tap := { ir := 0x03, bsr := v, out := scanCapture s } }) s)) ∧
    (∀ v, scanActs s = false → exec (.extest (.extest v)) s = .next (updM (fun m => { m with tap := { m.tap with ir := 0x03 } }) s)) ∧
    (∀ v, exec (.extest (.preload v)) s = .next (updM (fun m => { m with tap := { ir := 0x02, bsr := v, out := scanCapture s } }) s)) ∧
    (∀ c, exec (.extest (.code c)) s = .next (updM (fun m => { m with tap := { m.tap with ir := c } }) s)) ∧
    exec .clamp s = .next (updM (fun m => { m with tap := { m.tap with ir := 0x04 } }) s) ∧
    exec .highz s = .next (updM (fun m => { m with tap := { m.tap with ir := 0x05 } }) s) ∧
    exec .testLogicReset s = .next (updM (fun m => { m with tap := { m.tap with ir := 0x01 } }) s)) ∧
  (∀ (s : State) (cell : Nat) (own : Bool), (s.mode ≠ .bringup ∧ s.mode ≠ .halt) ∨ s.m.dbg.level.toNat < 2 → pinLevel s cell own = some own) ∧
  (∀ (v : BitVec 76) (s t : State) (cell : Nat) (own : Bool), s.mode = .halt → 2 ≤ s.m.dbg.level.toNat → lcState s ≠ 4 →
    (exec (.extest (.extest v)) s = .next t → pinLevel t cell own = if v.getLsbD (cell + 1) then some (v.getLsbD cell) else none) ∧
    (exec .highz s = .next t → pinLevel t cell own = none))

/-- SUBSTITUTION, FABRIC_CRC_ERROR, LOG_RECORD_WRITE and LOST_MEMORY_CHANNEL (R705, R710 to R718). A failed spindle's number moves to the spare of its
skein, which is recorded; a second failure takes the number out of service. Flits are resent and counted, a fifth failure and a lost channel restart
the device with cause 7. The oldest queued record enters the log. A cell that an array holds with wrong bits is corrected, read again, fetched again
or lost (R435), and a tag is taken from its shadow copy or its way of the set retired (R437). A demand read of a line with wrong symbols in DRAM is
corrected, read again or lost (R707). -/
def Obligations.FailuresAreConfinedAndRecorded : Prop :=
  (∀ (c : Option CtxId) (a : PAddr) (v : Cell) (s : State), mapGet false s.poisoned a.toNat = false → arrTarget s a ≠ 0 →
    verify (cellAt s a) = some (v, false) → let r := readCell c a s
    (weight (arrBits s a) = 1 → arrHard s a = false →
      r.1 = some v ∧ mapGet 0 r.2.counters 0x01 = min (2 ^ 32 - 1) (mapGet 0 s.counters 0x01 + 1)) ∧
    (1 < weight (arrBits s a) → arrTransient s a = true →
      r.1 = some v ∧ mapGet 0 r.2.counters 0x02 = min (2 ^ 32 - 1) (mapGet 0 s.counters 0x02 + 1)) ∧
    (1 < weight (arrBits s a) → arrTransient s a = false → (arrClean s a = true → r.1 = some v) ∧ (arrClean s a = false → r.1 = none))) ∧
  (∀ (k : SkId) (set w : Nat) (s : State), let l := skAt (getSk s k) set w
    (l.tag.shad = false → l.tag.hard = false → skAt (getSk (skTagFix k set w s) k) set w = { l with tag := {} }) ∧
    (l.tag.shad = true → (skAt (getSk (skTagFix k set w s) k) set w).retired = true)) ∧
  (∀ (ln : Nat) (s : State), let f := dramAt s ln
    (∀ d, dramEcc s.m.dimms.width f.syms = some (some d) → (dramRead ln s).poisoned = s.poisoned ∧
      (dramRead ln s).arrDue = s.arrDue ++ [{ place := .dram ln (f.dev ++ d), event := 0x08, retire := false }]) ∧
    (dramEcc s.m.dimms.width f.syms = some none →
      (f.again = false → (dramRead ln s).poisoned = s.poisoned) ∧
      (f.again = true → ∀ i, i < 8 → mapGet false (dramRead ln s).poisoned (ln * 8 + i) = true))) ∧
  (∀ (p : SpId) (hard ok : Bool) (s : State), let k := spSk p
    (s.mode = .standby ∨ s.mode = .run ∨ s.mode = .drowse ∨ s.mode = .halt) → (getSk s k).parked = false → spindleFailed p hard s = true →
    (getSk s k).outOf.getLsbD (spLs p).toNat = false →
    (ok = true → (getSk s k).spareFor = none → (getSk s k).spareBad = false → ∃ t, exec (.substitution p hard ok) s = .next t ∧
      (getSk t k).spareFor = some (spLs p)) ∧
    ((getSk s k).spareFor ≠ none → ∃ t, exec (.substitution p hard ok) s = .next t ∧ (getSk t k).outOf.getLsbD (spLs p).toNat = true)) ∧
  (∀ (p : SpId) (ok : Bool) (s : State), spindleFailed p false s = false → exec (.substitution p false ok) s = .next s) ∧
  (∀ (sector : BitVec 2) (n : Nat) (s : State), s.m.pwr.off = false → s.mode ≠ .sleep → s.mode ≠ .bringup →
    (n = 0 → exec (.fabricCrcError sector n) s = .next s) ∧
    (n = 1 → exec (.fabricCrcError sector n) s = .next (logEvent 0x1F 1 (32 + sector.toNat) 0 none none 1 s)) ∧
    (5 ≤ n → ∃ t, exec (.fabricCrcError sector n) s = .next t ∧ t.mode = .bringup ∧ t.m.step = 2 ∧ t.m.cause = 7 ∧ t.ctxs = [])) ∧
  (∀ (r : ErrRec) (q : List ErrRec) (s : State), s.recQ = r :: q →
    (s.m.pwr.inhibit = false → r.tb + 1000000000 ≤ s.tb → exec .logRecordWrite s = .next { s with recQ := q, log := (r :: s.log).take 3200 }) ∧
    (s.tbRun = true → r.tb ≤ s.tb → s.tb < r.tb + 1000000000 → exec .logRecordWrite s = .next s) ∧
    (s.m.pwr.inhibit = true → exec .logRecordWrite s = .next s)) ∧
  (∀ (ch : BitVec 4) (s : State), s.mode ≠ .bringup → ∃ t, exec (.lostMemoryChannel ch) s = .next t ∧ t.mode = .bringup ∧ t.m.step = 2 ∧
    t.m.cause = 7 ∧ t.ctxs = [] ∧ mapGet 0 t.counters 0x29 = min (2 ^ 32 - 1) (mapGet 0 s.counters 0x29 + 1) ∧ t.m.fuses = s.m.fuses)
end

