-- ==== Sys2Proof/Laws/Arrays.lean ====
section
/-! SUPPORT. Lookups of arrays that hold no error: the tag checks and the demand read of DRAM change nothing, and a cell is read as it is. -/

namespace Sys2Proof.Laws

open Sys2Proof.Machine

/-- A fold that no entry of a list moves. -/
theorem foldl_idle {α β : Type} (f : β → α → β) (b : β) (l : List α) (h : ∀ e ∈ l, ∀ x, f x e = x) : l.foldl f b = b := by
  induction l generalizing b with
  | nil => rfl
  | cons a l ih => rw [List.foldl_cons, h a (List.mem_cons_self ..), ih _ fun e he => h e (List.mem_cons_of_mem _ he)]

/-- Without a wrong primary copy in the skein cache a lookup leaves its tags alone. -/
theorem skTags_clean (k : SkId) (n : Nat) (s : State) (h : ∀ e ∈ (getSk s k).cache, e.2.tag.prim = false) : skTags k n s = s :=
  foldl_idle _ _ _ fun e he x => by simp [h e he]

/-- The same for a level-1 cache. -/
theorem l1Tags_clean (q : SpId) (s : State) (h : ∀ e ∈ (getSp s q).l1, e.2.tag.prim = false) : l1Tags q s = s :=
  foldl_idle _ _ _ fun e he x => by simp [h e he]

/-- With clean tags a fill is the fill alone. -/
theorem skFill_clean (k : SkId) (m : BitVec 16) (n : Nat) (o : Bool) (a : BitVec 2) (r : Asker) (s : State)
    (h : ∀ e ∈ (getSk s k).cache, e.2.tag.prim = false) : skFill k m n o a r s = skFillIn k m n o a r s := by
  rw [skFill, skTags_clean k _ s h]

/-- A line without wrong symbols is read from DRAM as it is. -/
theorem dramDemand_clean (n : Nat) (s : State) (h : (dramAt s n).syms = []) : dramDemand n s = s := by
  unfold dramDemand dramRead
  simp [h, dramEcc]

/-- A cell without wrong array bits is read as it is. -/
theorem arrCheck_clean (c : Option CtxId) (a : PAddr) (s : State) (h : mapGet 0 s.arrErr a.toNat = 0) : arrCheck c a s = (false, s) := by
  rw [arrCheck, if_pos h]

end Sys2Proof.Laws
end

