-- ==== Sys2Proof/Laws/Sparse.lean ====
section
/-! SUPPORT. The laws of sparse storage: what a read gives after a write, and the canonical form. -/

namespace Sys2Proof.Laws

open Sys2Proof.Machine

variable {α : Type}

theorem mapGet_mapDel_same (d : α) (m : SMap α) (k : Nat) : mapGet d (mapDel k m) k = d := by
  induction m with
  | nil => rfl
  | cons p m ih =>
    obtain ⟨a, v⟩ := p
    simp only [mapDel]
    split
    · exact ih
    · simp only [mapGet]; rw [if_neg (by assumption)]; exact ih

theorem mapGet_mapDel_other (d : α) (m : SMap α) {k j : Nat} (h : j ≠ k) : mapGet d (mapDel k m) j = mapGet d m j := by
  induction m with
  | nil => rfl
  | cons p m ih =>
    obtain ⟨a, v⟩ := p
    simp only [mapDel]
    split
    · rename_i e
      simp only [mapGet]; rw [if_neg (by omega)]; exact ih
    · simp only [mapGet]; rw [ih]

theorem mapDel_mapDel (m : SMap α) (k : Nat) : mapDel k (mapDel k m) = mapDel k m := by
  induction m with
  | nil => rfl
  | cons p m ih =>
    obtain ⟨a, v⟩ := p
    simp only [mapDel]
    split
    · exact ih
    · simp only [mapDel]; rw [if_neg (by assumption), ih]

theorem mapDel_mapIns (m : SMap α) (k : Nat) (v : α) : mapDel k (mapIns k v m) = mapDel k m := by
  induction m with
  | nil => simp [mapIns, mapDel]
  | cons p m ih =>
    obtain ⟨a, w⟩ := p
    simp only [mapIns]
    split
    · simp [mapDel]
    · simp only [mapDel]; rw [ih]

theorem mapGet_mapIns_same (d : α) (m : SMap α) (k : Nat) (v : α) (h : mapDel k m = m) : mapGet d (mapIns k v m) k = v := by
  induction m with
  | nil => simp [mapIns, mapGet]
  | cons p m ih =>
    obtain ⟨a, w⟩ := p
    by_cases e : a = k
    · exfalso
      have l : (mapDel k ((a, w) :: m)).length ≤ m.length := by
        simp only [mapDel, if_pos e]
        clear ih h
        induction m with
        | nil => simp [mapDel]
        | cons q m ih => obtain ⟨b, u⟩ := q; simp only [mapDel]; split <;> simp <;> omega
      rw [h] at l
      exact absurd l (Nat.not_succ_le_self _)
    · simp only [mapDel, if_neg e, List.cons.injEq, true_and] at h
      simp only [mapIns]
      split
      · simp [mapGet]
      · simp only [mapGet]; rw [if_neg e]; exact ih h

theorem mapGet_mapIns_other (d : α) (m : SMap α) {k j : Nat} (v : α) (h : j ≠ k) : mapGet d (mapIns k v m) j = mapGet d m j := by
  induction m with
  | nil => simp only [mapIns, mapGet]; rw [if_neg (by omega)]
  | cons p m ih =>
    obtain ⟨a, w⟩ := p
    simp only [mapIns]
    split
    · simp only [mapGet]; rw [if_neg (by omega)]
    · simp only [mapGet]; rw [ih]

/-- Reading a key just written gives the value written. -/
@[simp] theorem mapGet_mapSet_same [DecidableEq α] (d : α) (m : SMap α) (k : Nat) (v : α) : mapGet d (mapSet d m k v) k = v := by
  unfold mapSet
  split
  · rename_i e; rw [e]; exact mapGet_mapDel_same d m k
  · exact mapGet_mapIns_same d _ k v (mapDel_mapDel m k)

/-- A write leaves every other key alone. -/
theorem mapGet_mapSet_other [DecidableEq α] (d : α) (m : SMap α) {k j : Nat} (v : α) (h : j ≠ k) :
    mapGet d (mapSet d m k v) j = mapGet d m j := by
  unfold mapSet
  split
  · exact mapGet_mapDel_other d m h
  · rw [mapGet_mapIns_other d _ v h, mapGet_mapDel_other d m h]

/-- The later of two writes of a key stands. -/
@[simp] theorem mapSet_mapSet [DecidableEq α] (d : α) (m : SMap α) (k : Nat) (v w : α) :
    mapSet d (mapSet d m k v) k w = mapSet d m k w := by
  have e : mapDel k (mapSet d m k v) = mapDel k m := by
    unfold mapSet
    split
    · exact mapDel_mapDel m k
    · rw [mapDel_mapIns, mapDel_mapDel]
  change (if w = d then mapDel k (mapSet d m k v) else mapIns k w (mapDel k (mapSet d m k v))) =
    (if w = d then mapDel k m else mapIns k w (mapDel k m))
  rw [e]

/-! ## The canonical form -/

theorem mapWfFrom_mono [DecidableEq α] (d : α) (m : SMap α) {lo hi : Nat} (h : lo ≤ hi) (w : mapWfFrom d hi m = true) :
    mapWfFrom d lo m = true := by
  cases m with
  | nil => rfl
  | cons p m =>
    obtain ⟨a, v⟩ := p
    simp only [mapWfFrom, Bool.and_eq_true, decide_eq_true_eq] at w ⊢
    exact ⟨⟨by omega, w.1.2⟩, w.2⟩

theorem mapWfFrom_mapDel [DecidableEq α] (d : α) (m : SMap α) (k lo : Nat) (w : mapWfFrom d lo m = true) :
    mapWfFrom d lo (mapDel k m) = true := by
  induction m generalizing lo with
  | nil => rfl
  | cons p m ih =>
    obtain ⟨a, v⟩ := p
    simp only [mapWfFrom, Bool.and_eq_true, decide_eq_true_eq] at w
    simp only [mapDel]
    split
    · exact mapWfFrom_mono d _ (by omega : lo ≤ a + 1) (ih (a + 1) w.2)
    · simp only [mapWfFrom, Bool.and_eq_true, decide_eq_true_eq]
      exact ⟨w.1, ih (a + 1) w.2⟩

theorem mapWfFrom_mapIns [DecidableEq α] (d : α) (m : SMap α) (k lo : Nat) (v : α) (hv : v ≠ d) (hk : lo ≤ k)
    (hd : mapDel k m = m) (w : mapWfFrom d lo m = true) : mapWfFrom d lo (mapIns k v m) = true := by
  induction m generalizing lo with
  | nil => simp [mapIns, mapWfFrom, hk, hv]
  | cons p m ih =>
    obtain ⟨a, u⟩ := p
    have e : a ≠ k := by
      intro e
      have l : (mapDel k ((a, u) :: m)).length ≤ m.length := by
        simp only [mapDel, if_pos e]
        clear ih hd w
        induction m with
        | nil => simp [mapDel]
        | cons q m ih => obtain ⟨b, t⟩ := q; simp only [mapDel]; split <;> simp <;> omega
      rw [hd] at l
      exact absurd l (Nat.not_succ_le_self _)
    simp only [mapDel, if_neg e, List.cons.injEq, true_and] at hd
    simp only [mapWfFrom, Bool.and_eq_true, decide_eq_true_eq] at w
    simp only [mapIns]
    split
    · simp only [mapWfFrom, Bool.and_eq_true, decide_eq_true_eq]
      exact ⟨⟨hk, by simpa using hv⟩, ⟨by omega, w.1.2⟩, w.2⟩
    · simp only [mapWfFrom, Bool.and_eq_true, decide_eq_true_eq]
      exact ⟨w.1, ih (a + 1) (by omega) hd w.2⟩

/-- A write keeps the canonical form. -/
theorem mapWf_mapSet [DecidableEq α] (d : α) (m : SMap α) (k : Nat) (v : α) (w : mapWf d m = true) :
    mapWf d (mapSet d m k v) = true := by
  unfold mapSet
  split
  · exact mapWfFrom_mapDel d m k 0 w
  · exact mapWfFrom_mapIns d _ k 0 v (by assumption) (Nat.zero_le _) (mapDel_mapDel m k) (mapWfFrom_mapDel d m k 0 w)

theorem mem_mapDel {m : SMap α} {k : Nat} {p : Nat × α} (h : p ∈ mapDel k m) : p ∈ m := by
  induction m with
  | nil => exact h
  | cons q m ih =>
    obtain ⟨a, v⟩ := q
    simp only [mapDel] at h
    split at h
    · exact List.mem_cons_of_mem _ (ih h)
    · rcases List.mem_cons.mp h with rfl | h
      · exact List.mem_cons_self
      · exact List.mem_cons_of_mem _ (ih h)

theorem mem_mapIns {m : SMap α} {k : Nat} {v : α} {p : Nat × α} (h : p ∈ mapIns k v m) : p = (k, v) ∨ p ∈ m := by
  induction m with
  | nil => simpa [mapIns] using h
  | cons q m ih =>
    obtain ⟨a, u⟩ := q
    simp only [mapIns] at h
    split at h
    · simpa using h
    · rcases List.mem_cons.mp h with rfl | h
      · exact .inr List.mem_cons_self
      · rcases ih h with e | e
        · exact .inl e
        · exact .inr (List.mem_cons_of_mem _ e)

/-- A key listed after a write is the key written or was listed before. -/
theorem mem_mapSet [DecidableEq α] {d : α} {m : SMap α} {k : Nat} {v : α} {p : Nat × α} (h : p ∈ mapSet d m k v) :
    p.1 = k ∨ p ∈ m := by
  unfold mapSet at h
  split at h
  · exact .inr (mem_mapDel h)
  · rcases mem_mapIns h with e | e
    · exact .inl (by rw [e])
    · exact .inr (mem_mapDel e)

end Sys2Proof.Laws
end

