-- ==== Sys2Proof/Laws/State.lean ====
section
/-! SUPPORT. What the updates of the state change: one lemma per field and update. -/

namespace Sys2Proof.Laws

open Sys2Proof.Machine

/-! ## Reads after writes -/

@[simp] theorem getCtx_setCtx (s : State) (a : CtxId) (x : Ctx) : getCtx (setCtx s a x) a = x := by
  simp [getCtx, setCtx]

theorem getCtx_setCtx_other (s : State) {a b : CtxId} (x : Ctx) (h : b ≠ a) : getCtx (setCtx s a x) b = getCtx s b := by
  have e : b.toNat ≠ a.toNat := fun e => h (BitVec.eq_of_toNat_eq e)
  simp [getCtx, setCtx, mapGet_mapSet_other _ _ _ e]

@[simp] theorem setCtx_setCtx (s : State) (a : CtxId) (x y : Ctx) : setCtx (setCtx s a x) a y = setCtx s a y := by
  simp [setCtx]

@[simp] theorem getCtx_updCtx (a : CtxId) (f : Ctx → Ctx) (s : State) : getCtx (updCtx a f s) a = f (getCtx s a) := by
  simp [updCtx]

theorem getCtx_updCtx_other {a b : CtxId} (f : Ctx → Ctx) (s : State) (h : b ≠ a) : getCtx (updCtx a f s) b = getCtx s b :=
  getCtx_setCtx_other s _ h

theorem updCtx_updCtx (a : CtxId) (f g : Ctx → Ctx) (s : State) : updCtx a g (updCtx a f s) = updCtx a (fun x => g (f x)) s := by
  simp [updCtx]

@[simp] theorem getSp_setSp (s : State) (a : SpId) (x : Spindle) : getSp (setSp s a x) a = x := by
  simp [getSp, setSp]

theorem getSp_setSp_other (s : State) {a b : SpId} (x : Spindle) (h : b ≠ a) : getSp (setSp s a x) b = getSp s b := by
  have e : b.toNat ≠ a.toNat := fun e => h (BitVec.eq_of_toNat_eq e)
  simp [getSp, setSp, mapGet_mapSet_other _ _ _ e]

@[simp] theorem setSp_setSp (s : State) (a : SpId) (x y : Spindle) : setSp (setSp s a x) a y = setSp s a y := by
  simp [setSp]

@[simp] theorem getSp_updSp (a : SpId) (f : Spindle → Spindle) (s : State) : getSp (updSp a f s) a = f (getSp s a) := by
  simp [updSp]

theorem getSp_updSp_other {a b : SpId} (f : Spindle → Spindle) (s : State) (h : b ≠ a) : getSp (updSp a f s) b = getSp s b :=
  getSp_setSp_other s _ h

theorem updSp_updSp (a : SpId) (f g : Spindle → Spindle) (s : State) : updSp a g (updSp a f s) = updSp a (fun x => g (f x)) s := by
  simp [updSp]

@[simp] theorem getSk_setSk (s : State) (a : SkId) (x : Skein) : getSk (setSk s a x) a = x := by
  simp [getSk, setSk]

theorem getSk_setSk_other (s : State) {a b : SkId} (x : Skein) (h : b ≠ a) : getSk (setSk s a x) b = getSk s b := by
  have e : b.toNat ≠ a.toNat := fun e => h (BitVec.eq_of_toNat_eq e)
  simp [getSk, setSk, mapGet_mapSet_other _ _ _ e]

@[simp] theorem setSk_setSk (s : State) (a : SkId) (x y : Skein) : setSk (setSk s a x) a y = setSk s a y := by
  simp [setSk]

@[simp] theorem getSk_updSk (a : SkId) (f : Skein → Skein) (s : State) : getSk (updSk a f s) a = f (getSk s a) := by
  simp [updSk]

theorem getSk_updSk_other {a b : SkId} (f : Skein → Skein) (s : State) (h : b ≠ a) : getSk (updSk a f s) b = getSk s b :=
  getSk_setSk_other s _ h

theorem updSk_updSk (a : SkId) (f g : Skein → Skein) (s : State) : updSk a g (updSk a f s) = updSk a (fun x => g (f x)) s := by
  simp [updSk]

@[simp] theorem getHank_setHank (s : State) (a : BitVec 6) (x : Hank) : getHank (setHank s a x) a = x := by
  simp [getHank, setHank]

theorem getHank_setHank_other (s : State) {a b : BitVec 6} (x : Hank) (h : b ≠ a) : getHank (setHank s a x) b = getHank s b := by
  have e : b.toNat ≠ a.toNat := fun e => h (BitVec.eq_of_toNat_eq e)
  simp [getHank, setHank, mapGet_mapSet_other _ _ _ e]

@[simp] theorem setHank_setHank (s : State) (a : BitVec 6) (x y : Hank) : setHank (setHank s a x) a y = setHank s a y := by
  simp [setHank]

@[simp] theorem getHank_updHank (a : BitVec 6) (f : Hank → Hank) (s : State) : getHank (updHank a f s) a = f (getHank s a) := by
  simp [updHank]

theorem getHank_updHank_other {a b : BitVec 6} (f : Hank → Hank) (s : State) (h : b ≠ a) : getHank (updHank a f s) b = getHank s b :=
  getHank_setHank_other s _ h

theorem updHank_updHank (a : BitVec 6) (f g : Hank → Hank) (s : State) : updHank a g (updHank a f s) = updHank a (fun x => g (f x)) s := by
  simp [updHank]

@[simp] theorem getCtx_setSp (s : State) (p : SpId) (x : Spindle) (a : CtxId) : getCtx (setSp s p x) a = getCtx s a := rfl
@[simp] theorem getCtx_setSk (s : State) (k : SkId) (x : Skein) (a : CtxId) : getCtx (setSk s k x) a = getCtx s a := rfl
@[simp] theorem getCtx_setHank (s : State) (h : BitVec 6) (x : Hank) (a : CtxId) : getCtx (setHank s h x) a = getCtx s a := rfl
@[simp] theorem getCtx_updSp (p : SpId) (f : Spindle → Spindle) (s : State) (a : CtxId) : getCtx (updSp p f s) a = getCtx s a := rfl
@[simp] theorem getCtx_updSk (k : SkId) (f : Skein → Skein) (s : State) (a : CtxId) : getCtx (updSk k f s) a = getCtx s a := rfl
@[simp] theorem getCtx_updHank (h : BitVec 6) (f : Hank → Hank) (s : State) (a : CtxId) : getCtx (updHank h f s) a = getCtx s a := rfl
@[simp] theorem getCtx_updM (f : Mgmt → Mgmt) (s : State) (a : CtxId) : getCtx (updM f s) a = getCtx s a := rfl
@[simp] theorem getCtx_updHost (f : HostIf → HostIf) (s : State) (a : CtxId) : getCtx (updHost f s) a = getCtx s a := rfl
@[simp] theorem getSp_setCtx (s : State) (c : CtxId) (x : Ctx) (a : SpId) : getSp (setCtx s c x) a = getSp s a := rfl
@[simp] theorem getSp_setSk (s : State) (k : SkId) (x : Skein) (a : SpId) : getSp (setSk s k x) a = getSp s a := rfl
@[simp] theorem getSp_setHank (s : State) (h : BitVec 6) (x : Hank) (a : SpId) : getSp (setHank s h x) a = getSp s a := rfl
@[simp] theorem getSp_updCtx (c : CtxId) (f : Ctx → Ctx) (s : State) (a : SpId) : getSp (updCtx c f s) a = getSp s a := rfl
@[simp] theorem getSp_updSk (k : SkId) (f : Skein → Skein) (s : State) (a : SpId) : getSp (updSk k f s) a = getSp s a := rfl
@[simp] theorem getSp_updHank (h : BitVec 6) (f : Hank → Hank) (s : State) (a : SpId) : getSp (updHank h f s) a = getSp s a := rfl
@[simp] theorem getSp_updM (f : Mgmt → Mgmt) (s : State) (a : SpId) : getSp (updM f s) a = getSp s a := rfl
@[simp] theorem getSp_updHost (f : HostIf → HostIf) (s : State) (a : SpId) : getSp (updHost f s) a = getSp s a := rfl
@[simp] theorem getSk_setCtx (s : State) (c : CtxId) (x : Ctx) (a : SkId) : getSk (setCtx s c x) a = getSk s a := rfl
@[simp] theorem getSk_setSp (s : State) (p : SpId) (x : Spindle) (a : SkId) : getSk (setSp s p x) a = getSk s a := rfl
@[simp] theorem getSk_setHank (s : State) (h : BitVec 6) (x : Hank) (a : SkId) : getSk (setHank s h x) a = getSk s a := rfl
@[simp] theorem getSk_updCtx (c : CtxId) (f : Ctx → Ctx) (s : State) (a : SkId) : getSk (updCtx c f s) a = getSk s a := rfl
@[simp] theorem getSk_updSp (p : SpId) (f : Spindle → Spindle) (s : State) (a : SkId) : getSk (updSp p f s) a = getSk s a := rfl
@[simp] theorem getSk_updHank (h : BitVec 6) (f : Hank → Hank) (s : State) (a : SkId) : getSk (updHank h f s) a = getSk s a := rfl
@[simp] theorem getSk_updM (f : Mgmt → Mgmt) (s : State) (a : SkId) : getSk (updM f s) a = getSk s a := rfl
@[simp] theorem getSk_updHost (f : HostIf → HostIf) (s : State) (a : SkId) : getSk (updHost f s) a = getSk s a := rfl
@[simp] theorem getHank_setCtx (s : State) (c : CtxId) (x : Ctx) (a : BitVec 6) : getHank (setCtx s c x) a = getHank s a := rfl
@[simp] theorem getHank_setSp (s : State) (p : SpId) (x : Spindle) (a : BitVec 6) : getHank (setSp s p x) a = getHank s a := rfl
@[simp] theorem getHank_setSk (s : State) (k : SkId) (x : Skein) (a : BitVec 6) : getHank (setSk s k x) a = getHank s a := rfl
@[simp] theorem getHank_updCtx (c : CtxId) (f : Ctx → Ctx) (s : State) (a : BitVec 6) : getHank (updCtx c f s) a = getHank s a := rfl
@[simp] theorem getHank_updSp (p : SpId) (f : Spindle → Spindle) (s : State) (a : BitVec 6) : getHank (updSp p f s) a = getHank s a := rfl
@[simp] theorem getHank_updSk (k : SkId) (f : Skein → Skein) (s : State) (a : BitVec 6) : getHank (updSk k f s) a = getHank s a := rfl
@[simp] theorem getHank_updM (f : Mgmt → Mgmt) (s : State) (a : BitVec 6) : getHank (updM f s) a = getHank s a := rfl
@[simp] theorem getHank_updHost (f : HostIf → HostIf) (s : State) (a : BitVec 6) : getHank (updHost f s) a = getHank s a := rfl

/-! ## setCtx -/

@[simp] theorem setCtx_pending (s : State) (c : CtxId) (x : Ctx) : (setCtx s c x).pending = s.pending := rfl
@[simp] theorem setCtx_mem (s : State) (c : CtxId) (x : Ctx) : (setCtx s c x).mem = s.mem := rfl
@[simp] theorem setCtx_dram (s : State) (c : CtxId) (x : Ctx) : (setCtx s c x).dram = s.dram := rfl
@[simp] theorem setCtx_poisoned (s : State) (c : CtxId) (x : Ctx) : (setCtx s c x).poisoned = s.poisoned := rfl
@[simp] theorem setCtx_spindles (s : State) (c : CtxId) (x : Ctx) : (setCtx s c x).spindles = s.spindles := rfl
@[simp] theorem setCtx_skeins (s : State) (c : CtxId) (x : Ctx) : (setCtx s c x).skeins = s.skeins := rfl
@[simp] theorem setCtx_dirs (s : State) (c : CtxId) (x : Ctx) : (setCtx s c x).dirs = s.dirs := rfl
@[simp] theorem setCtx_readySeq (s : State) (c : CtxId) (x : Ctx) : (setCtx s c x).readySeq = s.readySeq := rfl
@[simp] theorem setCtx_fresh (s : State) (c : CtxId) (x : Ctx) : (setCtx s c x).fresh = s.fresh := rfl
@[simp] theorem setCtx_mode (s : State) (c : CtxId) (x : Ctx) : (setCtx s c x).mode = s.mode := rfl
@[simp] theorem setCtx_annexEn (s : State) (c : CtxId) (x : Ctx) : (setCtx s c x).annexEn = s.annexEn := rfl
@[simp] theorem setCtx_annexBase (s : State) (c : CtxId) (x : Ctx) : (setCtx s c x).annexBase = s.annexBase := rfl
@[simp] theorem setCtx_starve (s : State) (c : CtxId) (x : Ctx) : (setCtx s c x).starve = s.starve := rfl
@[simp] theorem setCtx_quantum (s : State) (c : CtxId) (x : Ctx) : (setCtx s c x).quantum = s.quantum := rfl
@[simp] theorem setCtx_hctxarg (s : State) (c : CtxId) (x : Ctx) : (setCtx s c x).hctxarg = s.hctxarg := rfl
@[simp] theorem setCtx_hctxres (s : State) (c : CtxId) (x : Ctx) : (setCtx s c x).hctxres = s.hctxres := rfl
@[simp] theorem setCtx_frames (s : State) (c : CtxId) (x : Ctx) : (setCtx s c x).frames = s.frames := rfl
@[simp] theorem setCtx_colEn (s : State) (c : CtxId) (x : Ctx) : (setCtx s c x).colEn = s.colEn := rfl
@[simp] theorem setCtx_colBase (s : State) (c : CtxId) (x : Ctx) : (setCtx s c x).colBase = s.colBase := rfl
@[simp] theorem setCtx_hcolres (s : State) (c : CtxId) (x : Ctx) : (setCtx s c x).hcolres = s.hcolres := rfl
@[simp] theorem setCtx_flips (s : State) (c : CtxId) (x : Ctx) : (setCtx s c x).flips = s.flips := rfl
@[simp] theorem setCtx_extSeq (s : State) (c : CtxId) (x : Ctx) : (setCtx s c x).extSeq = s.extSeq := rfl
@[simp] theorem setCtx_extOut (s : State) (c : CtxId) (x : Ctx) : (setCtx s c x).extOut = s.extOut := rfl
@[simp] theorem setCtx_extGone (s : State) (c : CtxId) (x : Ctx) : (setCtx s c x).extGone = s.extGone := rfl
@[simp] theorem setCtx_extEn (s : State) (c : CtxId) (x : Ctx) : (setCtx s c x).extEn = s.extEn := rfl
@[simp] theorem setCtx_patch (s : State) (c : CtxId) (x : Ctx) : (setCtx s c x).patch = s.patch := rfl
@[simp] theorem setCtx_matchRegs (s : State) (c : CtxId) (x : Ctx) : (setCtx s c x).matchRegs = s.matchRegs := rfl
@[simp] theorem setCtx_pgen (s : State) (c : CtxId) (x : Ctx) : (setCtx s c x).pgen = s.pgen := rfl
@[simp] theorem setCtx_nwords (s : State) (c : CtxId) (x : Ctx) : (setCtx s c x).nwords = s.nwords := rfl
@[simp] theorem setCtx_tb (s : State) (c : CtxId) (x : Ctx) : (setCtx s c x).tb = s.tb := rfl
@[simp] theorem setCtx_tbRun (s : State) (c : CtxId) (x : Ctx) : (setCtx s c x).tbRun = s.tbRun := rfl
@[simp] theorem setCtx_counters (s : State) (c : CtxId) (x : Ctx) : (setCtx s c x).counters = s.counters := rfl
@[simp] theorem setCtx_recQ (s : State) (c : CtxId) (x : Ctx) : (setCtx s c x).recQ = s.recQ := rfl
@[simp] theorem setCtx_recSeq (s : State) (c : CtxId) (x : Ctx) : (setCtx s c x).recSeq = s.recSeq := rfl
@[simp] theorem setCtx_recLast (s : State) (c : CtxId) (x : Ctx) : (setCtx s c x).recLast = s.recLast := rfl
@[simp] theorem setCtx_log (s : State) (c : CtxId) (x : Ctx) : (setCtx s c x).log = s.log := rfl
@[simp] theorem setCtx_injAddr (s : State) (c : CtxId) (x : Ctx) : (setCtx s c x).injAddr = s.injAddr := rfl
@[simp] theorem setCtx_injArmed (s : State) (c : CtxId) (x : Ctx) : (setCtx s c x).injArmed = s.injArmed := rfl
@[simp] theorem setCtx_injMarks (s : State) (c : CtxId) (x : Ctx) : (setCtx s c x).injMarks = s.injMarks := rfl
@[simp] theorem setCtx_arrErr (s : State) (c : CtxId) (x : Ctx) : (setCtx s c x).arrErr = s.arrErr := rfl
@[simp] theorem setCtx_arrDue (s : State) (c : CtxId) (x : Ctx) : (setCtx s c x).arrDue = s.arrDue := rfl
@[simp] theorem setCtx_wq (s : State) (c : CtxId) (x : Ctx) : (setCtx s c x).wq = s.wq := rfl
@[simp] theorem setCtx_dramBad (s : State) (c : CtxId) (x : Ctx) : (setCtx s c x).dramBad = s.dramBad := rfl
@[simp] theorem setCtx_dramErrs (s : State) (c : CtxId) (x : Ctx) : (setCtx s c x).dramErrs = s.dramErrs := rfl
@[simp] theorem setCtx_dramDeg (s : State) (c : CtxId) (x : Ctx) : (setCtx s c x).dramDeg = s.dramDeg := rfl
@[simp] theorem setCtx_hanks (s : State) (c : CtxId) (x : Ctx) : (setCtx s c x).hanks = s.hanks := rfl
@[simp] theorem setCtx_hfpEn (s : State) (c : CtxId) (x : Ctx) : (setCtx s c x).hfpEn = s.hfpEn := rfl
@[simp] theorem setCtx_hfpBase (s : State) (c : CtxId) (x : Ctx) : (setCtx s c x).hfpBase = s.hfpBase := rfl
@[simp] theorem setCtx_bcasts (s : State) (c : CtxId) (x : Ctx) : (setCtx s c x).bcasts = s.bcasts := rfl
@[simp] theorem setCtx_tbHold (s : State) (c : CtxId) (x : Ctx) : (setCtx s c x).tbHold = s.tbHold := rfl
@[simp] theorem setCtx_tbRet (s : State) (c : CtxId) (x : Ctx) : (setCtx s c x).tbRet = s.tbRet := rfl
@[simp] theorem setCtx_tbRecon (s : State) (c : CtxId) (x : Ctx) : (setCtx s c x).tbRecon = s.tbRecon := rfl
@[simp] theorem setCtx_tbUnc (s : State) (c : CtxId) (x : Ctx) : (setCtx s c x).tbUnc = s.tbUnc := rfl
@[simp] theorem setCtx_cmps (s : State) (c : CtxId) (x : Ctx) : (setCtx s c x).cmps = s.cmps := rfl
@[simp] theorem setCtx_cmpW (s : State) (c : CtxId) (x : Ctx) : (setCtx s c x).cmpW = s.cmpW := rfl
@[simp] theorem setCtx_cmpo (s : State) (c : CtxId) (x : Ctx) : (setCtx s c x).cmpo = s.cmpo := rfl
@[simp] theorem setCtx_capctl (s : State) (c : CtxId) (x : Ctx) : (setCtx s c x).capctl = s.capctl := rfl
@[simp] theorem setCtx_caps (s : State) (c : CtxId) (x : Ctx) : (setCtx s c x).caps = s.caps := rfl
@[simp] theorem setCtx_heldActs (s : State) (c : CtxId) (x : Ctx) : (setCtx s c x).heldActs = s.heldActs := rfl
@[simp] theorem setCtx_host (s : State) (c : CtxId) (x : Ctx) : (setCtx s c x).host = s.host := rfl
@[simp] theorem setCtx_m (s : State) (c : CtxId) (x : Ctx) : (setCtx s c x).m = s.m := rfl

/-! ## setSp -/

@[simp] theorem setSp_pending (s : State) (p : SpId) (x : Spindle) : (setSp s p x).pending = s.pending := rfl
@[simp] theorem setSp_mem (s : State) (p : SpId) (x : Spindle) : (setSp s p x).mem = s.mem := rfl
@[simp] theorem setSp_dram (s : State) (p : SpId) (x : Spindle) : (setSp s p x).dram = s.dram := rfl
@[simp] theorem setSp_poisoned (s : State) (p : SpId) (x : Spindle) : (setSp s p x).poisoned = s.poisoned := rfl
@[simp] theorem setSp_ctxs (s : State) (p : SpId) (x : Spindle) : (setSp s p x).ctxs = s.ctxs := rfl
@[simp] theorem setSp_skeins (s : State) (p : SpId) (x : Spindle) : (setSp s p x).skeins = s.skeins := rfl
@[simp] theorem setSp_dirs (s : State) (p : SpId) (x : Spindle) : (setSp s p x).dirs = s.dirs := rfl
@[simp] theorem setSp_readySeq (s : State) (p : SpId) (x : Spindle) : (setSp s p x).readySeq = s.readySeq := rfl
@[simp] theorem setSp_fresh (s : State) (p : SpId) (x : Spindle) : (setSp s p x).fresh = s.fresh := rfl
@[simp] theorem setSp_mode (s : State) (p : SpId) (x : Spindle) : (setSp s p x).mode = s.mode := rfl
@[simp] theorem setSp_annexEn (s : State) (p : SpId) (x : Spindle) : (setSp s p x).annexEn = s.annexEn := rfl
@[simp] theorem setSp_annexBase (s : State) (p : SpId) (x : Spindle) : (setSp s p x).annexBase = s.annexBase := rfl
@[simp] theorem setSp_starve (s : State) (p : SpId) (x : Spindle) : (setSp s p x).starve = s.starve := rfl
@[simp] theorem setSp_quantum (s : State) (p : SpId) (x : Spindle) : (setSp s p x).quantum = s.quantum := rfl
@[simp] theorem setSp_hctxarg (s : State) (p : SpId) (x : Spindle) : (setSp s p x).hctxarg = s.hctxarg := rfl
@[simp] theorem setSp_hctxres (s : State) (p : SpId) (x : Spindle) : (setSp s p x).hctxres = s.hctxres := rfl
@[simp] theorem setSp_frames (s : State) (p : SpId) (x : Spindle) : (setSp s p x).frames = s.frames := rfl
@[simp] theorem setSp_colEn (s : State) (p : SpId) (x : Spindle) : (setSp s p x).colEn = s.colEn := rfl
@[simp] theorem setSp_colBase (s : State) (p : SpId) (x : Spindle) : (setSp s p x).colBase = s.colBase := rfl
@[simp] theorem setSp_hcolres (s : State) (p : SpId) (x : Spindle) : (setSp s p x).hcolres = s.hcolres := rfl
@[simp] theorem setSp_flips (s : State) (p : SpId) (x : Spindle) : (setSp s p x).flips = s.flips := rfl
@[simp] theorem setSp_extSeq (s : State) (p : SpId) (x : Spindle) : (setSp s p x).extSeq = s.extSeq := rfl
@[simp] theorem setSp_extOut (s : State) (p : SpId) (x : Spindle) : (setSp s p x).extOut = s.extOut := rfl
@[simp] theorem setSp_extGone (s : State) (p : SpId) (x : Spindle) : (setSp s p x).extGone = s.extGone := rfl
@[simp] theorem setSp_extEn (s : State) (p : SpId) (x : Spindle) : (setSp s p x).extEn = s.extEn := rfl
@[simp] theorem setSp_patch (s : State) (p : SpId) (x : Spindle) : (setSp s p x).patch = s.patch := rfl
@[simp] theorem setSp_matchRegs (s : State) (p : SpId) (x : Spindle) : (setSp s p x).matchRegs = s.matchRegs := rfl
@[simp] theorem setSp_pgen (s : State) (p : SpId) (x : Spindle) : (setSp s p x).pgen = s.pgen := rfl
@[simp] theorem setSp_nwords (s : State) (p : SpId) (x : Spindle) : (setSp s p x).nwords = s.nwords := rfl
@[simp] theorem setSp_tb (s : State) (p : SpId) (x : Spindle) : (setSp s p x).tb = s.tb := rfl
@[simp] theorem setSp_tbRun (s : State) (p : SpId) (x : Spindle) : (setSp s p x).tbRun = s.tbRun := rfl
@[simp] theorem setSp_counters (s : State) (p : SpId) (x : Spindle) : (setSp s p x).counters = s.counters := rfl
@[simp] theorem setSp_recQ (s : State) (p : SpId) (x : Spindle) : (setSp s p x).recQ = s.recQ := rfl
@[simp] theorem setSp_recSeq (s : State) (p : SpId) (x : Spindle) : (setSp s p x).recSeq = s.recSeq := rfl
@[simp] theorem setSp_recLast (s : State) (p : SpId) (x : Spindle) : (setSp s p x).recLast = s.recLast := rfl
@[simp] theorem setSp_log (s : State) (p : SpId) (x : Spindle) : (setSp s p x).log = s.log := rfl
@[simp] theorem setSp_injAddr (s : State) (p : SpId) (x : Spindle) : (setSp s p x).injAddr = s.injAddr := rfl
@[simp] theorem setSp_injArmed (s : State) (p : SpId) (x : Spindle) : (setSp s p x).injArmed = s.injArmed := rfl
@[simp] theorem setSp_injMarks (s : State) (p : SpId) (x : Spindle) : (setSp s p x).injMarks = s.injMarks := rfl
@[simp] theorem setSp_arrErr (s : State) (p : SpId) (x : Spindle) : (setSp s p x).arrErr = s.arrErr := rfl
@[simp] theorem setSp_arrDue (s : State) (p : SpId) (x : Spindle) : (setSp s p x).arrDue = s.arrDue := rfl
@[simp] theorem setSp_wq (s : State) (p : SpId) (x : Spindle) : (setSp s p x).wq = s.wq := rfl
@[simp] theorem setSp_dramBad (s : State) (p : SpId) (x : Spindle) : (setSp s p x).dramBad = s.dramBad := rfl
@[simp] theorem setSp_dramErrs (s : State) (p : SpId) (x : Spindle) : (setSp s p x).dramErrs = s.dramErrs := rfl
@[simp] theorem setSp_dramDeg (s : State) (p : SpId) (x : Spindle) : (setSp s p x).dramDeg = s.dramDeg := rfl
@[simp] theorem setSp_hanks (s : State) (p : SpId) (x : Spindle) : (setSp s p x).hanks = s.hanks := rfl
@[simp] theorem setSp_hfpEn (s : State) (p : SpId) (x : Spindle) : (setSp s p x).hfpEn = s.hfpEn := rfl
@[simp] theorem setSp_hfpBase (s : State) (p : SpId) (x : Spindle) : (setSp s p x).hfpBase = s.hfpBase := rfl
@[simp] theorem setSp_bcasts (s : State) (p : SpId) (x : Spindle) : (setSp s p x).bcasts = s.bcasts := rfl
@[simp] theorem setSp_tbHold (s : State) (p : SpId) (x : Spindle) : (setSp s p x).tbHold = s.tbHold := rfl
@[simp] theorem setSp_tbRet (s : State) (p : SpId) (x : Spindle) : (setSp s p x).tbRet = s.tbRet := rfl
@[simp] theorem setSp_tbRecon (s : State) (p : SpId) (x : Spindle) : (setSp s p x).tbRecon = s.tbRecon := rfl
@[simp] theorem setSp_tbUnc (s : State) (p : SpId) (x : Spindle) : (setSp s p x).tbUnc = s.tbUnc := rfl
@[simp] theorem setSp_cmps (s : State) (p : SpId) (x : Spindle) : (setSp s p x).cmps = s.cmps := rfl
@[simp] theorem setSp_cmpW (s : State) (p : SpId) (x : Spindle) : (setSp s p x).cmpW = s.cmpW := rfl
@[simp] theorem setSp_cmpo (s : State) (p : SpId) (x : Spindle) : (setSp s p x).cmpo = s.cmpo := rfl
@[simp] theorem setSp_capctl (s : State) (p : SpId) (x : Spindle) : (setSp s p x).capctl = s.capctl := rfl
@[simp] theorem setSp_caps (s : State) (p : SpId) (x : Spindle) : (setSp s p x).caps = s.caps := rfl
@[simp] theorem setSp_heldActs (s : State) (p : SpId) (x : Spindle) : (setSp s p x).heldActs = s.heldActs := rfl
@[simp] theorem setSp_host (s : State) (p : SpId) (x : Spindle) : (setSp s p x).host = s.host := rfl
@[simp] theorem setSp_m (s : State) (p : SpId) (x : Spindle) : (setSp s p x).m = s.m := rfl

/-! ## setSk -/

@[simp] theorem setSk_pending (s : State) (k : SkId) (x : Skein) : (setSk s k x).pending = s.pending := rfl
@[simp] theorem setSk_mem (s : State) (k : SkId) (x : Skein) : (setSk s k x).mem = s.mem := rfl
@[simp] theorem setSk_dram (s : State) (k : SkId) (x : Skein) : (setSk s k x).dram = s.dram := rfl
@[simp] theorem setSk_poisoned (s : State) (k : SkId) (x : Skein) : (setSk s k x).poisoned = s.poisoned := rfl
@[simp] theorem setSk_ctxs (s : State) (k : SkId) (x : Skein) : (setSk s k x).ctxs = s.ctxs := rfl
@[simp] theorem setSk_spindles (s : State) (k : SkId) (x : Skein) : (setSk s k x).spindles = s.spindles := rfl
@[simp] theorem setSk_dirs (s : State) (k : SkId) (x : Skein) : (setSk s k x).dirs = s.dirs := rfl
@[simp] theorem setSk_readySeq (s : State) (k : SkId) (x : Skein) : (setSk s k x).readySeq = s.readySeq := rfl
@[simp] theorem setSk_fresh (s : State) (k : SkId) (x : Skein) : (setSk s k x).fresh = s.fresh := rfl
@[simp] theorem setSk_mode (s : State) (k : SkId) (x : Skein) : (setSk s k x).mode = s.mode := rfl
@[simp] theorem setSk_annexEn (s : State) (k : SkId) (x : Skein) : (setSk s k x).annexEn = s.annexEn := rfl
@[simp] theorem setSk_annexBase (s : State) (k : SkId) (x : Skein) : (setSk s k x).annexBase = s.annexBase := rfl
@[simp] theorem setSk_starve (s : State) (k : SkId) (x : Skein) : (setSk s k x).starve = s.starve := rfl
@[simp] theorem setSk_quantum (s : State) (k : SkId) (x : Skein) : (setSk s k x).quantum = s.quantum := rfl
@[simp] theorem setSk_hctxarg (s : State) (k : SkId) (x : Skein) : (setSk s k x).hctxarg = s.hctxarg := rfl
@[simp] theorem setSk_hctxres (s : State) (k : SkId) (x : Skein) : (setSk s k x).hctxres = s.hctxres := rfl
@[simp] theorem setSk_frames (s : State) (k : SkId) (x : Skein) : (setSk s k x).frames = s.frames := rfl
@[simp] theorem setSk_colEn (s : State) (k : SkId) (x : Skein) : (setSk s k x).colEn = s.colEn := rfl
@[simp] theorem setSk_colBase (s : State) (k : SkId) (x : Skein) : (setSk s k x).colBase = s.colBase := rfl
@[simp] theorem setSk_hcolres (s : State) (k : SkId) (x : Skein) : (setSk s k x).hcolres = s.hcolres := rfl
@[simp] theorem setSk_flips (s : State) (k : SkId) (x : Skein) : (setSk s k x).flips = s.flips := rfl
@[simp] theorem setSk_extSeq (s : State) (k : SkId) (x : Skein) : (setSk s k x).extSeq = s.extSeq := rfl
@[simp] theorem setSk_extOut (s : State) (k : SkId) (x : Skein) : (setSk s k x).extOut = s.extOut := rfl
@[simp] theorem setSk_extGone (s : State) (k : SkId) (x : Skein) : (setSk s k x).extGone = s.extGone := rfl
@[simp] theorem setSk_extEn (s : State) (k : SkId) (x : Skein) : (setSk s k x).extEn = s.extEn := rfl
@[simp] theorem setSk_patch (s : State) (k : SkId) (x : Skein) : (setSk s k x).patch = s.patch := rfl
@[simp] theorem setSk_matchRegs (s : State) (k : SkId) (x : Skein) : (setSk s k x).matchRegs = s.matchRegs := rfl
@[simp] theorem setSk_pgen (s : State) (k : SkId) (x : Skein) : (setSk s k x).pgen = s.pgen := rfl
@[simp] theorem setSk_nwords (s : State) (k : SkId) (x : Skein) : (setSk s k x).nwords = s.nwords := rfl
@[simp] theorem setSk_tb (s : State) (k : SkId) (x : Skein) : (setSk s k x).tb = s.tb := rfl
@[simp] theorem setSk_tbRun (s : State) (k : SkId) (x : Skein) : (setSk s k x).tbRun = s.tbRun := rfl
@[simp] theorem setSk_counters (s : State) (k : SkId) (x : Skein) : (setSk s k x).counters = s.counters := rfl
@[simp] theorem setSk_recQ (s : State) (k : SkId) (x : Skein) : (setSk s k x).recQ = s.recQ := rfl
@[simp] theorem setSk_recSeq (s : State) (k : SkId) (x : Skein) : (setSk s k x).recSeq = s.recSeq := rfl
@[simp] theorem setSk_recLast (s : State) (k : SkId) (x : Skein) : (setSk s k x).recLast = s.recLast := rfl
@[simp] theorem setSk_log (s : State) (k : SkId) (x : Skein) : (setSk s k x).log = s.log := rfl
@[simp] theorem setSk_injAddr (s : State) (k : SkId) (x : Skein) : (setSk s k x).injAddr = s.injAddr := rfl
@[simp] theorem setSk_injArmed (s : State) (k : SkId) (x : Skein) : (setSk s k x).injArmed = s.injArmed := rfl
@[simp] theorem setSk_injMarks (s : State) (k : SkId) (x : Skein) : (setSk s k x).injMarks = s.injMarks := rfl
@[simp] theorem setSk_arrErr (s : State) (k : SkId) (x : Skein) : (setSk s k x).arrErr = s.arrErr := rfl
@[simp] theorem setSk_arrDue (s : State) (k : SkId) (x : Skein) : (setSk s k x).arrDue = s.arrDue := rfl
@[simp] theorem setSk_wq (s : State) (k : SkId) (x : Skein) : (setSk s k x).wq = s.wq := rfl
@[simp] theorem setSk_dramBad (s : State) (k : SkId) (x : Skein) : (setSk s k x).dramBad = s.dramBad := rfl
@[simp] theorem setSk_dramErrs (s : State) (k : SkId) (x : Skein) : (setSk s k x).dramErrs = s.dramErrs := rfl
@[simp] theorem setSk_dramDeg (s : State) (k : SkId) (x : Skein) : (setSk s k x).dramDeg = s.dramDeg := rfl
@[simp] theorem setSk_hanks (s : State) (k : SkId) (x : Skein) : (setSk s k x).hanks = s.hanks := rfl
@[simp] theorem setSk_hfpEn (s : State) (k : SkId) (x : Skein) : (setSk s k x).hfpEn = s.hfpEn := rfl
@[simp] theorem setSk_hfpBase (s : State) (k : SkId) (x : Skein) : (setSk s k x).hfpBase = s.hfpBase := rfl
@[simp] theorem setSk_bcasts (s : State) (k : SkId) (x : Skein) : (setSk s k x).bcasts = s.bcasts := rfl
@[simp] theorem setSk_tbHold (s : State) (k : SkId) (x : Skein) : (setSk s k x).tbHold = s.tbHold := rfl
@[simp] theorem setSk_tbRet (s : State) (k : SkId) (x : Skein) : (setSk s k x).tbRet = s.tbRet := rfl
@[simp] theorem setSk_tbRecon (s : State) (k : SkId) (x : Skein) : (setSk s k x).tbRecon = s.tbRecon := rfl
@[simp] theorem setSk_tbUnc (s : State) (k : SkId) (x : Skein) : (setSk s k x).tbUnc = s.tbUnc := rfl
@[simp] theorem setSk_cmps (s : State) (k : SkId) (x : Skein) : (setSk s k x).cmps = s.cmps := rfl
@[simp] theorem setSk_cmpW (s : State) (k : SkId) (x : Skein) : (setSk s k x).cmpW = s.cmpW := rfl
@[simp] theorem setSk_cmpo (s : State) (k : SkId) (x : Skein) : (setSk s k x).cmpo = s.cmpo := rfl
@[simp] theorem setSk_capctl (s : State) (k : SkId) (x : Skein) : (setSk s k x).capctl = s.capctl := rfl
@[simp] theorem setSk_caps (s : State) (k : SkId) (x : Skein) : (setSk s k x).caps = s.caps := rfl
@[simp] theorem setSk_heldActs (s : State) (k : SkId) (x : Skein) : (setSk s k x).heldActs = s.heldActs := rfl
@[simp] theorem setSk_host (s : State) (k : SkId) (x : Skein) : (setSk s k x).host = s.host := rfl
@[simp] theorem setSk_m (s : State) (k : SkId) (x : Skein) : (setSk s k x).m = s.m := rfl

/-! ## setHank -/

@[simp] theorem setHank_pending (s : State) (h : BitVec 6) (x : Hank) : (setHank s h x).pending = s.pending := rfl
@[simp] theorem setHank_mem (s : State) (h : BitVec 6) (x : Hank) : (setHank s h x).mem = s.mem := rfl
@[simp] theorem setHank_dram (s : State) (h : BitVec 6) (x : Hank) : (setHank s h x).dram = s.dram := rfl
@[simp] theorem setHank_poisoned (s : State) (h : BitVec 6) (x : Hank) : (setHank s h x).poisoned = s.poisoned := rfl
@[simp] theorem setHank_ctxs (s : State) (h : BitVec 6) (x : Hank) : (setHank s h x).ctxs = s.ctxs := rfl
@[simp] theorem setHank_spindles (s : State) (h : BitVec 6) (x : Hank) : (setHank s h x).spindles = s.spindles := rfl
@[simp] theorem setHank_skeins (s : State) (h : BitVec 6) (x : Hank) : (setHank s h x).skeins = s.skeins := rfl
@[simp] theorem setHank_dirs (s : State) (h : BitVec 6) (x : Hank) : (setHank s h x).dirs = s.dirs := rfl
@[simp] theorem setHank_readySeq (s : State) (h : BitVec 6) (x : Hank) : (setHank s h x).readySeq = s.readySeq := rfl
@[simp] theorem setHank_fresh (s : State) (h : BitVec 6) (x : Hank) : (setHank s h x).fresh = s.fresh := rfl
@[simp] theorem setHank_mode (s : State) (h : BitVec 6) (x : Hank) : (setHank s h x).mode = s.mode := rfl
@[simp] theorem setHank_annexEn (s : State) (h : BitVec 6) (x : Hank) : (setHank s h x).annexEn = s.annexEn := rfl
@[simp] theorem setHank_annexBase (s : State) (h : BitVec 6) (x : Hank) : (setHank s h x).annexBase = s.annexBase := rfl
@[simp] theorem setHank_starve (s : State) (h : BitVec 6) (x : Hank) : (setHank s h x).starve = s.starve := rfl
@[simp] theorem setHank_quantum (s : State) (h : BitVec 6) (x : Hank) : (setHank s h x).quantum = s.quantum := rfl
@[simp] theorem setHank_hctxarg (s : State) (h : BitVec 6) (x : Hank) : (setHank s h x).hctxarg = s.hctxarg := rfl
@[simp] theorem setHank_hctxres (s : State) (h : BitVec 6) (x : Hank) : (setHank s h x).hctxres = s.hctxres := rfl
@[simp] theorem setHank_frames (s : State) (h : BitVec 6) (x : Hank) : (setHank s h x).frames = s.frames := rfl
@[simp] theorem setHank_colEn (s : State) (h : BitVec 6) (x : Hank) : (setHank s h x).colEn = s.colEn := rfl
@[simp] theorem setHank_colBase (s : State) (h : BitVec 6) (x : Hank) : (setHank s h x).colBase = s.colBase := rfl
@[simp] theorem setHank_hcolres (s : State) (h : BitVec 6) (x : Hank) : (setHank s h x).hcolres = s.hcolres := rfl
@[simp] theorem setHank_flips (s : State) (h : BitVec 6) (x : Hank) : (setHank s h x).flips = s.flips := rfl
@[simp] theorem setHank_extSeq (s : State) (h : BitVec 6) (x : Hank) : (setHank s h x).extSeq = s.extSeq := rfl
@[simp] theorem setHank_extOut (s : State) (h : BitVec 6) (x : Hank) : (setHank s h x).extOut = s.extOut := rfl
@[simp] theorem setHank_extGone (s : State) (h : BitVec 6) (x : Hank) : (setHank s h x).extGone = s.extGone := rfl
@[simp] theorem setHank_extEn (s : State) (h : BitVec 6) (x : Hank) : (setHank s h x).extEn = s.extEn := rfl
@[simp] theorem setHank_patch (s : State) (h : BitVec 6) (x : Hank) : (setHank s h x).patch = s.patch := rfl
@[simp] theorem setHank_matchRegs (s : State) (h : BitVec 6) (x : Hank) : (setHank s h x).matchRegs = s.matchRegs := rfl
@[simp] theorem setHank_pgen (s : State) (h : BitVec 6) (x : Hank) : (setHank s h x).pgen = s.pgen := rfl
@[simp] theorem setHank_nwords (s : State) (h : BitVec 6) (x : Hank) : (setHank s h x).nwords = s.nwords := rfl
@[simp] theorem setHank_tb (s : State) (h : BitVec 6) (x : Hank) : (setHank s h x).tb = s.tb := rfl
@[simp] theorem setHank_tbRun (s : State) (h : BitVec 6) (x : Hank) : (setHank s h x).tbRun = s.tbRun := rfl
@[simp] theorem setHank_counters (s : State) (h : BitVec 6) (x : Hank) : (setHank s h x).counters = s.counters := rfl
@[simp] theorem setHank_recQ (s : State) (h : BitVec 6) (x : Hank) : (setHank s h x).recQ = s.recQ := rfl
@[simp] theorem setHank_recSeq (s : State) (h : BitVec 6) (x : Hank) : (setHank s h x).recSeq = s.recSeq := rfl
@[simp] theorem setHank_recLast (s : State) (h : BitVec 6) (x : Hank) : (setHank s h x).recLast = s.recLast := rfl
@[simp] theorem setHank_log (s : State) (h : BitVec 6) (x : Hank) : (setHank s h x).log = s.log := rfl
@[simp] theorem setHank_injAddr (s : State) (h : BitVec 6) (x : Hank) : (setHank s h x).injAddr = s.injAddr := rfl
@[simp] theorem setHank_injArmed (s : State) (h : BitVec 6) (x : Hank) : (setHank s h x).injArmed = s.injArmed := rfl
@[simp] theorem setHank_injMarks (s : State) (h : BitVec 6) (x : Hank) : (setHank s h x).injMarks = s.injMarks := rfl
@[simp] theorem setHank_arrErr (s : State) (h : BitVec 6) (x : Hank) : (setHank s h x).arrErr = s.arrErr := rfl
@[simp] theorem setHank_arrDue (s : State) (h : BitVec 6) (x : Hank) : (setHank s h x).arrDue = s.arrDue := rfl
@[simp] theorem setHank_wq (s : State) (h : BitVec 6) (x : Hank) : (setHank s h x).wq = s.wq := rfl
@[simp] theorem setHank_dramBad (s : State) (h : BitVec 6) (x : Hank) : (setHank s h x).dramBad = s.dramBad := rfl
@[simp] theorem setHank_dramErrs (s : State) (h : BitVec 6) (x : Hank) : (setHank s h x).dramErrs = s.dramErrs := rfl
@[simp] theorem setHank_dramDeg (s : State) (h : BitVec 6) (x : Hank) : (setHank s h x).dramDeg = s.dramDeg := rfl
@[simp] theorem setHank_hfpEn (s : State) (h : BitVec 6) (x : Hank) : (setHank s h x).hfpEn = s.hfpEn := rfl
@[simp] theorem setHank_hfpBase (s : State) (h : BitVec 6) (x : Hank) : (setHank s h x).hfpBase = s.hfpBase := rfl
@[simp] theorem setHank_bcasts (s : State) (h : BitVec 6) (x : Hank) : (setHank s h x).bcasts = s.bcasts := rfl
@[simp] theorem setHank_tbHold (s : State) (h : BitVec 6) (x : Hank) : (setHank s h x).tbHold = s.tbHold := rfl
@[simp] theorem setHank_tbRet (s : State) (h : BitVec 6) (x : Hank) : (setHank s h x).tbRet = s.tbRet := rfl
@[simp] theorem setHank_tbRecon (s : State) (h : BitVec 6) (x : Hank) : (setHank s h x).tbRecon = s.tbRecon := rfl
@[simp] theorem setHank_tbUnc (s : State) (h : BitVec 6) (x : Hank) : (setHank s h x).tbUnc = s.tbUnc := rfl
@[simp] theorem setHank_cmps (s : State) (h : BitVec 6) (x : Hank) : (setHank s h x).cmps = s.cmps := rfl
@[simp] theorem setHank_cmpW (s : State) (h : BitVec 6) (x : Hank) : (setHank s h x).cmpW = s.cmpW := rfl
@[simp] theorem setHank_cmpo (s : State) (h : BitVec 6) (x : Hank) : (setHank s h x).cmpo = s.cmpo := rfl
@[simp] theorem setHank_capctl (s : State) (h : BitVec 6) (x : Hank) : (setHank s h x).capctl = s.capctl := rfl
@[simp] theorem setHank_caps (s : State) (h : BitVec 6) (x : Hank) : (setHank s h x).caps = s.caps := rfl
@[simp] theorem setHank_heldActs (s : State) (h : BitVec 6) (x : Hank) : (setHank s h x).heldActs = s.heldActs := rfl
@[simp] theorem setHank_host (s : State) (h : BitVec 6) (x : Hank) : (setHank s h x).host = s.host := rfl
@[simp] theorem setHank_m (s : State) (h : BitVec 6) (x : Hank) : (setHank s h x).m = s.m := rfl

/-! ## updCtx -/

@[simp] theorem updCtx_pending (c : CtxId) (f : Ctx → Ctx) (s : State) : (updCtx c f s).pending = s.pending := rfl
@[simp] theorem updCtx_mem (c : CtxId) (f : Ctx → Ctx) (s : State) : (updCtx c f s).mem = s.mem := rfl
@[simp] theorem updCtx_dram (c : CtxId) (f : Ctx → Ctx) (s : State) : (updCtx c f s).dram = s.dram := rfl
@[simp] theorem updCtx_poisoned (c : CtxId) (f : Ctx → Ctx) (s : State) : (updCtx c f s).poisoned = s.poisoned := rfl
@[simp] theorem updCtx_spindles (c : CtxId) (f : Ctx → Ctx) (s : State) : (updCtx c f s).spindles = s.spindles := rfl
@[simp] theorem updCtx_skeins (c : CtxId) (f : Ctx → Ctx) (s : State) : (updCtx c f s).skeins = s.skeins := rfl
@[simp] theorem updCtx_dirs (c : CtxId) (f : Ctx → Ctx) (s : State) : (updCtx c f s).dirs = s.dirs := rfl
@[simp] theorem updCtx_readySeq (c : CtxId) (f : Ctx → Ctx) (s : State) : (updCtx c f s).readySeq = s.readySeq := rfl
@[simp] theorem updCtx_fresh (c : CtxId) (f : Ctx → Ctx) (s : State) : (updCtx c f s).fresh = s.fresh := rfl
@[simp] theorem updCtx_mode (c : CtxId) (f : Ctx → Ctx) (s : State) : (updCtx c f s).mode = s.mode := rfl
@[simp] theorem updCtx_annexEn (c : CtxId) (f : Ctx → Ctx) (s : State) : (updCtx c f s).annexEn = s.annexEn := rfl
@[simp] theorem updCtx_annexBase (c : CtxId) (f : Ctx → Ctx) (s : State) : (updCtx c f s).annexBase = s.annexBase := rfl
@[simp] theorem updCtx_starve (c : CtxId) (f : Ctx → Ctx) (s : State) : (updCtx c f s).starve = s.starve := rfl
@[simp] theorem updCtx_quantum (c : CtxId) (f : Ctx → Ctx) (s : State) : (updCtx c f s).quantum = s.quantum := rfl
@[simp] theorem updCtx_hctxarg (c : CtxId) (f : Ctx → Ctx) (s : State) : (updCtx c f s).hctxarg = s.hctxarg := rfl
@[simp] theorem updCtx_hctxres (c : CtxId) (f : Ctx → Ctx) (s : State) : (updCtx c f s).hctxres = s.hctxres := rfl
@[simp] theorem updCtx_frames (c : CtxId) (f : Ctx → Ctx) (s : State) : (updCtx c f s).frames = s.frames := rfl
@[simp] theorem updCtx_colEn (c : CtxId) (f : Ctx → Ctx) (s : State) : (updCtx c f s).colEn = s.colEn := rfl
@[simp] theorem updCtx_colBase (c : CtxId) (f : Ctx → Ctx) (s : State) : (updCtx c f s).colBase = s.colBase := rfl
@[simp] theorem updCtx_hcolres (c : CtxId) (f : Ctx → Ctx) (s : State) : (updCtx c f s).hcolres = s.hcolres := rfl
@[simp] theorem updCtx_flips (c : CtxId) (f : Ctx → Ctx) (s : State) : (updCtx c f s).flips = s.flips := rfl
@[simp] theorem updCtx_extSeq (c : CtxId) (f : Ctx → Ctx) (s : State) : (updCtx c f s).extSeq = s.extSeq := rfl
@[simp] theorem updCtx_extOut (c : CtxId) (f : Ctx → Ctx) (s : State) : (updCtx c f s).extOut = s.extOut := rfl
@[simp] theorem updCtx_extGone (c : CtxId) (f : Ctx → Ctx) (s : State) : (updCtx c f s).extGone = s.extGone := rfl
@[simp] theorem updCtx_extEn (c : CtxId) (f : Ctx → Ctx) (s : State) : (updCtx c f s).extEn = s.extEn := rfl
@[simp] theorem updCtx_patch (c : CtxId) (f : Ctx → Ctx) (s : State) : (updCtx c f s).patch = s.patch := rfl
@[simp] theorem updCtx_matchRegs (c : CtxId) (f : Ctx → Ctx) (s : State) : (updCtx c f s).matchRegs = s.matchRegs := rfl
@[simp] theorem updCtx_pgen (c : CtxId) (f : Ctx → Ctx) (s : State) : (updCtx c f s).pgen = s.pgen := rfl
@[simp] theorem updCtx_nwords (c : CtxId) (f : Ctx → Ctx) (s : State) : (updCtx c f s).nwords = s.nwords := rfl
@[simp] theorem updCtx_tb (c : CtxId) (f : Ctx → Ctx) (s : State) : (updCtx c f s).tb = s.tb := rfl
@[simp] theorem updCtx_tbRun (c : CtxId) (f : Ctx → Ctx) (s : State) : (updCtx c f s).tbRun = s.tbRun := rfl
@[simp] theorem updCtx_counters (c : CtxId) (f : Ctx → Ctx) (s : State) : (updCtx c f s).counters = s.counters := rfl
@[simp] theorem updCtx_recQ (c : CtxId) (f : Ctx → Ctx) (s : State) : (updCtx c f s).recQ = s.recQ := rfl
@[simp] theorem updCtx_recSeq (c : CtxId) (f : Ctx → Ctx) (s : State) : (updCtx c f s).recSeq = s.recSeq := rfl
@[simp] theorem updCtx_recLast (c : CtxId) (f : Ctx → Ctx) (s : State) : (updCtx c f s).recLast = s.recLast := rfl
@[simp] theorem updCtx_log (c : CtxId) (f : Ctx → Ctx) (s : State) : (updCtx c f s).log = s.log := rfl
@[simp] theorem updCtx_injAddr (c : CtxId) (f : Ctx → Ctx) (s : State) : (updCtx c f s).injAddr = s.injAddr := rfl
@[simp] theorem updCtx_injArmed (c : CtxId) (f : Ctx → Ctx) (s : State) : (updCtx c f s).injArmed = s.injArmed := rfl
@[simp] theorem updCtx_injMarks (c : CtxId) (f : Ctx → Ctx) (s : State) : (updCtx c f s).injMarks = s.injMarks := rfl
@[simp] theorem updCtx_arrErr (c : CtxId) (f : Ctx → Ctx) (s : State) : (updCtx c f s).arrErr = s.arrErr := rfl
@[simp] theorem updCtx_arrDue (c : CtxId) (f : Ctx → Ctx) (s : State) : (updCtx c f s).arrDue = s.arrDue := rfl
@[simp] theorem updCtx_wq (c : CtxId) (f : Ctx → Ctx) (s : State) : (updCtx c f s).wq = s.wq := rfl
@[simp] theorem updCtx_dramBad (c : CtxId) (f : Ctx → Ctx) (s : State) : (updCtx c f s).dramBad = s.dramBad := rfl
@[simp] theorem updCtx_dramErrs (c : CtxId) (f : Ctx → Ctx) (s : State) : (updCtx c f s).dramErrs = s.dramErrs := rfl
@[simp] theorem updCtx_dramDeg (c : CtxId) (f : Ctx → Ctx) (s : State) : (updCtx c f s).dramDeg = s.dramDeg := rfl
@[simp] theorem updCtx_hanks (c : CtxId) (f : Ctx → Ctx) (s : State) : (updCtx c f s).hanks = s.hanks := rfl
@[simp] theorem updCtx_hfpEn (c : CtxId) (f : Ctx → Ctx) (s : State) : (updCtx c f s).hfpEn = s.hfpEn := rfl
@[simp] theorem updCtx_hfpBase (c : CtxId) (f : Ctx → Ctx) (s : State) : (updCtx c f s).hfpBase = s.hfpBase := rfl
@[simp] theorem updCtx_bcasts (c : CtxId) (f : Ctx → Ctx) (s : State) : (updCtx c f s).bcasts = s.bcasts := rfl
@[simp] theorem updCtx_tbHold (c : CtxId) (f : Ctx → Ctx) (s : State) : (updCtx c f s).tbHold = s.tbHold := rfl
@[simp] theorem updCtx_tbRet (c : CtxId) (f : Ctx → Ctx) (s : State) : (updCtx c f s).tbRet = s.tbRet := rfl
@[simp] theorem updCtx_tbRecon (c : CtxId) (f : Ctx → Ctx) (s : State) : (updCtx c f s).tbRecon = s.tbRecon := rfl
@[simp] theorem updCtx_tbUnc (c : CtxId) (f : Ctx → Ctx) (s : State) : (updCtx c f s).tbUnc = s.tbUnc := rfl
@[simp] theorem updCtx_cmps (c : CtxId) (f : Ctx → Ctx) (s : State) : (updCtx c f s).cmps = s.cmps := rfl
@[simp] theorem updCtx_cmpW (c : CtxId) (f : Ctx → Ctx) (s : State) : (updCtx c f s).cmpW = s.cmpW := rfl
@[simp] theorem updCtx_cmpo (c : CtxId) (f : Ctx → Ctx) (s : State) : (updCtx c f s).cmpo = s.cmpo := rfl
@[simp] theorem updCtx_capctl (c : CtxId) (f : Ctx → Ctx) (s : State) : (updCtx c f s).capctl = s.capctl := rfl
@[simp] theorem updCtx_caps (c : CtxId) (f : Ctx → Ctx) (s : State) : (updCtx c f s).caps = s.caps := rfl
@[simp] theorem updCtx_heldActs (c : CtxId) (f : Ctx → Ctx) (s : State) : (updCtx c f s).heldActs = s.heldActs := rfl
@[simp] theorem updCtx_host (c : CtxId) (f : Ctx → Ctx) (s : State) : (updCtx c f s).host = s.host := rfl
@[simp] theorem updCtx_m (c : CtxId) (f : Ctx → Ctx) (s : State) : (updCtx c f s).m = s.m := rfl

/-! ## updSp -/

@[simp] theorem updSp_pending (p : SpId) (f : Spindle → Spindle) (s : State) : (updSp p f s).pending = s.pending := rfl
@[simp] theorem updSp_mem (p : SpId) (f : Spindle → Spindle) (s : State) : (updSp p f s).mem = s.mem := rfl
@[simp] theorem updSp_dram (p : SpId) (f : Spindle → Spindle) (s : State) : (updSp p f s).dram = s.dram := rfl
@[simp] theorem updSp_poisoned (p : SpId) (f : Spindle → Spindle) (s : State) : (updSp p f s).poisoned = s.poisoned := rfl
@[simp] theorem updSp_ctxs (p : SpId) (f : Spindle → Spindle) (s : State) : (updSp p f s).ctxs = s.ctxs := rfl
@[simp] theorem updSp_skeins (p : SpId) (f : Spindle → Spindle) (s : State) : (updSp p f s).skeins = s.skeins := rfl
@[simp] theorem updSp_dirs (p : SpId) (f : Spindle → Spindle) (s : State) : (updSp p f s).dirs = s.dirs := rfl
@[simp] theorem updSp_readySeq (p : SpId) (f : Spindle → Spindle) (s : State) : (updSp p f s).readySeq = s.readySeq := rfl
@[simp] theorem updSp_fresh (p : SpId) (f : Spindle → Spindle) (s : State) : (updSp p f s).fresh = s.fresh := rfl
@[simp] theorem updSp_mode (p : SpId) (f : Spindle → Spindle) (s : State) : (updSp p f s).mode = s.mode := rfl
@[simp] theorem updSp_annexEn (p : SpId) (f : Spindle → Spindle) (s : State) : (updSp p f s).annexEn = s.annexEn := rfl
@[simp] theorem updSp_annexBase (p : SpId) (f : Spindle → Spindle) (s : State) : (updSp p f s).annexBase = s.annexBase := rfl
@[simp] theorem updSp_starve (p : SpId) (f : Spindle → Spindle) (s : State) : (updSp p f s).starve = s.starve := rfl
@[simp] theorem updSp_quantum (p : SpId) (f : Spindle → Spindle) (s : State) : (updSp p f s).quantum = s.quantum := rfl
@[simp] theorem updSp_hctxarg (p : SpId) (f : Spindle → Spindle) (s : State) : (updSp p f s).hctxarg = s.hctxarg := rfl
@[simp] theorem updSp_hctxres (p : SpId) (f : Spindle → Spindle) (s : State) : (updSp p f s).hctxres = s.hctxres := rfl
@[simp] theorem updSp_frames (p : SpId) (f : Spindle → Spindle) (s : State) : (updSp p f s).frames = s.frames := rfl
@[simp] theorem updSp_colEn (p : SpId) (f : Spindle → Spindle) (s : State) : (updSp p f s).colEn = s.colEn := rfl
@[simp] theorem updSp_colBase (p : SpId) (f : Spindle → Spindle) (s : State) : (updSp p f s).colBase = s.colBase := rfl
@[simp] theorem updSp_hcolres (p : SpId) (f : Spindle → Spindle) (s : State) : (updSp p f s).hcolres = s.hcolres := rfl
@[simp] theorem updSp_flips (p : SpId) (f : Spindle → Spindle) (s : State) : (updSp p f s).flips = s.flips := rfl
@[simp] theorem updSp_extSeq (p : SpId) (f : Spindle → Spindle) (s : State) : (updSp p f s).extSeq = s.extSeq := rfl
@[simp] theorem updSp_extOut (p : SpId) (f : Spindle → Spindle) (s : State) : (updSp p f s).extOut = s.extOut := rfl
@[simp] theorem updSp_extGone (p : SpId) (f : Spindle → Spindle) (s : State) : (updSp p f s).extGone = s.extGone := rfl
@[simp] theorem updSp_extEn (p : SpId) (f : Spindle → Spindle) (s : State) : (updSp p f s).extEn = s.extEn := rfl
@[simp] theorem updSp_patch (p : SpId) (f : Spindle → Spindle) (s : State) : (updSp p f s).patch = s.patch := rfl
@[simp] theorem updSp_matchRegs (p : SpId) (f : Spindle → Spindle) (s : State) : (updSp p f s).matchRegs = s.matchRegs := rfl
@[simp] theorem updSp_pgen (p : SpId) (f : Spindle → Spindle) (s : State) : (updSp p f s).pgen = s.pgen := rfl
@[simp] theorem updSp_nwords (p : SpId) (f : Spindle → Spindle) (s : State) : (updSp p f s).nwords = s.nwords := rfl
@[simp] theorem updSp_tb (p : SpId) (f : Spindle → Spindle) (s : State) : (updSp p f s).tb = s.tb := rfl
@[simp] theorem updSp_tbRun (p : SpId) (f : Spindle → Spindle) (s : State) : (updSp p f s).tbRun = s.tbRun := rfl
@[simp] theorem updSp_counters (p : SpId) (f : Spindle → Spindle) (s : State) : (updSp p f s).counters = s.counters := rfl
@[simp] theorem updSp_recQ (p : SpId) (f : Spindle → Spindle) (s : State) : (updSp p f s).recQ = s.recQ := rfl
@[simp] theorem updSp_recSeq (p : SpId) (f : Spindle → Spindle) (s : State) : (updSp p f s).recSeq = s.recSeq := rfl
@[simp] theorem updSp_recLast (p : SpId) (f : Spindle → Spindle) (s : State) : (updSp p f s).recLast = s.recLast := rfl
@[simp] theorem updSp_log (p : SpId) (f : Spindle → Spindle) (s : State) : (updSp p f s).log = s.log := rfl
@[simp] theorem updSp_injAddr (p : SpId) (f : Spindle → Spindle) (s : State) : (updSp p f s).injAddr = s.injAddr := rfl
@[simp] theorem updSp_injArmed (p : SpId) (f : Spindle → Spindle) (s : State) : (updSp p f s).injArmed = s.injArmed := rfl
@[simp] theorem updSp_injMarks (p : SpId) (f : Spindle → Spindle) (s : State) : (updSp p f s).injMarks = s.injMarks := rfl
@[simp] theorem updSp_arrErr (p : SpId) (f : Spindle → Spindle) (s : State) : (updSp p f s).arrErr = s.arrErr := rfl
@[simp] theorem updSp_arrDue (p : SpId) (f : Spindle → Spindle) (s : State) : (updSp p f s).arrDue = s.arrDue := rfl
@[simp] theorem updSp_wq (p : SpId) (f : Spindle → Spindle) (s : State) : (updSp p f s).wq = s.wq := rfl
@[simp] theorem updSp_dramBad (p : SpId) (f : Spindle → Spindle) (s : State) : (updSp p f s).dramBad = s.dramBad := rfl
@[simp] theorem updSp_dramErrs (p : SpId) (f : Spindle → Spindle) (s : State) : (updSp p f s).dramErrs = s.dramErrs := rfl
@[simp] theorem updSp_dramDeg (p : SpId) (f : Spindle → Spindle) (s : State) : (updSp p f s).dramDeg = s.dramDeg := rfl
@[simp] theorem updSp_hanks (p : SpId) (f : Spindle → Spindle) (s : State) : (updSp p f s).hanks = s.hanks := rfl
@[simp] theorem updSp_hfpEn (p : SpId) (f : Spindle → Spindle) (s : State) : (updSp p f s).hfpEn = s.hfpEn := rfl
@[simp] theorem updSp_hfpBase (p : SpId) (f : Spindle → Spindle) (s : State) : (updSp p f s).hfpBase = s.hfpBase := rfl
@[simp] theorem updSp_bcasts (p : SpId) (f : Spindle → Spindle) (s : State) : (updSp p f s).bcasts = s.bcasts := rfl
@[simp] theorem updSp_tbHold (p : SpId) (f : Spindle → Spindle) (s : State) : (updSp p f s).tbHold = s.tbHold := rfl
@[simp] theorem updSp_tbRet (p : SpId) (f : Spindle → Spindle) (s : State) : (updSp p f s).tbRet = s.tbRet := rfl
@[simp] theorem updSp_tbRecon (p : SpId) (f : Spindle → Spindle) (s : State) : (updSp p f s).tbRecon = s.tbRecon := rfl
@[simp] theorem updSp_tbUnc (p : SpId) (f : Spindle → Spindle) (s : State) : (updSp p f s).tbUnc = s.tbUnc := rfl
@[simp] theorem updSp_cmps (p : SpId) (f : Spindle → Spindle) (s : State) : (updSp p f s).cmps = s.cmps := rfl
@[simp] theorem updSp_cmpW (p : SpId) (f : Spindle → Spindle) (s : State) : (updSp p f s).cmpW = s.cmpW := rfl
@[simp] theorem updSp_cmpo (p : SpId) (f : Spindle → Spindle) (s : State) : (updSp p f s).cmpo = s.cmpo := rfl
@[simp] theorem updSp_capctl (p : SpId) (f : Spindle → Spindle) (s : State) : (updSp p f s).capctl = s.capctl := rfl
@[simp] theorem updSp_caps (p : SpId) (f : Spindle → Spindle) (s : State) : (updSp p f s).caps = s.caps := rfl
@[simp] theorem updSp_heldActs (p : SpId) (f : Spindle → Spindle) (s : State) : (updSp p f s).heldActs = s.heldActs := rfl
@[simp] theorem updSp_host (p : SpId) (f : Spindle → Spindle) (s : State) : (updSp p f s).host = s.host := rfl
@[simp] theorem updSp_m (p : SpId) (f : Spindle → Spindle) (s : State) : (updSp p f s).m = s.m := rfl

/-! ## updSk -/

@[simp] theorem updSk_pending (k : SkId) (f : Skein → Skein) (s : State) : (updSk k f s).pending = s.pending := rfl
@[simp] theorem updSk_mem (k : SkId) (f : Skein → Skein) (s : State) : (updSk k f s).mem = s.mem := rfl
@[simp] theorem updSk_dram (k : SkId) (f : Skein → Skein) (s : State) : (updSk k f s).dram = s.dram := rfl
@[simp] theorem updSk_poisoned (k : SkId) (f : Skein → Skein) (s : State) : (updSk k f s).poisoned = s.poisoned := rfl
@[simp] theorem updSk_ctxs (k : SkId) (f : Skein → Skein) (s : State) : (updSk k f s).ctxs = s.ctxs := rfl
@[simp] theorem updSk_spindles (k : SkId) (f : Skein → Skein) (s : State) : (updSk k f s).spindles = s.spindles := rfl
@[simp] theorem updSk_dirs (k : SkId) (f : Skein → Skein) (s : State) : (updSk k f s).dirs = s.dirs := rfl
@[simp] theorem updSk_readySeq (k : SkId) (f : Skein → Skein) (s : State) : (updSk k f s).readySeq = s.readySeq := rfl
@[simp] theorem updSk_fresh (k : SkId) (f : Skein → Skein) (s : State) : (updSk k f s).fresh = s.fresh := rfl
@[simp] theorem updSk_mode (k : SkId) (f : Skein → Skein) (s : State) : (updSk k f s).mode = s.mode := rfl
@[simp] theorem updSk_annexEn (k : SkId) (f : Skein → Skein) (s : State) : (updSk k f s).annexEn = s.annexEn := rfl
@[simp] theorem updSk_annexBase (k : SkId) (f : Skein → Skein) (s : State) : (updSk k f s).annexBase = s.annexBase := rfl
@[simp] theorem updSk_starve (k : SkId) (f : Skein → Skein) (s : State) : (updSk k f s).starve = s.starve := rfl
@[simp] theorem updSk_quantum (k : SkId) (f : Skein → Skein) (s : State) : (updSk k f s).quantum = s.quantum := rfl
@[simp] theorem updSk_hctxarg (k : SkId) (f : Skein → Skein) (s : State) : (updSk k f s).hctxarg = s.hctxarg := rfl
@[simp] theorem updSk_hctxres (k : SkId) (f : Skein → Skein) (s : State) : (updSk k f s).hctxres = s.hctxres := rfl
@[simp] theorem updSk_frames (k : SkId) (f : Skein → Skein) (s : State) : (updSk k f s).frames = s.frames := rfl
@[simp] theorem updSk_colEn (k : SkId) (f : Skein → Skein) (s : State) : (updSk k f s).colEn = s.colEn := rfl
@[simp] theorem updSk_colBase (k : SkId) (f : Skein → Skein) (s : State) : (updSk k f s).colBase = s.colBase := rfl
@[simp] theorem updSk_hcolres (k : SkId) (f : Skein → Skein) (s : State) : (updSk k f s).hcolres = s.hcolres := rfl
@[simp] theorem updSk_flips (k : SkId) (f : Skein → Skein) (s : State) : (updSk k f s).flips = s.flips := rfl
@[simp] theorem updSk_extSeq (k : SkId) (f : Skein → Skein) (s : State) : (updSk k f s).extSeq = s.extSeq := rfl
@[simp] theorem updSk_extOut (k : SkId) (f : Skein → Skein) (s : State) : (updSk k f s).extOut = s.extOut := rfl
@[simp] theorem updSk_extGone (k : SkId) (f : Skein → Skein) (s : State) : (updSk k f s).extGone = s.extGone := rfl
@[simp] theorem updSk_extEn (k : SkId) (f : Skein → Skein) (s : State) : (updSk k f s).extEn = s.extEn := rfl
@[simp] theorem updSk_patch (k : SkId) (f : Skein → Skein) (s : State) : (updSk k f s).patch = s.patch := rfl
@[simp] theorem updSk_matchRegs (k : SkId) (f : Skein → Skein) (s : State) : (updSk k f s).matchRegs = s.matchRegs := rfl
@[simp] theorem updSk_pgen (k : SkId) (f : Skein → Skein) (s : State) : (updSk k f s).pgen = s.pgen := rfl
@[simp] theorem updSk_nwords (k : SkId) (f : Skein → Skein) (s : State) : (updSk k f s).nwords = s.nwords := rfl
@[simp] theorem updSk_tb (k : SkId) (f : Skein → Skein) (s : State) : (updSk k f s).tb = s.tb := rfl
@[simp] theorem updSk_tbRun (k : SkId) (f : Skein → Skein) (s : State) : (updSk k f s).tbRun = s.tbRun := rfl
@[simp] theorem updSk_counters (k : SkId) (f : Skein → Skein) (s : State) : (updSk k f s).counters = s.counters := rfl
@[simp] theorem updSk_recQ (k : SkId) (f : Skein → Skein) (s : State) : (updSk k f s).recQ = s.recQ := rfl
@[simp] theorem updSk_recSeq (k : SkId) (f : Skein → Skein) (s : State) : (updSk k f s).recSeq = s.recSeq := rfl
@[simp] theorem updSk_recLast (k : SkId) (f : Skein → Skein) (s : State) : (updSk k f s).recLast = s.recLast := rfl
@[simp] theorem updSk_log (k : SkId) (f : Skein → Skein) (s : State) : (updSk k f s).log = s.log := rfl
@[simp] theorem updSk_injAddr (k : SkId) (f : Skein → Skein) (s : State) : (updSk k f s).injAddr = s.injAddr := rfl
@[simp] theorem updSk_injArmed (k : SkId) (f : Skein → Skein) (s : State) : (updSk k f s).injArmed = s.injArmed := rfl
@[simp] theorem updSk_injMarks (k : SkId) (f : Skein → Skein) (s : State) : (updSk k f s).injMarks = s.injMarks := rfl
@[simp] theorem updSk_arrErr (k : SkId) (f : Skein → Skein) (s : State) : (updSk k f s).arrErr = s.arrErr := rfl
@[simp] theorem updSk_arrDue (k : SkId) (f : Skein → Skein) (s : State) : (updSk k f s).arrDue = s.arrDue := rfl
@[simp] theorem updSk_wq (k : SkId) (f : Skein → Skein) (s : State) : (updSk k f s).wq = s.wq := rfl
@[simp] theorem updSk_dramBad (k : SkId) (f : Skein → Skein) (s : State) : (updSk k f s).dramBad = s.dramBad := rfl
@[simp] theorem updSk_dramErrs (k : SkId) (f : Skein → Skein) (s : State) : (updSk k f s).dramErrs = s.dramErrs := rfl
@[simp] theorem updSk_dramDeg (k : SkId) (f : Skein → Skein) (s : State) : (updSk k f s).dramDeg = s.dramDeg := rfl
@[simp] theorem updSk_hanks (k : SkId) (f : Skein → Skein) (s : State) : (updSk k f s).hanks = s.hanks := rfl
@[simp] theorem updSk_hfpEn (k : SkId) (f : Skein → Skein) (s : State) : (updSk k f s).hfpEn = s.hfpEn := rfl
@[simp] theorem updSk_hfpBase (k : SkId) (f : Skein → Skein) (s : State) : (updSk k f s).hfpBase = s.hfpBase := rfl
@[simp] theorem updSk_bcasts (k : SkId) (f : Skein → Skein) (s : State) : (updSk k f s).bcasts = s.bcasts := rfl
@[simp] theorem updSk_tbHold (k : SkId) (f : Skein → Skein) (s : State) : (updSk k f s).tbHold = s.tbHold := rfl
@[simp] theorem updSk_tbRet (k : SkId) (f : Skein → Skein) (s : State) : (updSk k f s).tbRet = s.tbRet := rfl
@[simp] theorem updSk_tbRecon (k : SkId) (f : Skein → Skein) (s : State) : (updSk k f s).tbRecon = s.tbRecon := rfl
@[simp] theorem updSk_tbUnc (k : SkId) (f : Skein → Skein) (s : State) : (updSk k f s).tbUnc = s.tbUnc := rfl
@[simp] theorem updSk_cmps (k : SkId) (f : Skein → Skein) (s : State) : (updSk k f s).cmps = s.cmps := rfl
@[simp] theorem updSk_cmpW (k : SkId) (f : Skein → Skein) (s : State) : (updSk k f s).cmpW = s.cmpW := rfl
@[simp] theorem updSk_cmpo (k : SkId) (f : Skein → Skein) (s : State) : (updSk k f s).cmpo = s.cmpo := rfl
@[simp] theorem updSk_capctl (k : SkId) (f : Skein → Skein) (s : State) : (updSk k f s).capctl = s.capctl := rfl
@[simp] theorem updSk_caps (k : SkId) (f : Skein → Skein) (s : State) : (updSk k f s).caps = s.caps := rfl
@[simp] theorem updSk_heldActs (k : SkId) (f : Skein → Skein) (s : State) : (updSk k f s).heldActs = s.heldActs := rfl
@[simp] theorem updSk_host (k : SkId) (f : Skein → Skein) (s : State) : (updSk k f s).host = s.host := rfl
@[simp] theorem updSk_m (k : SkId) (f : Skein → Skein) (s : State) : (updSk k f s).m = s.m := rfl

/-! ## updHank -/

@[simp] theorem updHank_pending (h : BitVec 6) (f : Hank → Hank) (s : State) : (updHank h f s).pending = s.pending := rfl
@[simp] theorem updHank_mem (h : BitVec 6) (f : Hank → Hank) (s : State) : (updHank h f s).mem = s.mem := rfl
@[simp] theorem updHank_dram (h : BitVec 6) (f : Hank → Hank) (s : State) : (updHank h f s).dram = s.dram := rfl
@[simp] theorem updHank_poisoned (h : BitVec 6) (f : Hank → Hank) (s : State) : (updHank h f s).poisoned = s.poisoned := rfl
@[simp] theorem updHank_ctxs (h : BitVec 6) (f : Hank → Hank) (s : State) : (updHank h f s).ctxs = s.ctxs := rfl
@[simp] theorem updHank_spindles (h : BitVec 6) (f : Hank → Hank) (s : State) : (updHank h f s).spindles = s.spindles := rfl
@[simp] theorem updHank_skeins (h : BitVec 6) (f : Hank → Hank) (s : State) : (updHank h f s).skeins = s.skeins := rfl
@[simp] theorem updHank_dirs (h : BitVec 6) (f : Hank → Hank) (s : State) : (updHank h f s).dirs = s.dirs := rfl
@[simp] theorem updHank_readySeq (h : BitVec 6) (f : Hank → Hank) (s : State) : (updHank h f s).readySeq = s.readySeq := rfl
@[simp] theorem updHank_fresh (h : BitVec 6) (f : Hank → Hank) (s : State) : (updHank h f s).fresh = s.fresh := rfl
@[simp] theorem updHank_mode (h : BitVec 6) (f : Hank → Hank) (s : State) : (updHank h f s).mode = s.mode := rfl
@[simp] theorem updHank_annexEn (h : BitVec 6) (f : Hank → Hank) (s : State) : (updHank h f s).annexEn = s.annexEn := rfl
@[simp] theorem updHank_annexBase (h : BitVec 6) (f : Hank → Hank) (s : State) : (updHank h f s).annexBase = s.annexBase := rfl
@[simp] theorem updHank_starve (h : BitVec 6) (f : Hank → Hank) (s : State) : (updHank h f s).starve = s.starve := rfl
@[simp] theorem updHank_quantum (h : BitVec 6) (f : Hank → Hank) (s : State) : (updHank h f s).quantum = s.quantum := rfl
@[simp] theorem updHank_hctxarg (h : BitVec 6) (f : Hank → Hank) (s : State) : (updHank h f s).hctxarg = s.hctxarg := rfl
@[simp] theorem updHank_hctxres (h : BitVec 6) (f : Hank → Hank) (s : State) : (updHank h f s).hctxres = s.hctxres := rfl
@[simp] theorem updHank_frames (h : BitVec 6) (f : Hank → Hank) (s : State) : (updHank h f s).frames = s.frames := rfl
@[simp] theorem updHank_colEn (h : BitVec 6) (f : Hank → Hank) (s : State) : (updHank h f s).colEn = s.colEn := rfl
@[simp] theorem updHank_colBase (h : BitVec 6) (f : Hank → Hank) (s : State) : (updHank h f s).colBase = s.colBase := rfl
@[simp] theorem updHank_hcolres (h : BitVec 6) (f : Hank → Hank) (s : State) : (updHank h f s).hcolres = s.hcolres := rfl
@[simp] theorem updHank_flips (h : BitVec 6) (f : Hank → Hank) (s : State) : (updHank h f s).flips = s.flips := rfl
@[simp] theorem updHank_extSeq (h : BitVec 6) (f : Hank → Hank) (s : State) : (updHank h f s).extSeq = s.extSeq := rfl
@[simp] theorem updHank_extOut (h : BitVec 6) (f : Hank → Hank) (s : State) : (updHank h f s).extOut = s.extOut := rfl
@[simp] theorem updHank_extGone (h : BitVec 6) (f : Hank → Hank) (s : State) : (updHank h f s).extGone = s.extGone := rfl
@[simp] theorem updHank_extEn (h : BitVec 6) (f : Hank → Hank) (s : State) : (updHank h f s).extEn = s.extEn := rfl
@[simp] theorem updHank_patch (h : BitVec 6) (f : Hank → Hank) (s : State) : (updHank h f s).patch = s.patch := rfl
@[simp] theorem updHank_matchRegs (h : BitVec 6) (f : Hank → Hank) (s : State) : (updHank h f s).matchRegs = s.matchRegs := rfl
@[simp] theorem updHank_pgen (h : BitVec 6) (f : Hank → Hank) (s : State) : (updHank h f s).pgen = s.pgen := rfl
@[simp] theorem updHank_nwords (h : BitVec 6) (f : Hank → Hank) (s : State) : (updHank h f s).nwords = s.nwords := rfl
@[simp] theorem updHank_tb (h : BitVec 6) (f : Hank → Hank) (s : State) : (updHank h f s).tb = s.tb := rfl
@[simp] theorem updHank_tbRun (h : BitVec 6) (f : Hank → Hank) (s : State) : (updHank h f s).tbRun = s.tbRun := rfl
@[simp] theorem updHank_counters (h : BitVec 6) (f : Hank → Hank) (s : State) : (updHank h f s).counters = s.counters := rfl
@[simp] theorem updHank_recQ (h : BitVec 6) (f : Hank → Hank) (s : State) : (updHank h f s).recQ = s.recQ := rfl
@[simp] theorem updHank_recSeq (h : BitVec 6) (f : Hank → Hank) (s : State) : (updHank h f s).recSeq = s.recSeq := rfl
@[simp] theorem updHank_recLast (h : BitVec 6) (f : Hank → Hank) (s : State) : (updHank h f s).recLast = s.recLast := rfl
@[simp] theorem updHank_log (h : BitVec 6) (f : Hank → Hank) (s : State) : (updHank h f s).log = s.log := rfl
@[simp] theorem updHank_injAddr (h : BitVec 6) (f : Hank → Hank) (s : State) : (updHank h f s).injAddr = s.injAddr := rfl
@[simp] theorem updHank_injArmed (h : BitVec 6) (f : Hank → Hank) (s : State) : (updHank h f s).injArmed = s.injArmed := rfl
@[simp] theorem updHank_injMarks (h : BitVec 6) (f : Hank → Hank) (s : State) : (updHank h f s).injMarks = s.injMarks := rfl
@[simp] theorem updHank_arrErr (h : BitVec 6) (f : Hank → Hank) (s : State) : (updHank h f s).arrErr = s.arrErr := rfl
@[simp] theorem updHank_arrDue (h : BitVec 6) (f : Hank → Hank) (s : State) : (updHank h f s).arrDue = s.arrDue := rfl
@[simp] theorem updHank_wq (h : BitVec 6) (f : Hank → Hank) (s : State) : (updHank h f s).wq = s.wq := rfl
@[simp] theorem updHank_dramBad (h : BitVec 6) (f : Hank → Hank) (s : State) : (updHank h f s).dramBad = s.dramBad := rfl
@[simp] theorem updHank_dramErrs (h : BitVec 6) (f : Hank → Hank) (s : State) : (updHank h f s).dramErrs = s.dramErrs := rfl
@[simp] theorem updHank_dramDeg (h : BitVec 6) (f : Hank → Hank) (s : State) : (updHank h f s).dramDeg = s.dramDeg := rfl
@[simp] theorem updHank_hfpEn (h : BitVec 6) (f : Hank → Hank) (s : State) : (updHank h f s).hfpEn = s.hfpEn := rfl
@[simp] theorem updHank_hfpBase (h : BitVec 6) (f : Hank → Hank) (s : State) : (updHank h f s).hfpBase = s.hfpBase := rfl
@[simp] theorem updHank_bcasts (h : BitVec 6) (f : Hank → Hank) (s : State) : (updHank h f s).bcasts = s.bcasts := rfl
@[simp] theorem updHank_tbHold (h : BitVec 6) (f : Hank → Hank) (s : State) : (updHank h f s).tbHold = s.tbHold := rfl
@[simp] theorem updHank_tbRet (h : BitVec 6) (f : Hank → Hank) (s : State) : (updHank h f s).tbRet = s.tbRet := rfl
@[simp] theorem updHank_tbRecon (h : BitVec 6) (f : Hank → Hank) (s : State) : (updHank h f s).tbRecon = s.tbRecon := rfl
@[simp] theorem updHank_tbUnc (h : BitVec 6) (f : Hank → Hank) (s : State) : (updHank h f s).tbUnc = s.tbUnc := rfl
@[simp] theorem updHank_cmps (h : BitVec 6) (f : Hank → Hank) (s : State) : (updHank h f s).cmps = s.cmps := rfl
@[simp] theorem updHank_cmpW (h : BitVec 6) (f : Hank → Hank) (s : State) : (updHank h f s).cmpW = s.cmpW := rfl
@[simp] theorem updHank_cmpo (h : BitVec 6) (f : Hank → Hank) (s : State) : (updHank h f s).cmpo = s.cmpo := rfl
@[simp] theorem updHank_capctl (h : BitVec 6) (f : Hank → Hank) (s : State) : (updHank h f s).capctl = s.capctl := rfl
@[simp] theorem updHank_caps (h : BitVec 6) (f : Hank → Hank) (s : State) : (updHank h f s).caps = s.caps := rfl
@[simp] theorem updHank_heldActs (h : BitVec 6) (f : Hank → Hank) (s : State) : (updHank h f s).heldActs = s.heldActs := rfl
@[simp] theorem updHank_host (h : BitVec 6) (f : Hank → Hank) (s : State) : (updHank h f s).host = s.host := rfl
@[simp] theorem updHank_m (h : BitVec 6) (f : Hank → Hank) (s : State) : (updHank h f s).m = s.m := rfl

/-! ## updM -/

@[simp] theorem updM_pending (f : Mgmt → Mgmt) (s : State) : (updM f s).pending = s.pending := rfl
@[simp] theorem updM_mem (f : Mgmt → Mgmt) (s : State) : (updM f s).mem = s.mem := rfl
@[simp] theorem updM_dram (f : Mgmt → Mgmt) (s : State) : (updM f s).dram = s.dram := rfl
@[simp] theorem updM_poisoned (f : Mgmt → Mgmt) (s : State) : (updM f s).poisoned = s.poisoned := rfl
@[simp] theorem updM_ctxs (f : Mgmt → Mgmt) (s : State) : (updM f s).ctxs = s.ctxs := rfl
@[simp] theorem updM_spindles (f : Mgmt → Mgmt) (s : State) : (updM f s).spindles = s.spindles := rfl
@[simp] theorem updM_skeins (f : Mgmt → Mgmt) (s : State) : (updM f s).skeins = s.skeins := rfl
@[simp] theorem updM_dirs (f : Mgmt → Mgmt) (s : State) : (updM f s).dirs = s.dirs := rfl
@[simp] theorem updM_readySeq (f : Mgmt → Mgmt) (s : State) : (updM f s).readySeq = s.readySeq := rfl
@[simp] theorem updM_fresh (f : Mgmt → Mgmt) (s : State) : (updM f s).fresh = s.fresh := rfl
@[simp] theorem updM_mode (f : Mgmt → Mgmt) (s : State) : (updM f s).mode = s.mode := rfl
@[simp] theorem updM_annexEn (f : Mgmt → Mgmt) (s : State) : (updM f s).annexEn = s.annexEn := rfl
@[simp] theorem updM_annexBase (f : Mgmt → Mgmt) (s : State) : (updM f s).annexBase = s.annexBase := rfl
@[simp] theorem updM_starve (f : Mgmt → Mgmt) (s : State) : (updM f s).starve = s.starve := rfl
@[simp] theorem updM_quantum (f : Mgmt → Mgmt) (s : State) : (updM f s).quantum = s.quantum := rfl
@[simp] theorem updM_hctxarg (f : Mgmt → Mgmt) (s : State) : (updM f s).hctxarg = s.hctxarg := rfl
@[simp] theorem updM_hctxres (f : Mgmt → Mgmt) (s : State) : (updM f s).hctxres = s.hctxres := rfl
@[simp] theorem updM_frames (f : Mgmt → Mgmt) (s : State) : (updM f s).frames = s.frames := rfl
@[simp] theorem updM_colEn (f : Mgmt → Mgmt) (s : State) : (updM f s).colEn = s.colEn := rfl
@[simp] theorem updM_colBase (f : Mgmt → Mgmt) (s : State) : (updM f s).colBase = s.colBase := rfl
@[simp] theorem updM_hcolres (f : Mgmt → Mgmt) (s : State) : (updM f s).hcolres = s.hcolres := rfl
@[simp] theorem updM_flips (f : Mgmt → Mgmt) (s : State) : (updM f s).flips = s.flips := rfl
@[simp] theorem updM_extSeq (f : Mgmt → Mgmt) (s : State) : (updM f s).extSeq = s.extSeq := rfl
@[simp] theorem updM_extOut (f : Mgmt → Mgmt) (s : State) : (updM f s).extOut = s.extOut := rfl
@[simp] theorem updM_extGone (f : Mgmt → Mgmt) (s : State) : (updM f s).extGone = s.extGone := rfl
@[simp] theorem updM_extEn (f : Mgmt → Mgmt) (s : State) : (updM f s).extEn = s.extEn := rfl
@[simp] theorem updM_patch (f : Mgmt → Mgmt) (s : State) : (updM f s).patch = s.patch := rfl
@[simp] theorem updM_matchRegs (f : Mgmt → Mgmt) (s : State) : (updM f s).matchRegs = s.matchRegs := rfl
@[simp] theorem updM_pgen (f : Mgmt → Mgmt) (s : State) : (updM f s).pgen = s.pgen := rfl
@[simp] theorem updM_nwords (f : Mgmt → Mgmt) (s : State) : (updM f s).nwords = s.nwords := rfl
@[simp] theorem updM_tb (f : Mgmt → Mgmt) (s : State) : (updM f s).tb = s.tb := rfl
@[simp] theorem updM_tbRun (f : Mgmt → Mgmt) (s : State) : (updM f s).tbRun = s.tbRun := rfl
@[simp] theorem updM_counters (f : Mgmt → Mgmt) (s : State) : (updM f s).counters = s.counters := rfl
@[simp] theorem updM_recQ (f : Mgmt → Mgmt) (s : State) : (updM f s).recQ = s.recQ := rfl
@[simp] theorem updM_recSeq (f : Mgmt → Mgmt) (s : State) : (updM f s).recSeq = s.recSeq := rfl
@[simp] theorem updM_recLast (f : Mgmt → Mgmt) (s : State) : (updM f s).recLast = s.recLast := rfl
@[simp] theorem updM_log (f : Mgmt → Mgmt) (s : State) : (updM f s).log = s.log := rfl
@[simp] theorem updM_injAddr (f : Mgmt → Mgmt) (s : State) : (updM f s).injAddr = s.injAddr := rfl
@[simp] theorem updM_injArmed (f : Mgmt → Mgmt) (s : State) : (updM f s).injArmed = s.injArmed := rfl
@[simp] theorem updM_injMarks (f : Mgmt → Mgmt) (s : State) : (updM f s).injMarks = s.injMarks := rfl
@[simp] theorem updM_arrErr (f : Mgmt → Mgmt) (s : State) : (updM f s).arrErr = s.arrErr := rfl
@[simp] theorem updM_arrDue (f : Mgmt → Mgmt) (s : State) : (updM f s).arrDue = s.arrDue := rfl
@[simp] theorem updM_wq (f : Mgmt → Mgmt) (s : State) : (updM f s).wq = s.wq := rfl
@[simp] theorem updM_dramBad (f : Mgmt → Mgmt) (s : State) : (updM f s).dramBad = s.dramBad := rfl
@[simp] theorem updM_dramErrs (f : Mgmt → Mgmt) (s : State) : (updM f s).dramErrs = s.dramErrs := rfl
@[simp] theorem updM_dramDeg (f : Mgmt → Mgmt) (s : State) : (updM f s).dramDeg = s.dramDeg := rfl
@[simp] theorem updM_hanks (f : Mgmt → Mgmt) (s : State) : (updM f s).hanks = s.hanks := rfl
@[simp] theorem updM_hfpEn (f : Mgmt → Mgmt) (s : State) : (updM f s).hfpEn = s.hfpEn := rfl
@[simp] theorem updM_hfpBase (f : Mgmt → Mgmt) (s : State) : (updM f s).hfpBase = s.hfpBase := rfl
@[simp] theorem updM_bcasts (f : Mgmt → Mgmt) (s : State) : (updM f s).bcasts = s.bcasts := rfl
@[simp] theorem updM_tbHold (f : Mgmt → Mgmt) (s : State) : (updM f s).tbHold = s.tbHold := rfl
@[simp] theorem updM_tbRet (f : Mgmt → Mgmt) (s : State) : (updM f s).tbRet = s.tbRet := rfl
@[simp] theorem updM_tbRecon (f : Mgmt → Mgmt) (s : State) : (updM f s).tbRecon = s.tbRecon := rfl
@[simp] theorem updM_tbUnc (f : Mgmt → Mgmt) (s : State) : (updM f s).tbUnc = s.tbUnc := rfl
@[simp] theorem updM_cmps (f : Mgmt → Mgmt) (s : State) : (updM f s).cmps = s.cmps := rfl
@[simp] theorem updM_cmpW (f : Mgmt → Mgmt) (s : State) : (updM f s).cmpW = s.cmpW := rfl
@[simp] theorem updM_cmpo (f : Mgmt → Mgmt) (s : State) : (updM f s).cmpo = s.cmpo := rfl
@[simp] theorem updM_capctl (f : Mgmt → Mgmt) (s : State) : (updM f s).capctl = s.capctl := rfl
@[simp] theorem updM_caps (f : Mgmt → Mgmt) (s : State) : (updM f s).caps = s.caps := rfl
@[simp] theorem updM_heldActs (f : Mgmt → Mgmt) (s : State) : (updM f s).heldActs = s.heldActs := rfl
@[simp] theorem updM_host (f : Mgmt → Mgmt) (s : State) : (updM f s).host = s.host := rfl

/-! ## updHost -/

@[simp] theorem updHost_pending (f : HostIf → HostIf) (s : State) : (updHost f s).pending = s.pending := rfl
@[simp] theorem updHost_mem (f : HostIf → HostIf) (s : State) : (updHost f s).mem = s.mem := rfl
@[simp] theorem updHost_dram (f : HostIf → HostIf) (s : State) : (updHost f s).dram = s.dram := rfl
@[simp] theorem updHost_poisoned (f : HostIf → HostIf) (s : State) : (updHost f s).poisoned = s.poisoned := rfl
@[simp] theorem updHost_ctxs (f : HostIf → HostIf) (s : State) : (updHost f s).ctxs = s.ctxs := rfl
@[simp] theorem updHost_spindles (f : HostIf → HostIf) (s : State) : (updHost f s).spindles = s.spindles := rfl
@[simp] theorem updHost_skeins (f : HostIf → HostIf) (s : State) : (updHost f s).skeins = s.skeins := rfl
@[simp] theorem updHost_dirs (f : HostIf → HostIf) (s : State) : (updHost f s).dirs = s.dirs := rfl
@[simp] theorem updHost_readySeq (f : HostIf → HostIf) (s : State) : (updHost f s).readySeq = s.readySeq := rfl
@[simp] theorem updHost_fresh (f : HostIf → HostIf) (s : State) : (updHost f s).fresh = s.fresh := rfl
@[simp] theorem updHost_mode (f : HostIf → HostIf) (s : State) : (updHost f s).mode = s.mode := rfl
@[simp] theorem updHost_annexEn (f : HostIf → HostIf) (s : State) : (updHost f s).annexEn = s.annexEn := rfl
@[simp] theorem updHost_annexBase (f : HostIf → HostIf) (s : State) : (updHost f s).annexBase = s.annexBase := rfl
@[simp] theorem updHost_starve (f : HostIf → HostIf) (s : State) : (updHost f s).starve = s.starve := rfl
@[simp] theorem updHost_quantum (f : HostIf → HostIf) (s : State) : (updHost f s).quantum = s.quantum := rfl
@[simp] theorem updHost_hctxarg (f : HostIf → HostIf) (s : State) : (updHost f s).hctxarg = s.hctxarg := rfl
@[simp] theorem updHost_hctxres (f : HostIf → HostIf) (s : State) : (updHost f s).hctxres = s.hctxres := rfl
@[simp] theorem updHost_frames (f : HostIf → HostIf) (s : State) : (updHost f s).frames = s.frames := rfl
@[simp] theorem updHost_colEn (f : HostIf → HostIf) (s : State) : (updHost f s).colEn = s.colEn := rfl
@[simp] theorem updHost_colBase (f : HostIf → HostIf) (s : State) : (updHost f s).colBase = s.colBase := rfl
@[simp] theorem updHost_hcolres (f : HostIf → HostIf) (s : State) : (updHost f s).hcolres = s.hcolres := rfl
@[simp] theorem updHost_flips (f : HostIf → HostIf) (s : State) : (updHost f s).flips = s.flips := rfl
@[simp] theorem updHost_extSeq (f : HostIf → HostIf) (s : State) : (updHost f s).extSeq = s.extSeq := rfl
@[simp] theorem updHost_extOut (f : HostIf → HostIf) (s : State) : (updHost f s).extOut = s.extOut := rfl
@[simp] theorem updHost_extGone (f : HostIf → HostIf) (s : State) : (updHost f s).extGone = s.extGone := rfl
@[simp] theorem updHost_extEn (f : HostIf → HostIf) (s : State) : (updHost f s).extEn = s.extEn := rfl
@[simp] theorem updHost_patch (f : HostIf → HostIf) (s : State) : (updHost f s).patch = s.patch := rfl
@[simp] theorem updHost_matchRegs (f : HostIf → HostIf) (s : State) : (updHost f s).matchRegs = s.matchRegs := rfl
@[simp] theorem updHost_pgen (f : HostIf → HostIf) (s : State) : (updHost f s).pgen = s.pgen := rfl
@[simp] theorem updHost_nwords (f : HostIf → HostIf) (s : State) : (updHost f s).nwords = s.nwords := rfl
@[simp] theorem updHost_tb (f : HostIf → HostIf) (s : State) : (updHost f s).tb = s.tb := rfl
@[simp] theorem updHost_tbRun (f : HostIf → HostIf) (s : State) : (updHost f s).tbRun = s.tbRun := rfl
@[simp] theorem updHost_counters (f : HostIf → HostIf) (s : State) : (updHost f s).counters = s.counters := rfl
@[simp] theorem updHost_recQ (f : HostIf → HostIf) (s : State) : (updHost f s).recQ = s.recQ := rfl
@[simp] theorem updHost_recSeq (f : HostIf → HostIf) (s : State) : (updHost f s).recSeq = s.recSeq := rfl
@[simp] theorem updHost_recLast (f : HostIf → HostIf) (s : State) : (updHost f s).recLast = s.recLast := rfl
@[simp] theorem updHost_log (f : HostIf → HostIf) (s : State) : (updHost f s).log = s.log := rfl
@[simp] theorem updHost_injAddr (f : HostIf → HostIf) (s : State) : (updHost f s).injAddr = s.injAddr := rfl
@[simp] theorem updHost_injArmed (f : HostIf → HostIf) (s : State) : (updHost f s).injArmed = s.injArmed := rfl
@[simp] theorem updHost_injMarks (f : HostIf → HostIf) (s : State) : (updHost f s).injMarks = s.injMarks := rfl
@[simp] theorem updHost_arrErr (f : HostIf → HostIf) (s : State) : (updHost f s).arrErr = s.arrErr := rfl
@[simp] theorem updHost_arrDue (f : HostIf → HostIf) (s : State) : (updHost f s).arrDue = s.arrDue := rfl
@[simp] theorem updHost_wq (f : HostIf → HostIf) (s : State) : (updHost f s).wq = s.wq := rfl
@[simp] theorem updHost_dramBad (f : HostIf → HostIf) (s : State) : (updHost f s).dramBad = s.dramBad := rfl
@[simp] theorem updHost_dramErrs (f : HostIf → HostIf) (s : State) : (updHost f s).dramErrs = s.dramErrs := rfl
@[simp] theorem updHost_dramDeg (f : HostIf → HostIf) (s : State) : (updHost f s).dramDeg = s.dramDeg := rfl
@[simp] theorem updHost_hanks (f : HostIf → HostIf) (s : State) : (updHost f s).hanks = s.hanks := rfl
@[simp] theorem updHost_hfpEn (f : HostIf → HostIf) (s : State) : (updHost f s).hfpEn = s.hfpEn := rfl
@[simp] theorem updHost_hfpBase (f : HostIf → HostIf) (s : State) : (updHost f s).hfpBase = s.hfpBase := rfl
@[simp] theorem updHost_bcasts (f : HostIf → HostIf) (s : State) : (updHost f s).bcasts = s.bcasts := rfl
@[simp] theorem updHost_tbHold (f : HostIf → HostIf) (s : State) : (updHost f s).tbHold = s.tbHold := rfl
@[simp] theorem updHost_tbRet (f : HostIf → HostIf) (s : State) : (updHost f s).tbRet = s.tbRet := rfl
@[simp] theorem updHost_tbRecon (f : HostIf → HostIf) (s : State) : (updHost f s).tbRecon = s.tbRecon := rfl
@[simp] theorem updHost_tbUnc (f : HostIf → HostIf) (s : State) : (updHost f s).tbUnc = s.tbUnc := rfl
@[simp] theorem updHost_cmps (f : HostIf → HostIf) (s : State) : (updHost f s).cmps = s.cmps := rfl
@[simp] theorem updHost_cmpW (f : HostIf → HostIf) (s : State) : (updHost f s).cmpW = s.cmpW := rfl
@[simp] theorem updHost_cmpo (f : HostIf → HostIf) (s : State) : (updHost f s).cmpo = s.cmpo := rfl
@[simp] theorem updHost_capctl (f : HostIf → HostIf) (s : State) : (updHost f s).capctl = s.capctl := rfl
@[simp] theorem updHost_caps (f : HostIf → HostIf) (s : State) : (updHost f s).caps = s.caps := rfl
@[simp] theorem updHost_heldActs (f : HostIf → HostIf) (s : State) : (updHost f s).heldActs = s.heldActs := rfl
@[simp] theorem updHost_m (f : HostIf → HostIf) (s : State) : (updHost f s).m = s.m := rfl

end Sys2Proof.Laws
end

