-- ==== Sys2Proof/Laws/Memory.lean ====
section
/-! SUPPORT. The laws of memory: a read after a write of a cell, and the canonical form, which every memory operation keeps. -/

namespace Sys2Proof.Laws

open Sys2Proof.Machine

/-! ## Stored cells -/

/-- The memory after a raw write: eight bytes, low byte first. -/
theorem putRaw_mem (a : PAddr) (v : Cell) (s : State) :
    (putRaw a v s).mem =
      mapSet 0 (mapSet 0 (mapSet 0 (mapSet 0 (mapSet 0 (mapSet 0 (mapSet 0 (mapSet 0 s.mem
        (a.toNat * 8 + 0) (v.extractLsb' 0 8)) (a.toNat * 8 + 1) (v.extractLsb' 8 8)) (a.toNat * 8 + 2) (v.extractLsb' 16 8))
        (a.toNat * 8 + 3) (v.extractLsb' 24 8)) (a.toNat * 8 + 4) (v.extractLsb' 32 8)) (a.toNat * 8 + 5) (v.extractLsb' 40 8))
        (a.toNat * 8 + 6) (v.extractLsb' 48 8)) (a.toNat * 8 + 7) (v.extractLsb' 56 8) := rfl

/-- A byte outside the cell written is as before. -/
theorem putRaw_byte_other (a : PAddr) (v : Cell) (s : State) (n : Nat) (h : n / 8 ≠ a.toNat) :
    mapGet 0 (putRaw a v s).mem n = mapGet 0 s.mem n := by
  rw [putRaw_mem]
  iterate 8 rw [mapGet_mapSet_other _ _ _ (by omega)]

theorem cellAt_putRaw_other (a b : PAddr) (v : Cell) (s : State) (h : b ≠ a) : cellAt (putRaw a v s) b = cellAt s b := by
  have e : b.toNat ≠ a.toNat := fun e => h (BitVec.eq_of_toNat_eq e)
  have g : ∀ i, i < 8 → mapGet 0 (putRaw a v s).mem (b.toNat * 8 + i) = mapGet 0 s.mem (b.toNat * 8 + i) :=
    fun i hi => putRaw_byte_other a v s _ (by omega)
  simp only [cellAt]
  rw [g 0 (by omega), g 1 (by omega), g 2 (by omega), g 3 (by omega), g 4 (by omega), g 5 (by omega), g 6 (by omega), g 7 (by omega)]

theorem bytes_join (v : BitVec 64) :
    v.extractLsb' 56 8 ++ v.extractLsb' 48 8 ++ v.extractLsb' 40 8 ++ v.extractLsb' 32 8 ++ v.extractLsb' 24 8 ++
      v.extractLsb' 16 8 ++ v.extractLsb' 8 8 ++ v.extractLsb' 0 8 = v := by
  apply BitVec.eq_of_getLsbD_eq
  intro i hi
  have : i < 64 := hi
  simp only [BitVec.getLsbD_append, BitVec.getLsbD_extractLsb']
  repeat' split
  all_goals
    (rw [show ∀ b : Bool, (decide (_ < 8) && b) = b from fun b => by rw [decide_eq_true (by omega)]; rfl]; congr 1; omega)

/-- A cell reads back as it was written. -/
@[simp] theorem cellAt_putRaw (a : PAddr) (v : Cell) (s : State) : cellAt (putRaw a v s) a = v := by
  have g : ∀ (m : SMap (BitVec 8)) (k j : Nat) (x : BitVec 8), mapGet 0 (mapSet 0 m k x) j = if j = k then x else mapGet 0 m j := by
    intro m k j x
    split
    · rename_i e; rw [e]; exact mapGet_mapSet_same ..
    · exact mapGet_mapSet_other _ _ _ (by assumption)
  simp only [cellAt, putRaw_mem, g, Nat.add_left_cancel_iff]
  exact bytes_join v

/-! ## The canonical form -/

/-- Canonical bytes inside the address space. -/
def bytesWf (m : SMap (BitVec 8)) : Bool := mapWf 0 m && inSpace m

theorem memory_wf_eq (s : State) : Memory.wf s = bytesWf s.mem := rfl

theorem bytesWf_mapSet (m : SMap (BitVec 8)) (k : Nat) (v : BitVec 8) (hk : k < 2 ^ 43) (w : bytesWf m = true) :
    bytesWf (mapSet 0 m k v) = true := by
  simp only [bytesWf, inSpace, Bool.and_eq_true, List.all_eq_true, decide_eq_true_eq] at w ⊢
  refine ⟨mapWf_mapSet 0 m k v w.1, fun p hp => ?_⟩
  rcases mem_mapSet hp with e | e
  · omega
  · exact w.2 p e

/-- A raw write keeps the canonical form. -/
theorem putRaw_wf (a : PAddr) (v : Cell) (s : State) (w : Memory.wf s = true) : Memory.wf (putRaw a v s) = true := by
  have ha : a.toNat < 2 ^ 40 := a.isLt
  rw [memory_wf_eq] at w ⊢
  rw [putRaw_mem]
  iterate 8 apply bytesWf_mapSet _ _ _ (by omega)
  exact w

/-- Memory's form depends on memory alone. -/
theorem wf_of_mem {s t : State} (h : t.mem = s.mem) (w : Memory.wf s = true) : Memory.wf t = true := by
  rw [memory_wf_eq, h]; exact w

end Sys2Proof.Laws
end

