-- ==== Sys2Proof/Laws/MemoryOps.lean ====
section
/-! SUPPORT. The shared operations of Machine/Ops.lean: which leave memory alone, and that the others keep its canonical form. -/

namespace Sys2Proof.Laws

open Sys2Proof.Machine

@[simp] theorem bump_mem (n : Nat) (s : State) : (bump n s).mem = s.mem := rfl

@[simp] theorem acceptRec_mem (r : ErrRec) (s : State) : (acceptRec r s).mem = s.mem := by
  unfold acceptRec
  dsimp only
  split
  · rfl
  · split <;> rfl

@[simp] theorem logOnly_mem (e v d u : Nat) (c : Option CtxId) (a : Option Nat) (x : Nat) (s : State) :
    (logOnly e v d u c a x s).mem = s.mem := by simp [logOnly]

@[simp] theorem clearRes_mem (n : Nat) (o : Option CtxId) (s : State) : (clearRes n o s).mem = s.mem := rfl

@[simp] theorem injArray_mem (o : Option CtxId) (a : PAddr) (x : Cell) (s : State) : (injArray o a x s).mem = s.mem := by
  unfold injArray
  dsimp only
  split
  · split <;> rfl
  · split <;> rfl

@[simp] theorem condSet_mem (n : Nat) (b : Bool) (s : State) : (condSet n b s).mem = s.mem := by
  unfold condSet
  repeat' split
  all_goals rfl

@[simp] theorem condClear_mem (n : Nat) (s : State) : (condClear n s).mem = s.mem := by
  unfold condClear
  repeat' split
  all_goals rfl

/-! ## The fabric and the caches: what they hold is tags and states, and no byte of memory -/

@[simp] theorem traffic_mem (r : BitVec 4) (s : State) : (traffic r s).mem = s.mem := by
  unfold traffic
  split <;> rfl

@[simp] theorem fabric_mem (a b : BitVec 2) (s : State) : (fabric a b s).mem = s.mem := by
  unfold fabric
  split
  · exact traffic_mem ..
  · exact traffic_mem ..

@[simp] theorem wakeSkein_mem (k : SkId) (s : State) : (wakeSkein k s).mem = s.mem := by
  unfold wakeSkein
  split
  · exact fabric_mem ..
  · rfl

@[simp] theorem reach_mem (a : BitVec 2) (k : SkId) (s : State) : (reach a k s).mem = s.mem := by simp [reach]

/-- Of two states with the same memory, either. -/
theorem mem_ite {p : Prop} [Decidable p] {a b : State} {m : SMap (BitVec 8)} (ha : a.mem = m) (hb : b.mem = m) : (if p then a else b).mem = m := by
  split <;> assumption

/-- Steps that leave memory alone leave it alone together. -/
theorem foldl_mem {α : Type} (f : State → α → State) (h : ∀ s a, (f s a).mem = s.mem) (l : List α) (s : State) :
    (l.foldl f s).mem = s.mem := by
  induction l generalizing s with
  | nil => rfl
  | cons a l ih => rw [List.foldl_cons, ih, h]

@[simp] theorem lineMsg_mem (k : SkId) (n : Nat) (s : State) : (lineMsg k n s).mem = s.mem := reach_mem ..

@[simp] theorem arrDrop_mem (k : SkId) (n : Nat) (s : State) : (arrDrop k n s).mem = s.mem := by
  unfold arrDrop
  split <;> rfl

@[simp] theorem l1Drop_mem (q : SpId) (n : Nat) (s : State) : (l1Drop q n s).mem = s.mem := by
  unfold l1Drop
  split <;> rfl

@[simp] theorem skDrop_mem (k : SkId) (n : Nat) (s : State) : (skDrop k n s).mem = s.mem := by
  unfold skDrop
  simp only [updSk_mem]
  rw [foldl_mem _ fun _ _ => l1Drop_mem ..]
  split
  · rw [lineMsg_mem]
    exact mem_ite rfl (arrDrop_mem ..)
  · rfl

@[simp] theorem dirNote_mem (k : SkId) (n : Nat) (m : Bool) (s : State) : (dirNote k n m s).mem = s.mem := by
  unfold dirNote
  dsimp only
  split
  · exact lineMsg_mem ..
  · simp only []
    split
    · split
      · rw [foldl_mem]
        · exact lineMsg_mem ..
        · exact fun s j => mem_ite (skDrop_mem ..) rfl
      · exact lineMsg_mem ..
    · exact lineMsg_mem ..

@[simp] theorem l1Clean_mem (k : SkId) (n : Nat) (s : State) : (l1Clean k n s).mem = s.mem := by
  unfold l1Clean
  rw [foldl_mem _ fun _ _ => updSp_mem ..]

@[simp] theorem skShare_mem (k : SkId) (n : Nat) (s : State) : (skShare k n s).mem = s.mem := by
  unfold skShare dirClean
  simp only [l1Clean_mem, updSk_mem, lineMsg_mem]

@[simp] theorem addDue_mem (l : List ArrDue) (s : State) : (addDue l s).mem = s.mem := rfl

theorem skTagFix_mem (k : SkId) (n w : Nat) (s : State) : (skTagFix k n w s).mem = s.mem := by
  have o : ∀ (p : Prop) [Decidable p] (l : Nat) (u : State), u.mem = s.mem → State.mem (if p then u else skDrop k l u) = s.mem :=
    fun p _ l u e => mem_ite e ((skDrop_mem ..).trans e)
  unfold skTagFix
  dsimp only
  split
  · rw [addDue_mem, updSk_mem]
    exact o _ _ _ (mem_ite rfl rfl)
  · rw [addDue_mem]
    exact mem_ite ((updSk_mem ..).trans (o _ _ _ rfl)) (updSk_mem ..)

@[simp] theorem skTags_mem (k : SkId) (n : Nat) (s : State) : (skTags k n s).mem = s.mem := by
  unfold skTags
  exact foldl_mem _ (fun _ _ => mem_ite (skTagFix_mem ..) rfl) ..

@[simp] theorem othersYield_mem (k : SkId) (n : Nat) (o : Bool) (s : State) : (othersYield k n o s).mem = s.mem := by
  unfold othersYield
  split
  · rfl
  · dsimp only
    rw [foldl_mem]
    intro s j
    have e : ∀ (p : Prop) [Decidable p] (a b : BitVec 2), State.mem (if p then fabric a b s else s) = s.mem :=
      fun p _ a b => mem_ite (fabric_mem ..) rfl
    have t : ∀ (p : Prop) [Decidable p] (j : SkId), State.mem (if p then skTags j (skSet n) s else s) = s.mem := fun p _ j => mem_ite (skTags_mem ..) rfl
    have f : ∀ (p : Prop) [Decidable p] (a b : BitVec 2) (u : State), u.mem = s.mem → State.mem (if p then fabric a b u else u) = s.mem :=
      fun p _ a b u h => mem_ite ((fabric_mem ..).trans h) h
    exact mem_ite (f _ _ _ _ (t ..)) (mem_ite ((skDrop_mem ..).trans (f _ _ _ _ (t ..))) ((skShare_mem ..).trans (f _ _ _ _ (t ..))))

@[simp] theorem skInstall_mem (k : SkId) (w n : Nat) (st : Mesi) (a : BitVec 2) (s : State) : (skInstall k w n st a s).mem = s.mem := by
  simp only [skInstall, dirNote_mem, updSk_mem]

@[simp] theorem askHeld_mem (k : SkId) (n : Nat) (a : Asker) (s : State) : (askHeld k n a s).mem = s.mem := rfl

@[simp] theorem poisonLn_mem (n : Nat) (s : State) : (poisonLn n s).mem = s.mem := rfl

theorem dramFix_mem (n : Nat) (s : State) : (dramFix n s).mem = s.mem := by
  unfold dramFix; exact mem_ite rfl rfl

theorem dramRead_mem (n : Nat) (s : State) : (dramRead n s).mem = s.mem := by
  unfold dramRead
  dsimp only
  split
  · rfl
  · exact dramFix_mem ..
  · split
    · rw [addDue_mem, poisonLn_mem, dramFix_mem]
    · rw [addDue_mem, dramFix_mem]

@[simp] theorem dramDemand_mem (n : Nat) (s : State) : (dramDemand n s).mem = s.mem := by
  unfold dramDemand; exact mem_ite rfl (dramRead_mem ..)

theorem skFillIn_mem (k : SkId) (m : BitVec 16) (n : Nat) (o : Bool) (a : BitVec 2) (c : Asker) (s : State) :
    (skFillIn k m n o a c s).2.mem = s.mem := by
  have y : (othersYield k n o (lineMsg k n (dramDemand n s))).mem = s.mem := by rw [othersYield_mem, lineMsg_mem, dramDemand_mem]
  have e : ∀ (p : Prop) [Decidable p] (l : Nat) (u : State), u.mem = s.mem → State.mem (if p then u else skDrop k l u) = s.mem :=
    fun p _ l u e => mem_ite e ((skDrop_mem ..).trans e)
  unfold skFillIn
  dsimp only
  split
  · split
    · rfl
    · dsimp only
      have f : ∀ (p q : Prop) [Decidable p] [Decidable q] (g : Skein → Skein), State.mem (if p then
          dirNote k n true (updSk k g (if q then othersYield k n true (lineMsg k n s) else s)) else
          l1Clean k n (updSk k g (if q then othersYield k n true (lineMsg k n s) else s))) = s.mem := by
        intro p q _ _ g
        have z : State.mem (if q then othersYield k n true (lineMsg k n s) else s) = s.mem :=
          mem_ite (by rw [othersYield_mem, lineMsg_mem]) rfl
        exact mem_ite (by rw [dirNote_mem, updSk_mem, z]) (by rw [l1Clean_mem, updSk_mem, z])
      exact f ..
  · split
    · rfl
    · split
      · rfl
      · split
        · dsimp only
          rw [foldl_mem _ fun _ _ => skDrop_mem ..]
          exact y
        · split
          · exact y
          · split
            · dsimp only
              rw [updSk_mem]
              exact e _ _ _ ((updSk_mem ..).trans y)
            · dsimp only
              rw [skInstall_mem]
              exact e _ _ _ ((updSk_mem ..).trans y)

@[simp] theorem skFill_mem (k : SkId) (m : BitVec 16) (n : Nat) (o : Bool) (a : BitVec 2) (c : Asker) (s : State) :
    (skFill k m n o a c s).2.mem = s.mem := (skFillIn_mem ..).trans (skTags_mem ..)

/-! Held fills and the accesses that wait for them -/

@[simp] theorem wqRoom_mem (v : Nat) (s : State) : (wqRoom v s).mem = s.mem := by
  unfold wqRoom; exact mem_ite rfl rfl

@[simp] theorem heldInstall_mem (k : SkId) (h : HeldFill) (s : State) : (heldInstall k h s).mem = s.mem := by
  unfold heldInstall; rw [updSk_mem, skInstall_mem]; rfl

@[simp] theorem heldSettle_mem (k : SkId) (h : HeldFill) (s : State) : (heldSettle k h s).mem = s.mem :=
  (heldInstall_mem ..).trans (wqRoom_mem ..)

@[simp] theorem heldSettleAll_mem (f : SkId → HeldFill → Bool) (s : State) : (heldSettleAll f s).mem = s.mem :=
  foldl_mem _ (fun _ _ => foldl_mem _ (fun _ _ => mem_ite (heldSettle_mem ..) rfl) ..) ..

@[simp] theorem holdEnd_mem (f : Nat → Bool) (s : State) : (holdEnd f s).mem = s.mem := by
  unfold holdEnd; exact mem_ite rfl rfl

@[simp] theorem unitGot_mem (k : SkId) (n : Nat) (o : Bool) (s : State) : (unitGot k n o s).mem = s.mem := by
  unfold unitGot; exact mem_ite (foldl_mem _ (fun _ _ => l1Drop_mem ..) ..) rfl

@[simp] theorem unitTouch_mem (k : SkId) (m : BitVec 16) (n : Nat) (o : Bool) (a : BitVec 2) (s : State) :
    (unitTouch k m n o a s).mem = s.mem := by
  simp only [unitTouch, unitGot_mem, heldSettleAll_mem, skFill_mem, holdEnd_mem]

@[simp] theorem busTouch_mem (b : BitVec 2) (n : Nat) (w : Bool) (s : State) : (busTouch b n w s).mem = s.mem := by
  unfold busTouch
  dsimp only
  rw [foldl_mem]
  · have d : State.mem (if w then s else dramDemand n s) = s.mem := mem_ite rfl (dramDemand_mem ..)
    rw [fabric_mem]; exact mem_ite ((holdEnd_mem ..).trans d) d
  · exact fun s j => mem_ite (mem_ite ((skDrop_mem ..).trans (skTags_mem ..)) ((skShare_mem ..).trans (skTags_mem ..))) (skTags_mem ..)

@[simp] theorem hostTouch_mem (n : Nat) (w : Bool) (s : State) : (hostTouch n w s).mem = s.mem := busTouch_mem ..

@[simp] theorem distaffTouch_mem (n : Nat) (w : Bool) (s : State) : (distaffTouch n w s).mem = s.mem := busTouch_mem ..

@[simp] theorem annexTouch_mem (c : CtxId) (k : Nat) (o : Bool) (s : State) : (annexTouch c k o s).mem = s.mem := unitTouch_mem ..

/-! ## Readiness -/

@[simp] theorem makeReady_mem (c : CtxId) (s : State) : (makeReady c s).mem = s.mem := wakeSkein_mem ..

@[simp] theorem heard_mem (c : CtxId) (s : State) : (heard c s).mem = s.mem := by
  have e : ∀ (k : SkId) (b : BitVec 2) (s : State), (reach b k s).mem = s.mem := fun k b s => (wakeSkein_mem ..).trans (fabric_mem ..)
  unfold heard
  exact mem_ite (e ..) ((e ..).trans (e ..))

@[simp] theorem wakeCtx_mem (c : CtxId) (r : BitVec 3) (s : State) : (wakeCtx c r s).mem = s.mem := by
  unfold wakeCtx
  dsimp only
  repeat' split
  · rw [makeReady_mem]; rfl
  all_goals rfl

/-! ## Writes and reads of cells -/

/-- The memory after a write of a cell: the cell's own bytes, which an injection may have changed. -/
theorem putCell_mem (o : Option CtxId) (a : PAddr) (v : Cell) (s : State) :
    ∃ x, (putCell o a v s).mem = (putRaw a x s).mem := by
  refine ⟨if injHit o a s && decide (bits s.injAddr.toNat 60 4 ≠ 2) && !bitN s.injAddr.toNat 59 then
    sealCell v ^^^ s.injArmed.getD 0 else sealCell v, ?_⟩
  unfold putCell
  dsimp only
  split
  · simp only [injArray_mem, clearRes_mem]
    repeat' split
    all_goals rfl
  · simp only [clearRes_mem]
    repeat' split
    all_goals rfl

theorem putCell_wf (o : Option CtxId) (a : PAddr) (v : Cell) (s : State) (w : Memory.wf s = true) : Memory.wf (putCell o a v s) = true := by
  obtain ⟨x, e⟩ := putCell_mem o a v s
  exact wf_of_mem e (putRaw_wf a x s w)

/-- Without an armed injection, a cell written reads back with its CHECK computed. -/
theorem cellAt_putCell (o : Option CtxId) (a : PAddr) (v : Cell) (s : State) (h : s.injArmed = none) :
    cellAt (putCell o a v s) a = sealCell v := by
  have hit : injHit o a s = false := by simp [injHit, h]
  have e : (putCell o a v s).mem = (putRaw a (sealCell v) s).mem := by
    unfold putCell
    simp only [hit, Bool.false_and, Bool.false_eq_true, if_false, clearRes_mem]
    split <;> rfl
  have c : cellAt (putCell o a v s) a = cellAt (putRaw a (sealCell v) s) a := by unfold cellAt; rw [e]
  rw [c, cellAt_putRaw]

/-- A write of a cell leaves every other byte alone. -/
theorem putCell_byte_other (o : Option CtxId) (a : PAddr) (v : Cell) (s : State) (n : Nat) (h : n / 8 ≠ a.toNat) :
    mapGet 0 (putCell o a v s).mem n = mapGet 0 s.mem n := by
  obtain ⟨x, e⟩ := putCell_mem o a v s
  rw [e]; exact putRaw_byte_other a x s n h

theorem setAx_wf (c : CtxId) (k : Nat) (v : Datum) (s : State) (w : Memory.wf s = true) : Memory.wf (setAx c k v s) = true := by
  unfold setAx
  dsimp only
  split
  · exact putCell_wf _ _ _ _ (wf_of_mem (annexTouch_mem ..) w)
  · exact wf_of_mem (by simp) w

@[simp] theorem holdItem_mem (c : CtxId) (i : HeldItem) (s : State) : (holdItem c i s).mem = s.mem := rfl

theorem raiseIrq_wf (c : CtxId) (i : Nat) (s : State) (w : Memory.wf s = true) : Memory.wf (raiseIrq c i s) = true := by
  have h : ∀ k v, Memory.wf (setAx c k v (heard c s)) = true := fun k v => setAx_wf _ _ _ _ (wf_of_mem (heard_mem ..) w)
  unfold raiseIrq
  dsimp only
  split
  · exact w
  · split
    · exact wf_of_mem ((holdItem_mem ..).trans (heard_mem ..)) w
    · split
      · exact wf_of_mem (wakeCtx_mem ..) (h ..)
      · exact h ..

theorem notify_wf (c : Option CtxId) (s : State) (w : Memory.wf s = true) : Memory.wf (notify c s) = true := by
  have step : ∀ (b : Bool) (d : CtxId) (t : State), Memory.wf t = true → Memory.wf (if b then raiseIrq d 3 t else t) = true := by
    intro b d t w
    split
    · exact raiseIrq_wf _ _ _ w
    · exact w
  unfold notify
  dsimp only
  cases c with
  | none =>
    dsimp only
    split
    · exact step _ _ _ w
    · exact wf_of_mem (logOnly_mem ..) (step _ _ _ w)
  | some d =>
    dsimp only
    split
    · exact step _ _ _ (step _ _ _ w)
    · exact wf_of_mem (logOnly_mem ..) (step _ _ _ (step _ _ _ w))

theorem logEvent_wf (e v d u : Nat) (c : Option CtxId) (a : Option Nat) (x : Nat) (s : State) (w : Memory.wf s = true) :
    Memory.wf (logEvent e v d u c a x s) = true := by
  unfold logEvent
  dsimp only
  have h1 : Memory.wf (logOnly e v d u c a x s) = true := wf_of_mem (logOnly_mem ..) w
  split
  · apply notify_wf
    split
    · exact wf_of_mem (condSet_mem ..) h1
    · exact h1
  · split
    · exact wf_of_mem (condSet_mem ..) h1
    · exact h1

theorem logInj_wf (i : Bool) (e v d u : Nat) (c : Option CtxId) (a x : Nat) (s : State) (w : Memory.wf s = true) :
    Memory.wf (logInj i e v d u c a x s) = true := by
  have h := logEvent_wf e v d u c (some a) x (if i then { s with injMarks := a :: s.injMarks } else s) (wf_of_mem (mem_ite rfl rfl) w)
  unfold logInj
  exact wf_of_mem (mem_ite rfl rfl) h

theorem arrRetire_mem (q : SpId) (t n : Nat) (s : State) : (arrRetire q t n s).mem = s.mem := by
  unfold arrRetire
  dsimp only
  split
  · split
    · rw [addDue_mem, updSp_mem, l1Drop_mem]
    · rfl
  · split
    · rw [addDue_mem, updSk_mem, skDrop_mem]
    · rfl

theorem arrHardFix_wf (h i : Bool) (q : SpId) (t l : Nat) (p : Nat × Nat × Nat) (c : Option CtxId) (n : Nat) (s : State)
    (w : Memory.wf s = true) : Memory.wf (arrHardFix h i q t l p c n s) = true := by
  cases h
  · exact w
  · exact logInj_wf _ _ _ _ _ _ _ _ _ (wf_of_mem (arrRetire_mem ..) w)

theorem arrCheck_wf (c : Option CtxId) (a : PAddr) (s : State) (w : Memory.wf s = true) : Memory.wf (arrCheck c a s).2 = true := by
  have h : ∀ (p q r u : Prop) [Decidable p] [Decidable q] [Decidable r] [Decidable u] (b x y z d : State), Memory.wf b = true → Memory.wf x = true →
      Memory.wf y = true → Memory.wf z = true → Memory.wf d = true →
      Memory.wf (if p then (false, b) else if q then (false, x) else if r then (false, y) else if u then (false, z) else (true, d) : Bool × State).2 = true := by
    intro p q r u _ _ _ _ b x y z d hb hx hy hz hd
    split
    · exact hb
    · split
      · exact hx
      · split
        · exact hy
        · split
          · exact hz
          · exact hd
  unfold arrCheck
  dsimp only
  refine h _ _ _ _ _ _ _ _ _ w ?_ ?_ ?_ ?_
  · exact logInj_wf _ _ _ _ _ _ _ _ _ (wf_of_mem (clearRes_mem ..) (arrHardFix_wf _ _ _ _ _ _ _ _ _ w))
  · exact logInj_wf _ _ _ _ _ _ _ _ _ (arrHardFix_wf _ _ _ _ _ _ _ _ _ w)
  · exact arrHardFix_wf _ _ _ _ _ _ _ _ _ w
  · exact logInj_wf _ _ _ _ _ _ _ _ _ (wf_of_mem ((poisonLn_mem ..).trans (mem_ite rfl (skDrop_mem ..))) (arrHardFix_wf _ _ _ _ _ _ _ _ _ w))

theorem readCell_wf (c : Option CtxId) (a : PAddr) (s : State) (w : Memory.wf s = true) : Memory.wf (readCell c a s).2 = true := by
  unfold readCell
  dsimp only
  split
  · exact logEvent_wf _ _ _ _ _ _ _ _ w
  · have h := arrCheck_wf c a s w
    rcases e : arrCheck c a s with ⟨b, t⟩
    rw [e] at h
    cases b
    · dsimp only at h ⊢
      split
      · exact h
      · exact logEvent_wf _ _ _ _ _ _ _ _ (wf_of_mem (clearRes_mem ..) (putRaw_wf _ _ _ h))
      · exact logEvent_wf _ _ _ _ _ _ _ _ h
    · exact h

/-- The memory of the reset state is in canonical form. -/
theorem reset_wf : Memory.wf State.reset = true := rfl

end Sys2Proof.Laws
end

