-- ==== Sys2Proof/Laws/Slots.lean ====
section
/-! SUPPORT. What taking a slot does, once: bodies of instructions, landings, operand reads, and what follows the slot. -/

namespace Sys2Proof.Laws

open Sys2Proof.Machine

/-! ## Bodies -/

theorem x_pure {α : Type} (a : α) (s : State) : (pure a : X α) s = .ok a s := rfl

theorem x_bind {α β : Type} (x : X α) (f : α → X β) (s : State) :
    (x >>= f) s = match x s with
      | .ok a t => f a t
      | .error e t => .error e t := by
  change EStateM.bind x f s = _
  unfold EStateM.bind
  cases x s <;> rfl

theorem x_bind_ok {α β : Type} {x : X α} {f : α → X β} {s t : State} {a : α} (h : x s = .ok a t) : (x >>= f) s = f a t := by
  rw [x_bind, h]

theorem x_get (s : State) : (get : X State) s = .ok s s := rfl

theorem xCtx_eq (c : CtxId) (s : State) : xCtx c s = .ok (getCtx s c) s := rfl

theorem xMod_eq (f : State → State) (s : State) : xMod f s = .ok () (f s) := rfl

/-- An operand register that verifies is read as it is (R77). -/
theorem wRead_clean {c : CtxId} {r : BitVec 5} {s : State} (h : clean (getCtx s c) r = true) :
    wRead c r s = .ok (wGet (getCtx s c) r) s := by
  have e : verify (wGet (getCtx s c) r) = some (wGet (getCtx s c) r, false) := by simpa [clean] using h
  simp only [wRead, wCheck, e]

/-! ## Landings -/

theorem mkLands_nil (n : Nat) : mkLands n [] = [] := rfl

theorem mkLands_append (n : Nat) (a b : Lands) : mkLands n (a ++ b) = mkLands n a ++ mkLands n b := by
  simp [mkLands]

theorem landAll_nil (c : CtxId) (s : State) (h : setCtx s c (getCtx s c) = s) : landAll c [] s = s := by
  simpa [landAll, updCtx, mkLands] using h

/-- One landing. -/
theorem land_eq (c : CtxId) (d : Nat) (t : Tgt) (v : BitVec 64) (s : State) :
    land c d t v s = .ok () (if t = .word 0 ∨ t = .pred 0 then s else landAll c [(d, t, v)] s) := by
  simp only [land, xMod_eq]
  congr 1
  split
  · rfl
  · rename_i h
    have e : ∀ n, mkLands n [(d, t, v)] = [{ slot := n + d, tgt := t, val := v }] := by
      intro n
      simp only [mkLands]
      rw [List.filter_cons_of_pos (by simpa using not_or.mp h)]
      rfl
    simp only [landAll, e]

theorem landAll_landAll (c : CtxId) (a b : Lands) (s : State) : landAll c b (landAll c a s) = landAll c (a ++ b) s := by
  simp only [landAll, updCtx_updCtx, mkLands_append, List.append_assoc]

theorem land_seq (c : CtxId) (d : Nat) (t : Tgt) (v : BitVec 64) (s : State) : land c d t v s = .ok () (landSeq c [(d, t, v)] s) := by
  rw [land_eq]; rfl

theorem landSeq_append (c : CtxId) (a b : Lands) (s : State) : landSeq c b (landSeq c a s) = landSeq c (a ++ b) s := by
  induction a generalizing s with
  | nil => rfl
  | cons l a ih => exact ih _

/-- A sequence of landings changes a context's landings only. -/
theorem landSeq_spec (c : CtxId) (ls : Lands) (s : State) : landSeq c ls s = s ∨ ∃ ms, landSeq c ls s = landAll c ms s := by
  induction ls generalizing s with
  | nil => exact .inl rfl
  | cons l ls ih =>
    simp only [landSeq]
    split
    · exact ih s
    · rcases ih (landAll c [l] s) with e | ⟨ms, e⟩
      · exact .inr ⟨_, e⟩
      · exact .inr ⟨[l] ++ ms, by rw [e, landAll_landAll]⟩

theorem landSeq_ctx (c : CtxId) (ls : Lands) (s : State) :
    getCtx (landSeq c ls s) c = { getCtx s c with land := (getCtx (landSeq c ls s) c).land } := by
  rcases landSeq_spec c ls s with e | ⟨ms, e⟩
  · rw [e]
  · rw [e]; simp [landAll]

/-- Landings do not move a context. -/
theorem spOf_landAll (c : CtxId) (ls : Lands) (s : State) : spOf (landAll c ls s) c = spOf s c := by
  simp [spOf, landAll, ctxSp]

/-! ## After the slot -/

/-- After a slot of a running context that neither parks nor waits, control moves on and the quantum counts. -/
theorem slotDone_running {c : CtxId} {a : Adv} {s : State} (hr : (getCtx s c).st = .running) (hp : (getCtx s c).park = none)
    (hw : (getCtx s c).wait = none) : slotDone c a s = slotResult c a [] s := by
  simp only [slotDone, advance, settle, updCtx_updCtx]
  have e : spOf (updCtx c (fun x => { x with flow := advFlow x.flow a, issuedAt := s.m.clock }) s) c = spOf s c := by simp [spOf, ctxSp]
  simp [e, hr, hp, hw, slotResult, mkLands]

theorem slotResult_landAll (c : CtxId) (a : Adv) (ls : Lands) (s : State) : slotResult c a [] (landAll c ls s) = slotResult c a ls s := by
  simp only [slotResult, spOf_landAll]
  rw [landAll, updCtx_updCtx]
  simp [mkLands]

theorem slotDone_landAll {c : CtxId} {a : Adv} {ls : Lands} {s : State} (hr : (getCtx s c).st = .running)
    (hp : (getCtx s c).park = none) (hw : (getCtx s c).wait = none) : slotDone c a (landAll c ls s) = slotResult c a ls s := by
  rw [slotDone_running (by simpa [landAll] using hr) (by simpa [landAll] using hp) (by simpa [landAll] using hw), slotResult_landAll]

theorem updCtx_landSeq (c : CtxId) (ls : Lands) (fl : Flow → Flow) (n : Nat) (s : State) :
    updCtx c (fun x => { x with flow := fl x.flow, issuedAt := n }) (landSeq c ls s) =
      updCtx c (fun x => { x with land := x.land ++ mkLands x.flow.slot ls, flow := fl x.flow, issuedAt := n }) s := by
  induction ls generalizing s with
  | nil => simp [landSeq, mkLands]
  | cons l ls ih =>
    simp only [landSeq]
    split
    · rename_i h
      rw [ih]
      have e : ∀ n, mkLands n (l :: ls) = mkLands n ls := by
        intro n
        simp only [mkLands]
        rw [List.filter_cons_of_neg (by simpa using fun a => (h.resolve_left a))]
      simp only [e]
    · rw [ih, landAll, updCtx_updCtx]
      have e : ∀ n, mkLands n (l :: ls) = mkLands n [l] ++ mkLands n ls := fun n => mkLands_append n [l] ls
      simp only [e, List.append_assoc]

/-- After a slot whose body made landings. -/
theorem slotDone_landSeq {c : CtxId} {a : Adv} {ls : Lands} {s : State} (hr : (getCtx s c).st = .running)
    (hp : (getCtx s c).park = none) (hw : (getCtx s c).wait = none) : slotDone c a (landSeq c ls s) = slotResult c a ls s := by
  have x := landSeq_ctx c ls s
  rw [slotDone_running (by rw [x]; exact hr) (by rw [x]; exact hp) (by rw [x]; exact hw)]
  have e : spOf (landSeq c ls s) c = spOf s c := by simp only [spOf]; rw [x]; rfl
  have m : (landSeq c ls s).m = s.m := by
    rcases landSeq_spec c ls s with e | ⟨ms, e⟩
    · rw [e]
    · rw [e]; rfl
  have u := updCtx_landSeq c ls (fun f => advFlow f a) s.m.clock s
  simp only [slotResult, e, m, mkLands_nil, List.append_nil] at *
  rw [u]

/-! ## Issue -/

/-- What `canIssue` says. -/
theorem canIssue_spec {h : Hd} {w : BitVec 48} {s : State} (hi : canIssue h w s = true) :
    (getCtx (slotStart h.ctx s) h.ctx).st = .running ∧ (getCtx (slotStart h.ctx s) h.ctx).park = none ∧
      (getCtx (slotStart h.ctx s) h.ctx).wait = none := by
  simp only [canIssue, Bool.and_eq_true, decide_eq_true_eq, Option.isNone_iff_eq_none] at hi
  simp_all

/-- Where no record of its level stands, an instruction discards none (R251). -/
theorem twForget_none {c : CtxId} {s : State} (h : recorded (getCtx s c) = false) : twForget c s = s := by
  unfold twForget
  dsimp only
  rw [if_neg]
  simpa [recorded] using h

/-- An instruction that can issue runs its body in its slot. -/
theorem issueOut_ok {h : Hd} {w : BitVec 48} {body : X Adv} {s : State} (hi : canIssue h w s = true) :
    issueOut h w body s = .next (match body (slotStart h.ctx s) with
      | .ok a t => slotDone h.ctx a t
      | .error (.exc e) t => raiseAt h.ctx w e (slotStart h.ctx s) t
      | .error .hold _ => updCtx h.ctx (fun x => { x with invHold := true }) (slotStart h.ctx s)
      | .error .wait _ => slotStart h.ctx s) := by
  simp only [canIssue, Bool.and_eq_true, decide_eq_true_eq, Option.isNone_iff_eq_none, Bool.not_eq_true'] at hi
  obtain ⟨⟨⟨⟨⟨⟨⟨⟨⟨⟨⟨⟨⟨⟨⟨⟨⟨h1, h2⟩, h3⟩, h3b⟩, h4⟩, h5⟩, h6⟩, h7⟩, h8⟩, h8b⟩, h9⟩, h10⟩, h11⟩, h12⟩, h13⟩, h14⟩, h15⟩, h16⟩ := hi
  have f : (if iMajor w = 0x38 then twForget h.ctx (slotStart h.ctx s) else slotStart h.ctx s) = slotStart h.ctx s := by
    split
    · rename_i e
      exact twForget_none (by simpa [e] using h16)
    · rfl
  simp only [slotStart] at *
  simp only [issueOut, issue, slotRun]
  simp only [h1, h2, h3, h3b, h4, h5, h6, h8, h8b, h9, h10, h11, h12, h14, h15, f]
  simp only [Nat.not_lt.mpr h13, ne_eq, not_true_eq_false, Bool.not_true, Bool.false_eq_true, or_false, if_false, Option.isSome_none]
  all_goals cases body (applyDue h.ctx s)
  all_goals first
    | rfl
    | (rename_i e _; cases e <;> rfl)

/-- An instruction whose body makes landings and moves control. -/
theorem issueOut_lands {h : Hd} {w : BitVec 48} {body : X Adv} {s : State} {a : Adv} {ls : Lands} (hi : canIssue h w s = true)
    (hb : body (slotStart h.ctx s) = .ok a (landSeq h.ctx ls (slotStart h.ctx s))) :
    issueOut h w body s = .next (slotResult h.ctx a ls (slotStart h.ctx s)) := by
  obtain ⟨hr, hp, hw⟩ := canIssue_spec hi
  rw [issueOut_ok hi, hb]
  simp only [slotDone_landSeq hr hp hw]

end Sys2Proof.Laws
end

