-- ==== Sys2Proof/Tests/Slice0.lean ====
section
/-! SUPPORT. The model's own tests: well-formedness, decoding, the spec's worked examples, and for every statement that has hypotheses a
state and operands that meet them. -/

namespace Sys2Proof.Tests

open Sys2Proof Sys2Proof.Machine Sys2Proof.Expected

-- one theorem after another: each evaluates a whole step in the kernel
set_option Elab.async false

/-! ## Small states -/

/-- A FIX cell. -/
def fx (n : Int) : Cell := mkCell 0 tFIX (BitVec.ofInt 48 n)

/-- A cell of a type. -/
def cl (t : BitVec 6) (d : Nat) : Cell := mkCell 0 t (BitVec.ofNat 48 d)

/-- The head of an instruction of context 0. -/
def h0 : Hd := { ctx := 0 }

/-- A descriptor of segment 0 that maps its offsets to the same physical cells, for L1 and above. -/
def seg0 : DescEnt := { tag := 0, seg := 0, d0 := 0x16, d1 := 0x90A400000000, raw := true }

/-- A RUNNING context of L1. -/
def x0 : Ctx := { st := .running, level := 1, flow := { pc := 0x1000 } }

/-- The spindle of context 0, with a line in its level-1 cache. -/
def p0 : Spindle := { plyA := some 0, desc := [seg0], l1 := [(0, { valid := true, ln := 0x400, dirty := true })] }

/-- A device in RUN whose context 0 is as given, on spindle 0. -/
def dev (x : Ctx) : State :=
  { mode := .run, dram := 2 ^ 20, tb := 1000, tbRun := true, ctxs := [(0, x)], spindles := [(0, p0)]
    host := { link := .active, perst := false, trained := true }, m := { step := 0, pwr := { off := false } } }

/-- Context 0 with word registers. -/
def regs (l : SMap Cell) : State := dev { x0 with w := l }

/-- The state that a command answers. -/
def run (i : Instr) (s : State) : State :=
  match exec i s with
  | .next t => t
  | _ => s

/-- An instruction takes its slot. -/
def slot (i : Instr) (s : State) : Bool :=
  match headOf i, encodeWord i with
  | some h, some w => canIssue h w s
  | _, _ => false

/-- What `slot` says is what the statements ask. -/
theorem takes_of_slot (i : Instr) (h : Hd) (w : BitVec 48) (s : State) (a : headOf i = some h) (b : encodeWord i = some w)
    (c : slot i s = true) : Takes i h w s := by
  unfold slot at c
  rw [a, b] at c
  exact ⟨a, b, c⟩

/-- Context 0, in the slot that begins. -/
def cx (s : State) : Ctx := getCtx (slotStart 0 s) 0

/-- The spindle of context 0. -/
def sp (s : State) : Spindle := getSp s 0

/-- The result of a body that completes meets a condition. -/
def good {α : Type} (r : EStateM.Result Err State α) (f : α → State → Bool) : Bool :=
  match r with
  | .ok a t => f a t
  | _ => false

/-- An instruction takes its slot and answers a state. -/
def answers (i : Instr) (s t : State) : Bool := slot i s && decide (run i s = t)

/-- A command answers a state. -/
def does (i : Instr) (s t : State) : Bool :=
  match exec i s with
  | .next u => decide (u = t)
  | _ => false

/-! ## Encodings: words of the spec's examples and one of each format (R122 to R148) -/

theorem test_decode_examples :
    (decodeWord 7 0x018000000000 = some (.mov { ctx := 7, ginv := true } {})) ∧
    (decodeWord 7 0x083318200100 = some (.add { ctx := 7, gpred := 3 } { dst := 6, sa := 6, sb := 1, s := true })) ∧
    (decodeWord 7 0x0C0610A00003 = some (.cmplt { ctx := 7 } { pd := 3, sa := 4, sb := 5 })) ∧
    (decodeWord 7 0x18029C000000 = some (.ld { ctx := 7 } { data := 5, adr := 7, disp := 0 })) ∧
    (decodeWord 7 0x1A02AA000000 = some (.tas { ctx := 7 } { data := 5, adr := 10, disp := 0 })) ∧
    (decodeWord 7 0x202FFFFFFFFD = some (.br { ctx := 7, gpred := 2 } { disp := 0xFFFFFFFFD })) ∧
    (decodeWord 7 0x210000002200 = some (.call { ctx := 7 } { disp := 0x2200 })) ∧
    (decodeWord 7 0x808000000000 = none) := by decide +kernel

theorem test_table_has_no_bits : decodeTableWord 48 0x018000000000 = none := by decide +kernel

/-! ## Well-formedness: an ill-formed term for each check -/

theorem smoke_wellFormed :
    (wellFormed (.add h0 { dst := 6, sa := 6, sb := 1 }) = true) ∧
    (wellFormed (.mov h0 { sb := 1 }) = false) ∧
    (wellFormed (.typeof h0 { dst := 1, sa := 2, s := true }) = false) ∧
    (wellFormed (.sc h0 { data := 1, adr := 2, pd := 0, disp := 0 }) = false) ∧
    (wellFormed (.crd h0 { dst := 1, crn := 0x3C0 }) = false) ∧
    (wellFormed (.tbLoRead h0 { dst := 1, crn := 0x3C1 }) = false) ∧
    (wellFormed (.storeDrain 0 16) = false) ∧
    (wellFormed (.victimAccepted 0 (2 ^ 37)) = false) ∧
    (wellFormed (.apertureRead 0 0) = false) ∧
    (wellFormed (.apertureWrite 0x1FFFFF [1, 2]) = false) ∧
    (wellFormed (.hostRegisterAccess 1 0 8 false 0) = false) ∧
    (wellFormed (.hostRegisterAccess 0 0 0 false 0) = false) ∧
    (wellFormed (.hostRegisterAccess 0 0 4097 false 0) = false) ∧
    (wellFormed (.rcRead 4) = false) ∧
    (wellFormed (.usdoRequest 1 (.write 0x1000 0 2 [1])) = false) ∧
    (wellFormed (.usdoRequest 1 (.segRead 0)) = false) ∧
    (wellFormed (.mailboxRead 0x1000 0 0 0) = false) ∧
    (wellFormed (.mailboxWrite 0x1000 0 0 []) = false) ∧
    (wellFormed (.certchunk .can []) = false) ∧
    (wellFormed (.sectorPark 0) = false) ∧
    (wellFormed (.criticalTemperature 39) = false) ∧
    (wellFormed (.thermalTrip 39) = false) ∧
    (wellFormed (.coldLimit 39) = false) ∧
    (wellFormed (.startUp (.dram (List.replicate 12 [{ gib := 257 }]) 128)) = false) := by decide +kernel

/-! ## Cells: the spec's own example of R40 -/

theorem test_cell_example :
    (mkCell 0 tFIX 5 = 0xA201000000000005) ∧
    (verify 0xA201000000000001 = some (0xA201000000000005, true)) ∧
    (verify 0xA201000000000000 = none) ∧
    (verify 0xA601000000000005 = some (0xA201000000000005, true)) := by decide +kernel

/-! ## Witnesses: each line meets the hypotheses of one clause of the statement that the theorem's name gives, and where an answer stands in
it, the command gives the answer of the clause -/

theorem wit_StepRunsTheFrontCommand :
    (({ dev x0 with pending := [.hotReset, .clamp] } : State).pending = .hotReset :: [.clamp]) ∧
    ((dev x0).pending = [] ∧ (dev x0).hanks = [] ∧ (dev x0).m.entering = false) ∧
    (let s := updM (fun m => { m with clock := 30517 }) { (dev x0) with tbHold := true, tbRet := true }
     slowTick 30517 = 0 ∧ slowTick 30518 = 1 ∧ (idle s).tb = (dev x0).tb + 30517 ∧ (idle s).tbHold = false) := by decide +kernel

theorem wit_EveryStepKeepsMemoryCanonical :
    (Memory.wf (putCell none 0x2000 (fx 5) (dev x0)) = true ∧ (putCell none 0x2000 (fx 5) (dev x0)).mem.length = 3) := by decide +kernel

theorem wit_EncodedInstructionsDecode :
    (wellFormed (.add h0 { dst := 31, sa := 31, sb := 31, s := true }) = true) ∧
    (encodeWord (.add h0 { dst := 31, sa := 31, sb := 31, s := true }) = some 0x080FFFE00100) := by decide +kernel

theorem wit_NilAndTheFixedPredicateRead :
    (atSlot { h0 with ginv := true } (dev x0) = true ∧ encOk 0x018000000000 (slotStart 0 (dev x0)).extEn = true) ∧
    (atSlot h0 (dev x0) = true ∧ minLevel 0x010000000000 ≤ 1 ∧ encOk 0x010000000000 0 = true ∧
      flowFault (cx (dev x0)) 0x010000000000 = none ∧ resumes (cx (dev x0)) 0x010000000000 = none ∧ canIssue h0 0x010000000000 (dev x0) = true) ∧
    (pGet (cx (dev { x0 with land := [{ slot := 0, tgt := .pred 3, val := 1 }] })) 3 = true) := by decide +kernel

theorem wit_ReservedFalseAndPrivilegedInstructions :
    (atSlot { h0 with ginv := true } (dev x0) = true ∧ encOk 0x01800000000F (slotStart 0 (dev x0)).extEn = false) ∧
    (atSlot { h0 with gpred := 1 } (dev x0) = true ∧ encOk 0x011000000000 0 = true ∧ pGet (cx (dev x0)) 1 = false) ∧
    (headOf (.eret h0 {}) = some h0 ∧ atSlot h0 (dev { x0 with level := 0 }) = true ∧
      ((encodeWord (.eret h0 {})).map fun w => (encOk w 0, minLevel w)) = some (true, 1)) := by decide +kernel

theorem wit_OperandsAreCheckedInOrder :
    (slot (.add h0 { sa := 1, sb := 2 }) (regs [(1, 0), (2, fx 1)]) = true ∧ opnd (cx (regs [(1, 0), (2, fx 1)])) 1 = some 0) ∧
    (opnd (cx (regs [(1, fx 1)])) 2 = some 0 ∧ cTyp (fx 1) ≠ tUNSET) ∧
    (badCell (cl tCHAR 0xD800) = true ∧ badCell (cl 0x0F 0) = true ∧ badCell (fx 1) = false) ∧
    (dispatches tINST = true ∧ badCell (cl tINST 8) = false ∧ badCell (cl tRAW 8) = false ∧ isNum tRAW = false ∧ dispatches tRAW = false) ∧
    (slot (.and h0 { sa := 1, sb := 2 }) (regs [(1, cl tCONS 8), (2, fx 1)]) = true ∧ fixRaw tCONS = false) ∧
    (inFix (2 ^ 47 - 1 + 1) = false ∧ slot (.add h0 { sa := 1, sb := 2 }) (dev { x0 with genctl := 2, w := [(1, fx (2 ^ 47 - 1)), (2, fx 1)] }) = true) ∧
    (run (.add h0 { sa := 1, sb := 2 }) (regs [(1, 0), (2, fx 1)]) =
      deliver 0 { code := 0x10, info := 0, addr := 0x1000 } (regs [(1, 0), (2, fx 1)])) := by decide +kernel

/-- Two FIX operands at the ends of the range, and a shift of 48. -/
def arithRegs : State := regs [(1, fx (2 ^ 47 - 1)), (2, fx (-(2 ^ 47))), (3, fx 48), (4, cl tRAW 0x0F), (5, cl tCHAR 0x41), (8, fx 0x2B)]

theorem wit_InstructionsChangeOnlyTheirTargets :
    (slot (.and h0 { dst := 6, sa := 1, sb := 2 }) arithRegs = true ∧
      (alu 0 (cx arithRegs) (.and h0 { dst := 6, sa := 1, sb := 2 })).isSome = true) ∧
    ((run (.and h0 { dst := 6, sa := 1, sb := 2 }) arithRegs).skeins = []) := by decide +kernel

theorem wit_CellsCorrectOneBitAndDetectTwo :
    (mapGet false (dev x0).poisoned 0x2000 = false ∧ mapGet 0 (dev x0).arrErr 0x2000 = 0) ∧
    (verify (cellAt (putRaw 0x2000 0xA201000000000001 (dev x0)) 0x2000) = some (0xA201000000000005, true)) ∧
    (weightOf 0x1F = 5 ∧ weightOf 0x7F = 7 ∧ weightOf 0x0A = 2) := by decide +kernel

/-- Instructions that take their slot, land what a table says, and change nothing else. -/
def landsAll (tab : Instr → Option Machine.Lands) (s : State) (l : List Instr) : Bool :=
  l.all fun i => slot i s && (match tab i with
    | some ls => decide (run i s = slotResult 0 .seq ls (slotStart 0 s))
    | none => false)

theorem wit_AluInstructionsLandTheirResults :
    (landsAll (alu 0 (cx arithRegs)) arithRegs
      [.mov h0 { dst := 6, sa := 5 }, .and h0 { dst := 6, sa := 1, sb := 2, s := true }, .or h0 { dst := 6, sa := 1, sb := 4 },
       .xor h0 { dst := 6, sa := 1, sb := 4 }, .andn h0 { dst := 6, sa := 1, sb := 4 }, .not h0 { dst := 6, sa := 4 },
       .andi h0 { dst := 6, sa := 1, imm := 0x1FFFFF }, .ori h0 { dst := 6, sa := 1, imm := 1 }, .xori h0 { dst := 6, sa := 4, imm := 1 },
       .shl h0 { dst := 6, sa := 1, sb := 3, s := true }, .shr h0 { dst := 6, sa := 1, sb := 3 }, .sar h0 { dst := 6, sa := 2, sb := 3 },
       .shli h0 { dst := 6, sa := 1, imm := 47 }, .shri h0 { dst := 6, sa := 2, imm := 47 }, .sari h0 { dst := 0, sa := 2, imm := 47 },
       .typeof h0 { dst := 6, sa := 7 }, .colourof h0 { dst := 6, sa := 5 }, .datumof h0 { dst := 6, sa := 5 },
       .settype h0 { dst := 6, sa := 5, sb := 8 }, .ldi h0 { dst := 6, ty := 1, imm := 0x1FFFFFF },
       .ldih h0 { dst := 4, ty := 0, imm := 0xFFFFFF }] = true) := by decide +kernel

theorem wit_TypeTestsAcceptEveryCell :
    (opnd (cx (regs [(1, cl 0x3F 9)])) 1 = some (cl 0x3F 9) ∧ slot (.typeof h0 { dst := 2, sa := 1 }) (regs [(1, cl 0x3F 9)]) = true) ∧
    (slot (.colourof h0 { dst := 2, sa := 1 }) (dev x0) = true ∧ slot (.datumof h0 { dst := 2, sa := 1 }) (dev x0) = true) ∧
    ([Instr.ttype h0 { pd := 1, sa := 1, tcode := 0x3F }, .tptr h0 { pd := 1, sa := 1 }, .timm h0 { pd := 1, sa := 1 }, .tlist h0 { pd := 1, sa := 1 },
      .tnum h0 { pd := 1, sa := 1 }].all (fun i => slot i (regs [(1, cl 0x3F 9)])) = true) ∧
    (encodeWord (.tptr h0 { pd := 1, sa := 1, sb := 1 }) = some 0x0C0204200011) := by decide +kernel

theorem wit_FixArithmeticIsExact :
    (landsAll (fixArith (cx (dev { x0 with genctl := 0, w := arithRegs.ctxs.flatMap fun e => e.2.w })))
      (dev { x0 with genctl := 0, w := arithRegs.ctxs.flatMap fun e => e.2.w })
      [.add h0 { dst := 6, sa := 1, sb := 1, s := true }, .sub h0 { dst := 6, sa := 2, sb := 1, s := true }, .neg h0 { dst := 6, sa := 2 },
       .addi h0 { dst := 6, sa := 1, imm := 1 }, .subi h0 { dst := 6, sa := 2, imm := 0x1FFFFF, s := true },
       .mul h0 { dst := 6, sa := 1, sb := 2, s := true }, .mulh h0 { dst := 6, sa := 1, sb := 2 }] = true) := by decide +kernel

/-- The spec's cases of comparison: numbers, characters, nil, an object. -/
def cmpRegs : State := dev { x0 with
  status := 0x10, preds := 0x0F, w := [(1, fx 4), (2, fx 5), (3, cl tCHAR 0x41), (4, cl tCHAR 0x10FFFF), (5, nilCell), (6, cl tVEC 0x2000)] }

theorem wit_ComparisonsLandATruthValue :
    (landsAll (compares (cx cmpRegs)) cmpRegs
      [.eq h0 { dst := 8, sa := 6, sb := 6 }, .eql h0 { dst := 8, sa := 5, sb := 6 }, .lt h0 { dst := 8, sa := 1, sb := 2 },
       .le h0 { dst := 8, sa := 2, sb := 2 }, .gt h0 { dst := 8, sa := 3, sb := 4 }, .ge h0 { dst := 8, sa := 4, sb := 3 },
       .cmpeq h0 { pd := 1, sa := 6, sb := 6 }, .cmpne h0 { pd := 1, sa := 6, sb := 5 }, .cmpeql h0 { pd := 1, sa := 1, sb := 1 },
       .cmplt h0 { pd := 1, sa := 1, sb := 2 }, .cmple h0 { pd := 1, sa := 1, sb := 2 }, .cmpgt h0 { pd := 1, sa := 1, sb := 2 },
       .cmpge h0 { pd := 1, sa := 1, sb := 2 }, .cmpeqi h0 { pd := 1, sa := 1, imm := 4 }, .cmpnei h0 { pd := 1, sa := 6, imm := 4 },
       .cmpeqli h0 { pd := 1, sa := 1, imm := 4 }, .cmplti h0 { pd := 1, sa := 1, imm := 0xFFFFFF }, .cmplei h0 { pd := 1, sa := 1, imm := 4 },
       .cmpgti h0 { pd := 1, sa := 1, imm := 4 }, .cmpgei h0 { pd := 1, sa := 1, imm := 4 }, .ttype h0 { pd := 1, sa := 1, tcode := 1 },
       .tptr h0 { pd := 1, sa := 6 }, .timm h0 { pd := 1, sa := 3 }, .tlist h0 { pd := 1, sa := 5 }, .tnum h0 { pd := 1, sa := 1 },
       .pand h0 { pd := 1, pa := 0, pb := 2 }, .por h0 { pd := 1, pa := 4, pb := 2 }, .pxor h0 { pd := 1, pa := 1, pb := 2 },
       .pandn h0 { pd := 1, pa := 1, pb := 4 }, .pnot h0 { pd := 1, pa := 4 }, .pmov h0 { pd := 1, pa := 3 },
       .pflag h0 { pd := 1, flag := 4 }] = true) := by decide +kernel

/-- BITREFs of tiers 1 and 2. -/
def bitRegs : State := regs [(1, cl tBITREF 255), (2, cl tBITREF (2 ^ 46 + 2 ^ 21 + 0xFFFF))]

theorem wit_BitInstructionsActOnTheirBits :
    (landsAll (privBits (cx bitRegs)) bitRegs
      [.bget h0 { bitx := false, pd := 1, sa := 1 }, .bput h0 { bitx := false, pd := 0, sa := 1 }, .bset h0 { bitx := false, ib := true, bitno := 255 },
       .bclr h0 { bitx := false, ib := true, bitno := 0 }, .btas h0 { bitx := false, pd := 1, sa := 1 }] = true) ∧
    (brTier (cDat (cl tBITREF (2 ^ 46 + 2 ^ 21 + 0xFFFF))) = 1 ∧ brSkein (cDat (cl tBITREF (2 ^ 46 + 2 ^ 21 + 0xFFFF))) 0 = 0 ∧
      badBitref (cDat (cl tBITREF (2 ^ 46 + 2 ^ 21 + 0xFFFF))) = false ∧ bitGrant bitRegs (cx bitRegs) 0xFFFF = true) ∧
    (slot (.bget h0 { bitx := true, pd := 1, sa := 2 }) bitRegs = true ∧
      sbHasDev (sp bitRegs) 0 = false ∧ bit2Forward (sp bitRegs) 0 0 0xFFFF = none) ∧
    (slot (.btas h0 { bitx := true, pd := 1, sa := 2 }) bitRegs = true ∧ sbEmpty bitRegs 0 = true) ∧
    (slot (.bput h0 { bitx := true, pd := 0, sa := 2 }) bitRegs = true ∧ slot (.bset h0 { bitx := true, sa := 2 }) bitRegs = true ∧
      slot (.bclr h0 { bitx := true, sa := 2 }) bitRegs = true ∧
      (sbPutAll 0 [{ ctx := 0, sbar := 0, kind := .bit2 0 0xFFFF true }] bitRegs).1 = []) := by decide +kernel

/-- F32 1.5 and -0.5, and FIX 3. -/
def f32Regs : State := regs [(1, cl tF32 0x3FC00000), (2, cl tF32 0xBF000000), (3, fx 3)]

/-- A context that owns the f register file, with f1 = 1.0 and f2 = 2.0. -/
def fpDev : State := { (dev { x0 with ax := [(5, 0x4000)], w := [(1, fx 3)] }) with
  spindles := [(0, { p0 with fpOwner := some 0, fp := [(1, 0x3FF0000000000000), (2, 0x4000000000000000)] })] }

theorem wit_FloatingPointLandsRoundedResults :
    ([Instr.add h0 { dst := 4, sa := 1, sb := 2, s := true }, .sub h0 { dst := 4, sa := 1, sb := 3 }, .mul h0 { dst := 4, sa := 1, sb := 2 },
      .neg h0 { dst := 4, sa := 1 }, .addi h0 { dst := 4, sa := 1, imm := 1 }, .subi h0 { dst := 4, sa := 1, imm := 1 },
      .lt h0 { dst := 4, sa := 1, sb := 2 }, .le h0 { dst := 4, sa := 1, sb := 3 }, .gt h0 { dst := 4, sa := 1, sb := 2 },
      .ge h0 { dst := 4, sa := 1, sb := 2 }, .cmplt h0 { pd := 1, sa := 1, sb := 2 }, .cmple h0 { pd := 1, sa := 1, sb := 2 },
      .cmpgt h0 { pd := 1, sa := 1, sb := 2 }, .cmpge h0 { pd := 1, sa := 1, sb := 2 }, .cmplti h0 { pd := 1, sa := 1, imm := 2 },
      .cmplei h0 { pd := 1, sa := 1, imm := 2 }, .cmpgti h0 { pd := 1, sa := 1, imm := 2 }, .cmpgei h0 { pd := 1, sa := 1, imm := 2 }].all
      (fun i => slot i f32Regs && (match f32Forms (cx f32Regs) i with
        | some (ls, fl) => decide (fl &&& fpEnables (cx f32Regs) = 0 ∧ run i f32Regs = slotResult 0 .seq ls (updCtx 0 (fun x =>
            { x with fpflags := x.fpflags ||| fl }) f32Regs))
        | none => false)) = true) ∧
    (([(0x00, Instr.fadd h0 { dst := 3, sa := 1, sb := 2 }), (0x01, .fsub h0 { dst := 3, sa := 1, sb := 2 }), (0x02, .fmul h0 { dst := 3, sa := 1, sb := 2 }),
       (0x03, .fdiv h0 { dst := 3, sa := 1, sb := 2 }), (0x04, .fmin h0 { dst := 3, sa := 1, sb := 2 }), (0x05, .fmax h0 { dst := 3, sa := 1, sb := 2 }),
       (0x06, .fneg h0 { dst := 3, sa := 1 }), (0x07, .fabs h0 { dst := 3, sa := 1 }), (0x08, .fmov h0 { dst := 3, sa := 1 }),
       (0x09, .fsqrt h0 { dst := 3, sa := 1 }), (0x21, .ftof32 h0 { dst := 3, sa := 1 }), (0x22, .ftofix h0 { dst := 3, sa := 1 }),
       (0x10, .fcmp h0 { sa := 1, sb := 2, s := true }), (0x20, .ffromw h0 { dst := 3, sa := 1 })] : List (Nat × Instr)).all
      (fun e => slot e.2 fpDev && (let f : FA := if e.1 = 0x10 then { sa := 1, sb := 2, s := true } else if e.1 ≤ 5 then { dst := 3, sa := 1, sb := 2 } else { dst := 3, sa := 1 }
        good (fpCompute 0 e.1 f.dst f.sa f.sb (cellNum (if e.1 = 0x20 then fx 3 else nilCell)) fpDev) fun r t =>
          decide (t = fpDev ∧ r.flags &&& fpEnables (cx fpDev) = 0 ∧
            run e.2 fpDev = slotResult 0 .seq r.lands (updCtx 0 (fun x => { x with fpflags := x.fpflags ||| r.flags }) fpDev)))) = true) ∧
    (fpsaZero (cx fpDev) = false) := by decide +kernel

/-- A state with cells in memory from 0x2000 on, whose line is in the level-1 cache. -/
def withMem (cells : List Cell) (s : State) : State :=
  cells.zipIdx.foldl (fun s e => putCell none (paOf (0x2000 + e.2)) e.1 s) s

/-- An answer of a load: the cell lands at distance 4. -/
def loads (i : Instr) (dst : BitVec 5) (va : VAddr) (s : State) : Bool :=
  slot i s && decide (loadOf (cx s) i = some (va, dst)) && good (xLoad 0 false va s) fun r t =>
    !isBad (blockOf t 0) r.1 && decide (run i s = slotDone 0 .seq (landSeq 0 [(4, .word dst, r.1)] t))

/-- A CONS of 7 and nil, and registers that name it. -/
def consMem : State := withMem [fx 7, nilCell] (regs [(1, cl tCONS 0x2000), (2, cl tLOC 0x2001), (3, cl tRAW 0x1FFF), (4, fx 9), (5, nilCell)])

/-- A vector of 2 at 0x2000, a symbol at 0x2000, with an index. -/
def vecMem : State := withMem [cl tHDR 2, fx 10, fx 11] (regs [(1, cl tVEC 0x2000), (2, fx 1), (3, fx 12)])
def symMem : State := withMem [cl tHDR 6, nilCell, fx 10, fx 11] (regs [(1, cl tSYM 0x2000), (3, fx 12)])

/-- An answer of a load of a field. -/
def loadsField (i : Instr) (s : State) : Bool :=
  slot i s && (match fieldLoad (cx s) i with
    | some (o, off, idx, dst) => good (xHeader 0 false o s) fun hdr t => (!idx || decide (off ≤ hdrLen hdr)) && (match vAdd (cDat o) off with
      | some va => good (xLoad 0 false va t) fun r u => !isBad (blockOf u 0) r.1 &&
          decide (run i s = slotDone 0 .seq (landSeq 0 [(4, .word dst, r.1)] u))
      | none => false)
    | none => false)

theorem wit_LoadsLandTheirCell :
    (loads (.ld h0 { data := 6, adr := 3, disp := 2 }) 6 0x2001 consMem = true) ∧
    (loads (.car h0 { dst := 6, sa := 1 }) 6 0x2000 consMem = true ∧ loads (.cdr h0 { dst := 6, sa := 1 }) 6 0x2001 consMem = true) ∧
    (loads (.ldloc h0 { dst := 6, sa := 2 }) 6 0x2001 consMem = true) ∧
    (answers (.car h0 { dst := 6, sa := 5 }) consMem (slotResult 0 .seq [(4, .word 6, nilCell)] consMem) = true) ∧
    (loadsField (.vref h0 { dst := 6, sa := 1, sb := 2 }) vecMem = true) ∧
    (loadsField (.symval h0 { dst := 6, sa := 1 }) symMem = true ∧ loadsField (.symfn h0 { dst := 6, sa := 1 }) symMem = true) ∧
    (good (xHeader 0 false (cl tVEC 0x2000) vecMem) (fun hdr t => slot (.hlen h0 { dst := 6, sa := 1 }) vecMem &&
      decide (run (.hlen h0 { dst := 6, sa := 1 }) vecMem =
        slotDone 0 .seq (landSeq 0 [(4, .word 6, mkCell 0 tFIX (dat (hdrLen hdr)))] t))) = true) := by decide +kernel

/-- `Buffered`, as a test: the entries of a store find room. -/
def buffers (va : VAddr) (pa : PAddr) (mt : Nat) (v : Cell) (s : State) (f : State → Bool) : Bool :=
  let r := sbPutAll 0 (storeEnts true 0 va pa mt v s) (if mt = 0 ∨ mt = 1 then s else updCtx 0 (fun x => { x with hostFirst := false }) s)
  decide (r.1 = []) && f r.2

/-- An answer of a store. -/
def stores (i : Instr) (va : VAddr) (v : Cell) (s : State) : Bool :=
  slot i s && decide (storeOf (cx s) i = some (va, v)) && good (xlate 0 1 false va .write s) fun r t =>
    buffers va r.1 r.2 v t fun u => decide (run i s = slotDone 0 .seq u ∧ u.mem = t.mem)

/-- An answer of a store of a field. -/
def storesField (i : Instr) (s : State) : Bool :=
  slot i s && (match fieldStore (cx s) i with
    | some (o, off, idx, v) => good (xHeader 0 false o s) fun hdr t => (!idx || decide (off ≤ hdrLen hdr)) && (match vAdd (cDat o) off with
      | some va => good (xlate 0 1 false va .write t) fun r u => buffers va r.1 r.2 v u fun b => decide (run i s = slotDone 0 .seq b ∧ b.mem = u.mem)
      | none => false)
    | none => false)

theorem wit_StoresWaitInTheStoreBuffer :
    (stores (.st h0 { data := 4, adr := 3, disp := 0xFFFFFF }) 0x1FFE (fx 9) consMem = true) ∧
    (stores (.setcar h0 { sa := 1, sb := 4 }) 0x2000 (fx 9) consMem = true ∧ stores (.setcdr h0 { sa := 1, sb := 0 }) 0x2001 nilCell consMem = true) ∧
    (stores (.stloc h0 { sa := 2, sb := 4 }) 0x2001 (fx 9) consMem = true) ∧
    (storesField (.vset h0 { dst := 3, sa := 1, sb := 2 }) vecMem = true ∧ storesField (.setsymval h0 { sa := 1, sb := 3 }) symMem = true) := by decide +kernel

/-- The store changes the one cell only when it drains. -/
theorem test_store_drains :
    (cellAt (run (.storeDrain 0 0) (run (.setcar h0 { sa := 1, sb := 4 }) consMem)) 0x2000 = fx 9) ∧
    (cellAt (run (.setcar h0 { sa := 1, sb := 4 }) consMem) 0x2000 = fx 7) := by decide +kernel

/-- A frame of a load and of a store. -/
theorem wit_FramesOfLoadsAndStores :
    (good (xLoad 0 false 0x2001 consMem) (fun r t => decide (r.2 = (0x2001, 0)) && !isBad (blockOf t 0) r.1 &&
      decide (∀ a ∈ (run (.ldloc h0 { dst := 6, sa := 2 }) consMem).mem, a ∈ consMem.mem)) = true) ∧
    ((run (.stloc h0 { sa := 2, sb := 4 }) consMem).mem = consMem.mem) := by decide +kernel

/-- The context holds a reservation on the line of 0x2000. -/
def resMem : State := updCtx 0 (fun x => { x with res := some 0x400, resHold := true }) consMem

theorem wit_AtomicsUseTheReservation :
    (slot (.lr h0 { data := 6, adr := 1, disp := 0 }) consMem = true ∧ ea (cx consMem) 1 0 = some 0x2000 ∧
      good (xlateNormal 0 1 false 0x2000 .read consMem) (fun pa t => good (xNormal 0 false false 0x2000 pa t) fun v u =>
        decide ((getCtx u 0).park = none) && !isBad (blockOf u 0) v) = true) ∧
    (slot (.sc h0 { data := 4, adr := 1, pd := 1, disp := 0 }) consMem = true ∧ (getCtx consMem 0).res = none ∧
      good (xlateNormal 0 1 false 0x2000 .rw consMem) (fun pa t => answers (.sc h0 { data := 4, adr := 1, pd := 1, disp := 0 }) consMem
        (slotDone 0 .seq (landSeq 0 [(4, .pred 1, 0)] (updCtx 0 (fun x => { x with res := none, resHold := false }) t))) &&
        decide (lineOf pa = 0x400)) = true) ∧
    (slot (.sc h0 { data := 4, adr := 1, pd := 1, disp := 0 }) resMem = true ∧
      good (xlateNormal 0 1 false 0x2000 .rw resMem) (fun pa t => sbEmpty t 0 && (bringLine 0 false true 0x2000 pa t).1 &&
        decide ((getCtx (bringLine 0 false true 0x2000 pa t).2 0).res = some 0x400) &&
          (let z := landSeq 0 [(4, .pred 1, 1)] (updCtx 0 (fun x => { x with res := none, resHold := false })
            (putCell (some 0) pa (fx 9) (updCtx 0 (fun x => { x with hostFirst := true }) (bringLine 0 false true 0x2000 pa t).2)))
           let r := sbPutAll 0 ((cardKinds z 0 0x2000 pa (fx 9)).map (sbEnt 0 (getCtx z 0).sbars none)) z
           decide (r.1 = []) && answers (.sc h0 { data := 4, adr := 1, pd := 1, disp := 0 }) resMem (slotDone 0 .seq r.2))) = true) ∧
    (slot (.tas h0 { data := 6, adr := 1, disp := 0 }) consMem = true ∧
      good (xlateNormal 0 1 false 0x2000 .rw consMem) (fun pa t => sbEmpty t 0 && good (xNormal 0 false true 0x2000 pa t) fun v u =>
        let z := updCtx 0 (fun x => { x with res := none, resHold := false, hostFirst := true }) (putCell (some 0) pa tCell u)
        !isBad (blockOf z 0) v && decide (run (.tas h0 { data := 6, adr := 1, disp := 0 }) consMem =
          slotDone 0 .seq (landSeq 0 [(4, .word 6, v)] z))) = true) := by decide +kernel

/-- A context that can allocate at 0x3000. -/
def allocMem : State := dev { x0 with ax := [(0, 0x4000), (7, 0x3000)], w := [(1, fx 1), (2, nilCell), (3, cl tHDR 3), (4, fx 0x22)] }

theorem wit_AllocationsLandAPointer :
    ([false, true].all (fun imm => slot (if imm then .consI h0 { dst := 6, sa := 1, sb := 2 } else .cons h0 { dst := 6, sa := 1, sb := 2 }) allocMem &&
      good (xAlloc 0 false 2 [fx 1, nilCell] allocMem) fun p t =>
        decide (run (if imm then .consI h0 { dst := 6, sa := 1, sb := 2 } else .cons h0 { dst := 6, sa := 1, sb := 2 }) allocMem =
          slotDone 0 .seq (landSeq 0 [(4, .word 6, mkCell (if imm then 3 else goodOf t 0) tCONS p)] t))) = true) ∧
    (allocType 0x22 = true ∧ [false, true].all (fun imm =>
      slot (if imm then .allocI h0 { dst := 6, sa := 3, sb := 4 } else .alloc h0 { dst := 6, sa := 3, sb := 4 }) allocMem &&
      good (xAlloc 0 false 4 [cl tHDR 3] allocMem) fun p t =>
        decide (run (if imm then .allocI h0 { dst := 6, sa := 3, sb := 4 } else .alloc h0 { dst := 6, sa := 3, sb := 4 }) allocMem =
          slotDone 0 .seq (landSeq 0 [(4, .word 6, mkCell (if imm then 3 else goodOf t 0) 0x22 p)] t))) = true) := by decide +kernel

theorem wit_BranchesAndLoopsMoveControl :
    (answers (.br h0 { disp := 0xFFFFFFFFD }) (dev x0) (slotResult 0 (.branch 0xFFD true) [] (dev x0)) = true ∧ vAdd 0x1000 (-3) = some 0xFFD) ∧
    (answers (.jr h0 { sa := 1 }) (regs [(1, cl tCODE 0x2FFF)]) (slotResult 0 (.branch 0x3000 true) [] (regs [(1, cl tCODE 0x2FFF)])) = true) ∧
    (answers (.jr h0 { sa := 1 }) (regs [(1, cl tRAW 0x2FFF)]) (slotResult 0 (.branch 0x2FFF true) [] (regs [(1, cl tRAW 0x2FFF)])) = true) ∧
    (good (xLoopAdr 0x1000 1 (dev x0)) (fun a t => good (xLoopAdr 0x1000 4095 t) fun e u =>
      answers (.loop h0 { cnt := 0, len := 4095, icnt := 0 }) (dev x0) (slotResult 0 (.jump 4096) [] (updCtx 0 (fun x =>
        { x with flow := { x.flow with lpStart := a, lpEnd := e, lpCnt := 0 } }) u))) = true) ∧
    (slot (.loop h0 { cnt := 1, len := 1, icnt := 0 }) (regs [(1, fx (2 ^ 47 - 1))]) = true ∧ (cx (dev x0)).flow.lpCnt = 0) := by decide +kernel

/-- A stack of two cells at 0x2000, with a return address in the first, and a FUNC at 0x2002 whose CODE is at 0x2004. -/
def stackMem : State := withMem [cl tRETA 0x1203, nilCell, cl tHDR 2, cl tCODE 0x2004, cl tHDR 1]
  (dev { x0 with ax := [(1, 0x2000), (2, 0x2002)], w := [(1, cl tCODE 0x3000), (2, cl tFUNC 0x2002), (3, cl tRAW 0x2000), (31, cl tLOC 0x2000)] })

/-- The same with w31 at the end of the stack. -/
def emptyStack : State := updCtx 0 (fun x => wSet x 31 (cl tLOC 0x2002)) stackMem

/-- A call answers with the push of its return address. -/
def pushes (i : Instr) (tgt : VAddr) (r : State) : Bool :=
  slot i emptyStack && good (xStackRange 0 0x2001 r) fun _ r2 => decide (r2 = r) && good (xlateNormal 0 1 false 0x2001 .write r) fun pa t =>
    buffers 0x2001 pa 0 (mkCell 0 tRETA 0x1003) t fun u =>
      decide (run i emptyStack = slotDone 0 (.branch tgt false) (landSeq 0 [(3, .word 31, cl tLOC 0x2001)] u))

theorem wit_CallsPushAndReturnsPop :
    (pushes (.call h0 { disp := 0x2200 }) 0x3200 (slotStart 0 emptyStack) = true) ∧
    (pushes (.callr h0 { sa := 1 }) 0x3001 (slotStart 0 emptyStack) = true) ∧
    (good (xFuncEntry 0 false ((encodeWord (.fcall h0 { sa := 2 })).getD 0) (cl tFUNC 0x2002) (slotStart 0 emptyStack)) (fun tgt r =>
      pushes (.fcall h0 { sa := 2 }) tgt r && decide (tgt = 0x2005)) = true) ∧
    (slot (.ret h0 {}) stackMem = true ∧ good (xStackRange 0 0x2000 stackMem) (fun _ u => decide (u = stackMem)) = true ∧
      good (xlateNormal 0 1 false 0x2000 .read stackMem) (fun pa t => good (xNormal 0 false false 0x2000 pa t) fun r u => decide (cTyp r = tRETA) &&
        good (xlateNormal 0 1 false 0x2000 .write u) fun pw v => buffers 0x2000 pw 0 unsetCell v fun b =>
          decide (run (.ret h0 {}) stackMem = slotDone 0 (.branch 0x1203 true) (landSeq 0 [(3, .word 31, cl tLOC 0x2001)] b))) = true) ∧
    ([0, 3].all (fun sb => slot (.tcall h0 { sa := 1, sb := sb }) stackMem && good (xlateNormal 0 1 false 0x2000 .read stackMem) fun pa t =>
      good (xNormal 0 false false 0x2000 pa t) fun r u => decide (cTyp r = tRETA ∧
        run (.tcall h0 { sa := 1, sb := sb }) stackMem = slotDone 0 (.branch 0x3001 true)
          (if sb = 0 then u else landSeq 0 [(3, .word 31, cl tRAW 0x2000)] u))) = true) := by decide +kernel

/-- The landings of the spec's example that are pending after slot 30. -/
def exampleLands : List Landing :=
  [{ slot := 31, tgt := .word 8, val := fx 600 }, { slot := 31, tgt := .word 9, val := fx 0 }, { slot := 32, tgt := .status, val := 5 },
   { slot := 34, tgt := .word 5, val := 0, arrived := false }]

/-- The spec's example of an image (R278): the records that are saved after slot 30, and the parking producer's number. -/
theorem test_image_example :
    (let x : Ctx := { x0 with flow := { pc := 0x1000, slot := 31 }, land := exampleLands }
     cDat (bobbinRead 0 x 13) = 0xC00590099008 ∧ cDat (bobbinRead 0 x 14) = 0x00000000A805 ∧ precOf x = 2 ∧
       bobbinRead 0 x 17 = fx 600 ∧ bobbinRead 0 x 18 = fx 0) := by decide +kernel

/-- LDIH alters no RETA datum (R52). -/
theorem test_ldih_keeps_reta :
    (slot (.ldih h0 { dst := 1, ty := 0, imm := 5 }) (regs [(1, cl tRETA 0x1203)]) = true ∧
      (getCtx (run (.ldih h0 { dst := 1, ty := 0, imm := 5 }) (regs [(1, cl tRETA 0x1203)])) 0).land = []) := by decide +kernel

/-- An instruction of another unit is handed over. -/
def handsOver (i : Instr) (s : State) : Bool :=
  slot i s && decide ((cx s).ms.mv = false) && (match twistOp (cx s) i, encodeWord i with
    | some (a, b, dst, ls), some w =>
      let t := slotStart 0 s
      decide (run i s = slotDone 0 .seq (updCtx 0 (fun y => { y with park := some (.twist (getCtx t 0).flow) })
        (twSubmit (twReq 0 w a b dst t) (awaits 0 ls t))))
    | _, _ => false)

/-- Big integers, doubles, lists and a vector as operands. -/
def heavyRegs : State := regs [(1, cl tBIG 0x2000), (2, fx 3), (3, cl tF64 0x2010), (4, cl tCONS 0x2020), (5, nilCell), (6, cl tVEC 0x2030),
  (7, fx (2 ^ 47 - 1)), (8, fx (-(2 ^ 47)))]

theorem wit_TwistInstructionsAreHandedOver :
    ([Instr.quo h0 { dst := 9, sa := 1, sb := 2 }, .rem h0 { dst := 9, sa := 2, sb := 2 }, .mod h0 { dst := 9, sa := 2, sb := 1 },
      .memq h0 { dst := 9, sa := 2, sb := 4 }, .assq h0 { dst := 9, sa := 2, sb := 5 }, .memv h0 { dst := 9, sa := 1, sb := 4 },
      .length h0 { dst := 9, sa := 4 }, .typev h0 { dst := 9, sa := 6, sb := 2 }, .add h0 { dst := 9, sa := 1, sb := 2, s := true },
      .add h0 { dst := 9, sa := 7, sb := 2 }, .sub h0 { dst := 9, sa := 3, sb := 2 }, .mul h0 { dst := 9, sa := 7, sb := 2 },
      .neg h0 { dst := 9, sa := 8 }, .neg h0 { dst := 9, sa := 3 }, .addi h0 { dst := 9, sa := 7, imm := 1 }, .subi h0 { dst := 9, sa := 8, imm := 1 },
      .eql h0 { dst := 9, sa := 1, sb := 1 }, .lt h0 { dst := 9, sa := 1, sb := 2 }, .le h0 { dst := 9, sa := 1, sb := 2 },
      .gt h0 { dst := 9, sa := 3, sb := 2 }, .ge h0 { dst := 9, sa := 3, sb := 3 }, .cmpeql h0 { pd := 1, sa := 1, sb := 1 },
      .cmplt h0 { pd := 1, sa := 1, sb := 2 }, .cmple h0 { pd := 1, sa := 1, sb := 2 }, .cmpgt h0 { pd := 1, sa := 1, sb := 2 },
      .cmpge h0 { pd := 1, sa := 1, sb := 2 }, .cmpeqli h0 { pd := 1, sa := 1, imm := 2 }, .cmplti h0 { pd := 1, sa := 1, imm := 2 },
      .cmplei h0 { pd := 1, sa := 3, imm := 2 }, .cmpgti h0 { pd := 1, sa := 3, imm := 2 }, .cmpgei h0 { pd := 1, sa := 3, imm := 2 }].all
      (fun i => handsOver i heavyRegs) = true) := by decide +kernel

/-- A context with a descriptor address, a ticket, a scan block, two keys and a route 0. -/
def parkRegs : State := { (regs [(1, cl tRAW 0x2000), (2, fx 5), (3, fx 7), (4, cl tRAW 0x1FF), (5, cl tCONS 0x2000)]) with extEn := 1 }

/-- An instruction parks with its memory phase. -/
def parksWith (i : Instr) (s : State) : Bool :=
  slot i s && (match parkOp (cx s) i, encodeWord i with
    | some op, some w => decide (run i s = slotDone 0 .seq (updCtx 0 (fun x => { x with park := some (.mem op w x.flow) })
        (awaits 0 (opLands op) (slotStart 0 s))))
    | _, _ => false)

/-- A request waits for the carder. -/
def queues (i : Instr) (s : State) : Bool :=
  slot i s && (match cardOp (cx s) i, encodeWord i with
    | some (r, f), some w =>
      let t := awaits 0 [(6, .word f.dst), (6, .pred (f.func.extractLsb' 18 3))] (slotStart 0 s)
      decide (run i s = slotDone 0 .seq (cardAdmit (getCtx t 0).skein 32
        (updSk (getCtx t 0).skein (fun k => { k with cardHeld := k.cardHeld ++ [r] })
          (updCtx 0 (fun x => { x with park := some (.carder w x.flow) }) t))))
    | _, _ => false)

/-- A PARKED context whose RSTAT can be performed. -/
def parkedRstat : State := run (.rstat h0 { dst := 6, sa := 2, func := 0x40000 }) parkRegs

theorem wit_ParkedInstructionsAndCarderRequests :
    ([Instr.rsub h0 { dst := 6, sa := 1, func := 0x40000 }, .rstat h0 { dst := 6, sa := 2, func := 0x40000 },
      .cscan h0 { dst := 6, sa := 1, func := 0x40000 }, .extn h0 0 { dst := 6, sa := 2, sb := 3, func := 9 }].all (fun i => parksWith i parkRegs) = true) ∧
    ((getCtx parkedRstat 0).st = .parked ∧ (match (getCtx parkedRstat 0).park with
      | some (.mem op w back) => good (memArrive 0 w op (updCtx 0
          (fun y => { y with ioIdx := 0, park := none, flow := back, land := y.land.filter fun l => l.arrived }) parkedRstat)) fun a t =>
          decide ((getCtx parkedRstat 0).hostReq = none ∧ (getCtx t 0).park = none ∧ (getCtx t 0).wait = none ∧ (getCtx t 0).hostReq = none) &&
          !twBusy parkedRstat 0 && decide (run (.parkingResult 0) parkedRstat =
            resumeParked 0 (updCtx 0 (fun y => { y with ioVals := [], ioIdx := 0 }) (advance 0 a t)))
      | _ => false) = true) ∧
    ([Instr.cprobe h0 { dst := 6, sa := 2, sb := 3, func := 0x40000 }, .cdel h0 { dst := 6, sa := 2, sb := 5, func := 0x40000 },
      .cins h0 { dst := 2, sa := 2, sb := 3, func := 0x42000 }, .cins h0 { dst := 2, sa := 2, sb := 3, func := 0x40000 },
      .cprobe h0 { dst := 6, sa := 0, sb := 3, func := 0x60000 }].all (fun i => queues i parkRegs) = true) := by decide +kernel

/-- A frame table for L1 at 0x40000 with a handler at 0x5000. -/
def frameOut (x : Ctx) : State :=
  putCell none 0x40001 (cl tRAW 0x6000) (putCell none 0x40000 (cl tRAW 0x5000) { (dev x) with frames := [(1, (true, 0x40000))], annexEn := true, annexBase := 0x80000 })

/-- The same with the frame of context 0 in the skein cache. -/
def frameMem (x : Ctx) : State := frameTouch 0 0x40000 false (frameOut x)

/-- An entry whose frame is not in the skein cache parks its context, and goes on when the frame has come (R339). -/
theorem test_entry_waits_for_its_frame :
    (let s := run (.svc h0 { sa := 1 }) (frameOut { x0 with level := 0, w := [(1, fx 5)] })
     (getCtx s 0).st = .parked ∧ (getCtx s 0).level = 0 ∧ (getCtx (run (.parkingResult 0) s) 0).st = .ready ∧
       (getCtx (run (.parkingResult 0) s) 0).level = 1 ∧ (getCtx (run (.parkingResult 0) s) 0).flow.pc = 0x5000) := by decide +kernel

/-- A user context that has taken an SVC. -/
def inHandler : State := run (.svc h0 { sa := 1 }) (frameMem { x0 with level := 0, w := [(1, fx 5)] })

/-- That context with its frame written out. -/
def entered : State :=
  { (upto 24).foldl (fun s k => putCell none (paOf (0x40004 + k))
      (if k = 0 then cl tRAW 0x1001 else if k = 2 then flowCell { x0 with level := 0 } else cl tRAW 0) s) (frameMem x0) with ctxs := inHandler.ctxs }

theorem wit_ExceptionsAreTakenAndSaved :
    (slot (.svc h0 { sa := 1 }) (frameMem { x0 with level := 0, w := [(1, fx 5)] }) = true ∧ slot (.bkpt h0 {}) (dev x0) = true ∧
      firstFp (cx (dev x0)) = none) ∧
    ((enterLevel 0 1 1 { code := 0x70, info := 5, addr := 0x1000 } false (frameMem { x0 with level := 0 })).1 = true) ∧
    ((getCtx inHandler 0).level = 1 ∧ (getCtx inHandler 0).flow.pc = 0x5000 ∧ axGet (getCtx inHandler 0) 17 = 5) ∧
    ((cx (dev { x0 with stopReq := true })).stopReq = true ∧
      run (.exceptionEntry 0) (dev { x0 with stopReq := true }) = suspendCtx 0 (dev { x0 with stopReq := true })) ∧
    (bestSource (frameMem { x0 with ax := [(26, 4)] }) (cx (frameMem { x0 with ax := [(26, 4)] })) = some 2 ∧
      (run (.exceptionEntry 0) (frameMem { x0 with ax := [(26, 4)] })).ctxs = (deliverIrq 0 2 (frameMem { x0 with ax := [(26, 4)] })).ctxs) ∧
    (fileDue (dev { x0 with stopReq := true }) 0 = false ∧ (dev x0).ctxs.all (fun e => !e.2.invHold) = true) ∧
    (let s := dev { x0 with flow := { pc := 0x10000001000 }, skip := true }
     (cx s).skip = true ∧ (match fetchCheck 0 s with
      | .error (.exc _) _ => true
      | _ => false) = true) ∧
    ((match fetchCheck 0 (dev { x0 with flow := { pc := 0x10000001000 } }) with
      | .error (.exc _) _ => true
      | _ => false) = true) := by decide +kernel

theorem wit_EretRestoresTheFrame :
    (slot (.eret h0 {}) entered = true ∧ (match (eretCheck 0 nilCell entered).1 with
      | .inr (_, skip) => !skip
      | _ => false) = true) ∧
    ((getCtx (run (.eret h0 {}) entered) 0).level = 0 ∧ (getCtx (run (.eret h0 {}) entered) 0).flow.pc = 0x1001 ∧
      activeBit (axGet (getCtx (run (.eret h0 {}) entered) 0) 16) = false) ∧
    ((eretCheck 0 nilCell (dev x0)).1.getLeft? = some 1 ∧ firstFp (cx (dev x0)) = none ∧
      answers (.eret h0 {}) (dev x0) (deliver 0 { code := 0x07, info := 1, addr := 0x1000 } (eretCheck 0 nilCell (dev x0)).2) = true) := by decide +kernel

/-- What a context that registers a wait becomes. -/
def waiting (y : Wait) (s : State) : State :=
  beginWait 0 (updCtx 0 (fun x => { x with res := none, resHold := false })
    (slotResult 0 .seq [] (updCtx 0 (fun x => { x with wait := some y, wake := 0 }) s)))

/-- A tier-2 BITREF, deadlines, a target and a message. -/
def waitRegs : State := regs [(1, cl tBITREF (2 ^ 46 + 2 ^ 21)), (2, fx 5000), (3, fx 65535), (4, cl tCONS 0x2000)]

/-- A READY peer prepared on the other ply. -/
def peerDev : State := { (dev x0) with ctxs := [(0, x0), (1, { st := .ready, level := 1 })], spindles := [(0, { p0 with plyB := some 1, prepared := true })] }

theorem wit_BarriersWaitsAndMessagesComplete :
    (answers (.lbar h0 {}) (dev x0) (slotResult 0 .seq [] (dev x0)) = true) ∧
    (answers (.sbar h0 {}) (dev x0) (slotResult 0 .seq [] (updCtx 0 (fun x => { x with sbars := x.sbars + 1, hostFirst := true }) (dev x0))) = true) ∧
    (answers (.fbar h0 {}) (dev x0) (slotResult 0 .seq [] (updCtx 0 (fun x => { x with hostFirst := true }) (dev x0))) = true ∧
      sbEmpty (dev x0) 0 = true ∧ (getCtx (dev x0) 0).hostLast = none) ∧
    (answers (.waitt h0 { sa := 2 }) waitRegs (waiting { deadline := some 5000 } waitRegs) = true ∧ fpPending (cx waitRegs) = false) ∧
    (answers (.waitb h0 { sa := 1 }) waitRegs (waiting { bit := some (.t2 0 0) } waitRegs) = true) ∧
    (answers (.waitb h0 { sa := 1, sb := 2 }) waitRegs (waiting { bit := some (.t2 0 0), deadline := some 5000 } waitRegs) = true ∧
      bit2Forward (sp waitRegs) 0 0 0 = none) ∧
    (peerReady (dev x0) 0 x0 = false ∧ answers (.yield h0 {}) (dev x0) (slotResult 0 .seq [] (dev x0)) = true) ∧
    (peerReady peerDev 0 x0 = true ∧ answers (.yield h0 {}) peerDev
      (slotDone 0 .seq (makeReady 0 (offPly 0 peerDev))) = true) ∧
    (answers (.send h0 { sa := 3, sb := 4 }) waitRegs
      (slotDone 0 .seq (sendPost 0 0xFFFF (cl tCONS 0x2000) (updCtx 0 (fun x => { x with sendst := 7 }) waitRegs))) = true ∧
      (cx waitRegs).sendWait = [] ∧ (cx waitRegs).sendst ≠ 7 ∧ sbEmpty waitRegs 0 = true) := by decide +kernel

theorem wit_ControlRegistersReadAndWrite :
    ([0x000, 0x003, 0x100, 0x3FF].all (fun n => (crLevels n).isSome) = true ∧ crLevels 0x058 = some (0, 0)) ∧
    (answers (.crd h0 { dst := 6, crn := 0x058 }) (dev x0)
      (slotDone 0 .seq (crReadEffect 0 0x058 (landSeq 0 [(2, .word 6, fx 16777216)] (dev x0)))) = true) ∧
    (answers (.tbLoRead h0 { dst := 6, crn := 0x3C0 }) (dev x0)
      (slotDone 0 .seq (crReadEffect 0 0x3C0 (landSeq 0 [(2, .word 6, fx 1000)] (dev x0)))) = true) ∧
    (answers (.cwr h0 { sa := 1, crn := 0x058 }) (regs [(1, fx 9)]) (slotResult 0 .seq [(3, .creg 0x058, crCell 0x058 (fx 9))] (regs [(1, fx 9)])) = true ∧
      crGrant (dev x0) x0 0x058 9 = none) := by decide +kernel

theorem wit_CacheInstructionsAct :
    (ea (cx consMem) 1 0 = some 0x2000 ∧ slot (.zline h0 { adr := 1, disp := 0 }) consMem = true ∧
      good (xlateNormal 0 1 false 0x2000 .write consMem) (fun pa u =>
        let b := sbPutAll 0 [{ ctx := 0, sbar := 0, kind := .zline 0x400 }] u
        decide (pa = 0x2000 ∧ b.1 = [] ∧ run (.zline h0 { adr := 1, disp := 0 }) consMem = slotDone 0 .seq b.2)) = true) ∧
    (slot (.clean h0 { adr := 1, disp := 0 }) consMem = true ∧ slot (.flush h0 { adr := 1, disp := 0 }) consMem = true ∧
      good (xlate 0 1 false 0x2000 .read consMem) (fun r u => decide (r = (0x2000, 0) ∧ (getSk u 0).held = [] ∧ (getSk u 0).dstate = 0)) = true) ∧
    ((match prefXlate 0 1 0x2000 consMem with
      | (some pa, u) => answers (.pref h0 { adr := 1, disp := 0 }) consMem (slotDone 0 .seq (prefFill 0 (lineOf pa) u))
      | _ => false) = true) ∧
    ((match prefXlate 0 1 0x10000002000 (regs [(1, cl tRAW 0x10000002000)]) with
      | (none, u) => answers (.pref h0 { adr := 1, disp := 0 }) (regs [(1, cl tRAW 0x10000002000)]) (slotDone 0 .seq u)
      | _ => false) = true) ∧
    (adrOk (fx 9) = false ∧ answers (.pref h0 { adr := 1, disp := 0 }) (regs [(1, fx 9)]) (slotResult 0 .seq [] (regs [(1, fx 9)])) = true) ∧
    ([1, 3].all (fun n => answers (.inval h0 { sb := 2 }) (regs [(2, fx n)]) (slotDone 0 .seq (doInval 0 none (decide (n = 3)) (regs [(2, fx n)])))) = true) ∧
    (good (xlate 0 1 false 0x2000 .read (regs [(1, cl tCONS 0x2000), (2, fx 0)])) (fun r u =>
      decide (r.2 = 0) && answers (.inval h0 { sa := 1, sb := 2 }) (regs [(1, cl tCONS 0x2000), (2, fx 0)])
        (slotDone 0 .seq (doInval 0 (some (lineOf r.1)) false u))) = true) ∧
    (good (xlate 0 1 false 0x2000 .read (regs [(1, cl tCONS 0x2000), (2, fx 2)])) (fun r _ =>
      decide (r.2 = 0) && slot (.inval h0 { sa := 1, sb := 2 }) (regs [(1, cl tCONS 0x2000), (2, fx 2)]) &&
        decide ((getSp (regs []) 0).ibusy = [])) = true) := by decide +kernel

/-- A page of tag 0 at linear page 5 and frame 9, executable, and an operand of each TLB instruction. -/
def tlbRegs : State := regs [(1, cl tRAW 5), (2, cl tRAW 0x820000000009), (3, cl tRAW 0x020000000009), (4, fx 0), (5, fx 2)]

/-- The same with the page in both TLBs, locked in the ITLB. -/
def tlbDev : State :=
  { tlbRegs with spindles := [(0, { p0 with dtlb := [(0, { e0 := 5, e1 := 0x820000000009 })], itlb := [(0, { e0 := 5, e1 := 0x820000000009, locked := true })] })] }

/-- A broadcast of context 0 that spindle 0 has not acknowledged, or that all have. -/
def bcDev (todo : List SpId) : State := { tlbDev with bcasts := [{ ctx := 0, gen := 0, sk := 0, op := .page 5 true, todo := todo }] }

/-- Spindle 0 with a broadcast INVAL that others have not applied. -/
def ibDev (l : List SpId) : State := { (dev x0) with spindles := [(0, { p0 with ibusy := l })] }

theorem wit_TlbInstructionsAndBroadcastsAct :
    (pair (cx tlbRegs) { sa := 1, sb := 2 } tRAW tRAW = some (5, 0x820000000009) ∧ entBad 5 0x820000000009 = false ∧
      slot (.tlbw h0 { sa := 1, sb := 2 }) tlbRegs = true ∧ pageGranted tlbRegs (cx tlbRegs) 0x820000000009 = true ∧
      slot (.tlblk h0 { sa := 1, sb := 2 }) tlbRegs = true ∧ ((sp tlbRegs).itlb.filter fun i => i.2.locked).length < 16 ∧
      slot (.tlbw h0 { sa := 1, sb := 2 }) tlbDev = true ∧ slot (.tlblk h0 { sa := 1, sb := 2 }) tlbDev = true) ∧
    ((run (.tlbw h0 { sa := 1, sb := 2 }) tlbRegs |> (getSp · 0)).dtlb = [(0, { e0 := 5, e1 := 0x820000000009 })] ∧
      ((run (.tlblk h0 { sa := 1, sb := 2 }) tlbRegs |> (getSp · 0)).itlb.map fun e => e.2) = [{ e0 := 5, e1 := 0x820000000009, locked := true }]) ∧
    (pair (cx tlbDev) { sa := 1, sb := 3 } tRAW tRAW = some (5, 0x020000000009) ∧ entBad 5 0x020000000009 = false ∧
      slot (.tlbw h0 { sa := 1, sb := 3 }) tlbDev = true ∧ slot (.tlblk h0 { sa := 1, sb := 3 }) tlbDev = true ∧
      (getSp (run (.tlbw h0 { sa := 1, sb := 3 }) tlbDev) 0).dtlb = [] ∧ (getSp (run (.tlblk h0 { sa := 1, sb := 3 }) tlbDev) 0).itlb = []) ∧
    (pair (cx tlbDev) { sa := 1, sb := 4 } tRAW tFIX = some (5, 0) ∧
      answers (.tlbinv h0 { sa := 1, sb := 4 }) tlbDev (slotDone 0 .seq (doShoot 0 (.page 5 false) false tlbDev)) = true ∧
      pair (cx tlbDev) { sa := 1, sb := 5 } tRAW tFIX = some (5, 2) ∧ (axGet (cx tlbDev) 30).getLsbD 47 = false ∧
      slot (.tlbinv h0 { sa := 1, sb := 5 }) tlbDev = true) ∧
    (pair (cx tlbDev) { sa := 4, sb := 4 } tFIX tFIX = some (0, 0) ∧
      answers (.tlbinvs h0 { sa := 4, sb := 4 }) tlbDev (slotDone 0 .seq (doShoot 0 (.space (0, 0) false false) false tlbDev)) = true ∧
      pair (cx tlbDev) { sa := 4, sb := 5 } tFIX tFIX = some (0, 2) ∧ slot (.tlbinvs h0 { sa := 4, sb := 5 }) tlbDev = true) ∧
    (answers (.tlbrd h0 { dst := 6, sa := 1 }) tlbDev (slotResult 0 .seq [(4, .word 6, mkCell 0 tRAW 0x820000000009)] tlbDev) = true ∧
      answers (.tlbrd h0 { dst := 6, sa := 1 }) tlbRegs (slotResult 0 .seq [(4, .word 6, unsetCell)] tlbRegs) = true) ∧
    ((bcDev [0]).bcasts.find? (fun b => decide (b.ctx = 0) && b.todo.contains 0) ≠ none ∧ (getSp (bcDev [0]) 0).sb = [] ∧
      does (.shootdown 0 0) (bcDev [0]) { (updSp 0 (invApply (.page 5 true)) (bcDev [0])) with bcasts := (bcDev []).bcasts } = true) ∧
    ((bcDev []).bcasts.find? (fun b => decide (b.ctx = 0) && b.todo.isEmpty) ≠ none ∧
      (axGet (getCtx (run (.shootdownComplete 0) (bcDev [])) 0) 30).getLsbD 47 = false ∧ (run (.shootdownComplete 0) (bcDev [])).bcasts = []) ∧
    (does (.shootdownComplete 0) { (bcDev []) with ctxs := [(0, { x0 with gen := 1 })] } { (bcDev []) with ctxs := [(0, { x0 with gen := 1 })], bcasts := [] } = true) ∧
    ((getSp (ibDev [1, 2]) 0).ibusy.contains 1 = true ∧ (getSp (run (.invalBroadcast 0 1) (ibDev [1, 2])) 0).ibusy = [2] ∧
      (getSp (run (.invalBroadcast 0 1) (ibDev [1])) 0).ibusy = [] ∧ (getSp (ibDev [1]) 0).ibCtx = none) := by decide +kernel

/-- A context parked on an EXTN to endpoint 2. -/
def extPark : State :=
  let s := dev { x0 with st := .parked, park := some (.mem (.extn 2 (fx 1) (fx 2) 0x1FFFFF 6) 0 x0.flow) }
  { s with host := { s.host with bme := true } }

/-- A context that waits for reply 7. -/
def extWait : State :=
  { (dev { x0 with st := .parked, park := some (.ext 7 0 x0.flow), land := [{ slot := 1, tgt := .word 6, val := 0, arrived := false }] }) with
    extOut := [{ seq := 7, gen := 3, ctx := 0, cgen := 0, n := 2, func := 0, cella := fx 1, cellb := fx 2, hv := false, hank := 0, due := 2000 }] }

theorem wit_ExtensionMessagesAreSentAndAnswered :
    ((getCtx extPark 0).park = some (.mem (.extn 2 (fx 1) (fx 2) 0x1FFFFF 6) 0 x0.flow) ∧ sbEmpty extPark 0 = true ∧ linkUp extPark = true ∧
      (run (.extensionMessageSend 0) extPark).extSeq = 1 ∧ (run (.extensionMessageSend 0) extPark).host.out.length = 1) ∧
    (served extWait = true ∧ (extWait.extOut.find? fun m => m.seq = 7).isSome = true ∧ cTyp (sealCell (fx 9)) = tFIX ∧
      isBad (blockOf (reach hostSector 0 { extWait with extOut := [] }) 0) (sealCell (fx 9)) = false ∧
      does (.extreply 7 3 0 (fx 9)) extWait (resumeParked 0 (deliverBy 0 (fun t => match t with
        | .word _ => some (sealCell (fx 9))
        | _ => none) (reach hostSector 0 { extWait with extOut := [] }))) = true) ∧
    ((extWait.extOut.find? fun m => m.seq = 8) = none ∧ (extWait.extGone.find? fun m => m.1 = 8) = none ∧ mapGet 0 (run (.extreply 8 3 0 (fx 9)) extWait).counters 0x16 = 1) ∧
    (does (.extensionTimeout 7) extWait extWait = true ∧
      does (.extensionTimeout 7) { extWait with tb := 2000 }
        (parkFault 0 x0.flow { code := 0x3A, info := 7 } { extWait with tb := 2000, extOut := [] }) = true ∧
      (getCtx (run (.extensionTimeout 7) { extWait with tb := 2000 }) 0).pendExc.isSome = true) ∧
    (let s : State := { extWait with extOut := [], extGone := [(7, 3, 2)], hanks := [(2, { gen := 4 })] }
     (s.extOut.find? fun m => m.seq = 7) = none ∧ (s.extGone.find? fun m => m.1 = 7) = some (7, 3, 2) ∧
       (getHank (run (.extreply 7 3 0 (fx 9)) s) 2).stalecnt = 1) ∧
    (mapGet 0 (run (.extreply 7 3 0 (fx 9)) { extWait with tb := 2000 }).counters 0x16 = 1) := by decide +kernel

/-- A READY context of spindle 0. -/
def rd0 : Ctx := { st := .ready, level := 1 }

/-- Context 1, READY, with an empty ply beside context 0; prepared on it, and with a priority. -/
def plyDev (x y : Ctx) (p : Spindle) : State := { (dev x0) with ctxs := [(0, x), (1, y)], spindles := [(0, p)] }

theorem wit_PliesSwitchAndWaitingContextsWake :
    (let s := plyDev x0 rd0 p0
     issuing s = true ∧ outOfService s 0 = false ∧ (bestReady s (readyOff s 0)).isSome = true ∧ idleCtx (getSp s 0) = none ∧ (getSk s 0).parked = false ∧
       does (.plyPrepare 0 none) s (updSp 0 (fun p => { p with plyB := some 1, prepared := true }) s) = true) ∧
    (let s := plyDev rd0 rd0 { p0 with plyA := none, plyB := some 1, prepared := true }
     readyPrepared s 0 = some 1 ∧ issuingCtx (getSp s 0) = none ∧ (getCtx (run (.switchIn 0) s) 1).st = .running ∧
       (getSp (run (.switchIn 0) s) 0).issB = true) ∧
    (let s := plyDev rd0 { rd0 with readySeq := 5 } p0
     readyPrepared s 0 = none ∧ issuingCtx (getSp s 0) = some 0 ∧ (readyOff s 0).all (fun e => outranks s (getCtx s 0) e.2) = true ∧
       (getSp s 0).rst = none ∧ (getCtx (run (.switchIn 0) s) 0).st = .running ∧ keptFirst (plyDev x0 rd0 p0) 0 rd0 = false) ∧
    (let s := plyDev { rd0 with st := .parked } rd0 { p0 with plyB := some 1, prepared := true }
     readyPrepared s 0 = some 1 ∧ issuingCtx (getSp s 0) = some 0 ∧ (getCtx (run (.switchIn 0) s) 1).st = .running ∧
       (getSp (run (.switchIn 0) s) 0).plyA = none) ∧
    (let s := plyDev x0 { rd0 with prio := 1 } { p0 with plyB := some 1, prepared := true }
     readyPrepared s 0 = some 1 ∧ issuingCtx (getSp s 0) = some 0 ∧ heldByFlip s x0 = false ∧ fpPending x0 = false ∧ effPrio s { rd0 with prio := 1 } = 1 ∧
       (getCtx (run (.switchIn 0) s) 1).st = .running ∧ (getCtx (run (.switchIn 0) s) 0).st = .ready) ∧
    (let s := plyDev x0 rd0 { p0 with plyB := some 1, prepared := true, quantum := 4096 }
     effPrio s rd0 = 0 ∧ s.quantum = 4096 ∧ readyPrepared s 0 = some 1 ∧ (getCtx (run (.quantumExpiry 0) s) 0).st = .ready) ∧
    (let s := plyDev x0 { rd0 with st := .suspended } { p0 with quantum := 4096 }
     (readyOn s 0) = [] ∧ idleCtx (getSp s 0) = none ∧ (getSp (run (.quantumExpiry 0) s) 0).quantum = 0) ∧
    (let s := updM (fun m => { m with clock := 1000000 }) (plyDev x0 rd0 p0)
     (getCtx s 1).st = .ready ∧ s.starve = 1000 ∧ (getCtx s 1).issuedAt + 1000 * 1000 ≤ s.m.clock ∧ (getCtx (run (.starvation 1) s) 1).boost = true) ∧
    (let s : State := { (dev x0) with ctxs := [(0, x0), (1, { rd0 with readySeq := 5 }), (2, { rd0 with readySeq := 4, pin := 1 })] }
     readyOn s 1 = [] ∧ outOfService s 1 = false ∧ busiest s 0 = some 0 ∧ (getCtx (run (.stealing 1) s) 2).lspin = 1 ∧
       (getCtx (run (.stealing 1) s) 1).lspin = 0) ∧
    (let s := plyDev x0 { rd0 with st := .waiting, wait := some { deadline := some 1000 } } p0
     passed s 1000 = true ∧ (getCtx s 1).wait = some { bit := none, deadline := some 1000 } ∧
       (getCtx (run (.deadlinePasses 1) s) 1).wake = 2 ∧ (getCtx (run (.deadlinePasses 1) s) 1).st = .ready) := by decide +kernel

/-- Skein 0 much hotter than the others, with thermal migration enabled. -/
def hotDev : State :=
  let s := plyDev x0 rd0 p0
  { s with m := { s.m with pwr := { s.m.pwr with doms := [(0, { temp := 8 * 100 })] } } }

/-- The throttle point depends on the order code of the part. -/
theorem hotDev_throttles : (getDom hotDev 0).temp ≥ 8 * (((objGet hotDev 0x2103 1).setWidth 8 : BitVec 8).toInt - 10) := by
  have h : objGet hotDev 0x2103 1 = 0 ^^^ (if Config.orderX then 100 else 90) := rfl
  rw [h]
  cases Config.orderX <;> decide

theorem wit_MovesInstallAndSendsAreAcknowledged :
    (let x : Ctx := { rd0 with st := .moving, movedFrom := .suspended, toSkein := 3, toLspin := 2, migSrc := some (.host, 0) }
     (getCtx (run (.migrationInstall 1) (plyDev x0 x p0)) 1).skein = 3 ∧ (getCtx (run (.migrationInstall 1) (plyDev x0 x p0)) 1).st = .suspended ∧
       (run (.migrationInstall 1) (plyDev x0 x p0)).hctxres ≠ 0 ∧ x.heldItems = [] ∧ spAllowed (plyDev x0 x p0) false 0 ((3 : SkId) ++ (2 : BitVec 4)) = true ∧
       outOfService (plyDev x0 x p0) ((3 : SkId) ++ (2 : BitVec 4)) = false) ∧
    (let x : Ctx := { rd0 with st := .moving, movedFrom := .suspended, toSkein := 3 }
     (getCtx (run (.migrationInstall 1) (plyDev x0 x p0)) 1).skein = 3) ∧
    (hottest hotDev = 0 ∧ coolest hotDev = some 1 ∧ migTarget hotDev = some 1 ∧ hotDev.m.pwr.tmigAt ≤ hotDev.m.clock ∧ (objGet hotDev 0x2104 1).getLsbD 2 = true ∧
      (getDom hotDev 0).temp - (getDom hotDev 1).temp > 8 * ((objGet hotDev 0x2104 4).toNat : Int) ∧
      canMove hotDev 1 false = true ∧ (getCtx hotDev 1).mig = none ∧ anySpindle hotDev 1 false 0 = some 0) ∧
    (let x : Ctx := { x0 with sendOut := some (some 3), sendst := 7 }
     (getCtx (run (.sendAcknowledged 0) (dev x)) 0).sendst = 3 ∧ (getCtx (run (.sendAcknowledged 0) (dev x)) 0).senderr = true) ∧
    (let x : Ctx := { x0 with st := .waiting, wait := some {}, sendWait := [(1, fx 5)] }
     sbEmpty (dev x) 0 = true ∧ (getCtx (run (.sendAcknowledged 0) (dev x)) 0).st = .ready ∧
       (getCtx (run (.sendAcknowledged 0) (dev x)) 0).sendOut = some (some 1)) ∧
    (let x : Ctx := { x0 with sendWait := [(1, fx 5), (1, fx 6)] }
     sbEmpty (dev x) 0 = true ∧ (getCtx (run (.sendAcknowledged 0) (dev x)) 0).sendWait = [(1, fx 6)]) := by decide +kernel

/-- Context 0 issues commands about context 1. -/
def cmdDev (y : Ctx) : State := { (plyDev x0 y p0) with annexEn := true, annexBase := 0x1000 }

/-- A context command of context 0, or of the host, about context 1. -/
def cm : CtxCmd := { src := .ctx 0, ctx := 1 }
def hm : CtxCmd := { src := .host, ctx := 1 }

theorem wit_ContextCommandsActOnTheirTarget :
    (commands cm (cmdDev {}) = true ∧ b2n cm.lvl ≤ cmdLevel (cmdDev {}) cm.src ∧ slotsUsed (cmdDev {}) (spSk (homeSp 1)) < 2048 ∧
      outOfService (cmdDev {}) (homeSp 1) = false ∧ freeSlot (cmdDev {}) 0 = 1) ∧
    (commands hm (cmdDev {}) = true) ∧
    (commands cm (cmdDev rd0) = true ∧ (getCtx (run (.destroy cm) (cmdDev rd0)) 1).st = .free) ∧
    ((getCtx (run (.suspend hm) (cmdDev rd0)) 1).st = .suspended ∧ fpPending rd0 = false) ∧
    (let y : Ctx := { rd0 with st := .suspended, suspFrom := .ready }
     commands cm (cmdDev y) = true ∧ (axGet y 27).getLsbD 46 = false ∧ (getCtx (run (.resume cm) (cmdDev y)) 1).st = .ready) ∧
    (let m : CtxCmd := { cm with tlspin := 5 }
     migrateTo m (cmdDev rd0) = (0, some (0, 5)) ∧ canMove (cmdDev rd0) 1 true = true ∧ (getCtx (cmdDev rd0) 1).mig = none ∧
      (getCtx (run (.migrate m) (cmdDev rd0)) 1).lspin = 5) ∧
    ((getCtx (run (.setprio { cm with prio := 7 }) (cmdDev rd0)) 1).prio = 7) ∧
    (let y : Ctx := { rd0 with st := .waiting, wait := some {} }
     commands cm (cmdDev y) = true ∧ (getCtx (run (.wake cm) (cmdDev y)) 1).wake = 6) ∧
    (does (.query hm) (cmdDev rd0) (reported hm (cmdDev rd0) 0 (hear (srcSector (cmdDev rd0) hm.src) 1 (cmdDev rd0))) = true) := by decide +kernel

theorem wit_InterruptsAndDoorbellsReachContexts :
    (served (cmdDev rd0) = true ∧ (getCtx (run (.doorbell 1) (cmdDev rd0)) 1).db = true ∧ axGet (getCtx (run (.hirq 1) (cmdDev rd0)) 1) 26 = 4) ∧
    (exists_ 0 (cmdDev rd0) = true ∧ sbEmpty (cmdDev rd0) 0 = true ∧ hankOfNum (cmdDev rd0) 1 = none ∧
      axGet (getCtx (run (.ipisend 0 1) (cmdDev rd0)) 1) 26 = 2) ∧
    (let s : State := { (cmdDev rd0) with spindles := [(0, { p0 with sb := [{ ctx := 0, sbar := 0, kind := .zline 1 }] })] }
     sbEmpty s 0 = false ∧ (getCtx (run (.ipisend 0 1) s) 0).ipiOut = [1]) ∧
    (axGet (getCtx (run (.ipendWrite 0 0xFF00) (cmdDev rd0)) 0) 26 = 0x7F ∧
      (axGet (getCtx (run (.xctlWrite 0 0) (cmdDev rd0)) 0) 25).getLsbD 0 = false ∧
      (axGet (getCtx (run (.xctlWrite 0 0x2000000) (cmdDev rd0)) 0) 25).getLsbD 25 = true) := by decide +kernel

/-- No context exists. -/
def freeDev : State := { (dev x0) with ctxs := [], spindles := [] }

theorem wit_TableBasesAndSpecialRegisters :
    (served freeDev = true ∧ allFree freeDev = true ∧ (run (.annexbaseWrite 0x80000000000010FF) freeDev).annexBase = 0x10FF ∧
      does (.colbaseWrite 0x8000000000001000) freeDev { freeDev with colEn := true, colBase := 0x1000 } = true) ∧
    (allFree (dev x0) = false ∧ mapGet 0 (run (.annexbaseWrite 1) (dev x0)).counters 0x2A = 1 ∧ mapGet 0 (run (.colbaseWrite 1) (dev x0)).counters 0x2A = 1) ∧
    ((freeDev.hanks.all fun h => h.2.state = 0) = true ∧ (run (.hfpbaseWrite 0x8000000000000020) freeDev).hfpEn = true) ∧
    (let s : State := { freeDev with hanks := [(1, { state := 1 })] }
     (s.hanks.all fun h => h.2.state = 0) = false ∧ mapGet 0 (run (.hfpbaseWrite 0) s).counters 0x2A = 1) ∧
    (exists_ 0 (dev x0) = true ∧ axGet (getCtx (run (.fpsaWrite 0 0xFFFFFFFFFFFF) (dev x0)) 0) 5 = 0xFFFFFFFFE0) ∧
    (let s : State := { (dev { x0 with ax := [(5, 0x2000)] }) with spindles := [(0, { p0 with fpOwner := some 0, fpWritten := true, fp := [(0, 1)] })] }
     fpsaZero (getCtx s 0) = false ∧ (getCtx s 0).park = none ∧ (getCtx (run (.spill 0) s) 0).fpSaved = true ∧ (getSp (run (.spill 0) s) 0).sb.length = 4) ∧
    ((getCtx (run (.discard 0) (dev { x0 with ms := { mv := true } })) 0).ms = {}) ∧
    (axGet (getCtx (run (.spaceWrite 0 0xFFFFFFFFFFFF) (dev x0)) 0) 28 = 0xFFF07FFFFFFF) ∧
    (let s : State := { (dev { x0 with hv := true, hank := 1 }) with hanks := [(1, { state := 1, cur := { taglo := 1, taghi := 2 } })] }
     exists_ 0 s = true ∧ (getCtx s 0).st = .running ∧ crGrant s (getCtx s 0) 0x200 0x3000000000 = some 3 ∧
       (getCtx s 0).level = 1 ∧ (run (.spaceWrite 0 0x3000000000) s).ctxs = (deliver 0 { code := 0x5C, info := 3, addr := 0x1000 } s).ctxs ∧
       (crGrant s (getCtx s 0) 0x203 (2 ^ 42)).isSome = true) ∧
    (does (.hptcfgWrite 0 0x123) (dev x0) (setAx 0 31 (hptNorm 0x123) (dev x0)) = true) ∧
    ((getCtx (run (.inbbaseWrite 0 0x300000002000) (dev { x0 with inbHead := 5 })) 0).inbHead = 0) := by decide +kernel

theorem wit_FrameTablesAreSetOnlyWhileFree :
    (served freeDev = true ∧ allFree freeDev = true ∧ (run (.xframeWrite 0 0x8000000000001000) freeDev).frames = [(1, (true, 0x1000))] ∧
      (run (.xframeWrite 3 0x8000000000001000) freeDev).frames = [(4, (true, 0x1000))]) ∧
    (served (dev x0) = true ∧ allFree (dev x0) = false ∧ (run (.xframeWrite 3 0x8000000000001000) (dev x0)).frames = [] ∧
      mapGet 0 (run (.xframeWrite 3 0x8000000000001000) (dev x0)).counters 0x2A = 1) ∧
    ((run (.hostRegisterAccess 0 0x5048 8 false 0) { freeDev with frames := [(4, (true, 0x1000))] }).host.ans = .data 0x8000000000001000 ∧
      (run (.hostRegisterAccess 0 0x5050 8 false 0) freeDev).host.ans = .data 0) ∧
    ((getCtx (dev x0) 0).st ≠ .free ∧ (getCtx (dev x0) 0).hv = false ∧ axGet (getCtx (run (.hirq 0) (dev x0)) 0) 26 = 4) := by decide +kernel

/-- A request of context 0 to a twist unit. -/
def tw0 : TwReq := { ctx := 0, gen := 0, level := 1, addr := 0x1000, major := 0, minor := 0, sa := fx 1, sb := fx 2, dst := 6, enc := 0 }

/-- Skein 0 in a state, beside a context. -/
def skDev (x : Ctx) (k : Skein) : State := { (dev x) with skeins := [(0, k)] }

/-- A context parked on its twist request. -/
def tp : Ctx := { x0 with st := .parked, park := some (.twist x0.flow) }

/-- Unit 0 in a state, started on a request. -/
def unitDev (x : Ctx) (u : TUnit) (q : List TwReq) : State := skDev x { units := [(0, { u with req := some tw0, started := true })], twq := q }

/-- The same at micro-address 0x2000, where the patch RAM holds a word. -/
def wordDev (w : BitVec 144) (x : Ctx) (u : TUnit) (q : List TwReq) : State := { (unitDev x { u with upc := 0x2000 } q) with patch := [(0, w)] }

/-- A plain word that is a safe point, whose literal goes to t1, and whose NEXT is 0x2001. -/
def litWord : BitVec 144 := BitVec.ofNat 144 (2 ^ 118 + 2 ^ 130 + 2 ^ 143 + 2 ^ 99 * 3 + 2 ^ 33 + 2 ^ 34 + 2 ^ 38 * 77)

/-- The parity bits of a word, from the bits above them. -/
def withParity (w : BitVec 144) : BitVec 144 :=
  match (upto 256).find? fun i => parityOk (w ||| BitVec.ofNat 144 i) with
  | some i => w ||| BitVec.ofNat 144 i
  | none => w

theorem wit_TwistUnitsStartYieldAndTrap :
    (let s := skDev tp { twq := [tw0] }
     (getUnit s 0 0).req = none ∧ (getUnit s 0 0).off = false ∧ s.m.entering = false ∧ s.mode ≠ .sleep ∧ tw0.cont = false ∧
       (getUnit (run (.twistStart 0 0 0x123) s) 0 0).upc = 0x123 ∧ (getUnit (run (.twistStart 0 0 0x123) s) 0 0).t = [(0, fx 1), (1, fx 2)]) ∧
    (let s := skDev { tp with ms := { mv := true, kind := 4, req := some tw0 } } { twOvf := [0] }
     (getSk s 0).twq.length < 64 ∧ (getCtx s 0).deferred = none ∧ (getSk (run (.overflowAdmission 0) s) 0).twq = [tw0] ∧
       (getSk (run (.overflowAdmission 0) s) 0).twOvf = []) ∧
    (let s : State := { (wordDev (withParity (2 ^ 118)) { tp with ax := [(3, 16777216), (25, 0x5555FB), (26, 4)] } {} []) with frames := [(1, (true, 0x4000))] }
     atSafePoint 0 0 0 tw0 s = true ∧ (getCtx s 0).ms.mv = false ∧ trapKind s 0 (getUnit s 0 0) tw0 = some 0 ∧
       (getCtx (run (.microTrap 0 0 0) s) 0).ms.kind = 0 ∧ (getUnit (run (.microTrap 0 0 0) s) 0 0).req = none) ∧
    (let s := wordDev (withParity (2 ^ 118)) tp { sinceStart := 4096 } [tw0]
     atSafePoint 0 0 0 tw0 s = true ∧ trapKind s 0 (getUnit s 0 0) tw0 = some 2 ∧
       (getCtx (run (.twistYield 0 0 0) s) 0).ms.kind = 2) := by decide +kernel

theorem wit_MicrowordsExecute :
    (let w := withParity litWord
     let s := wordDev w tp {} []
     executes 0 0 0 tw0 s = true ∧ plainWord w = true ∧ isWalk tw0 = false ∧ (getUnit s 0 0).restore = none ∧
       (getUnit (run (.microword 0 0 0) s) 0 0).upc = 0x2001 ∧ tGet (getUnit (run (.microword 0 0 0) s) 0 0) 1 = fx 77) ∧
    (let w := withParity (litWord - 2 ^ 118)
     let s := wordDev w tp { sinceSafe := 255 } []
     executes 0 0 0 tw0 s = true ∧ plainWord w = true ∧ good (runWord 0 0 tw0 w s) (fun e t => e.isNone && does (.microword 0 0 0) s t) = true) ∧
    (let w := withParity (BitVec.ofNat 144 (2 ^ 130 + 2 ^ 143 + 2 ^ 99 * 3 + 2 ^ 29 * 3 + 2 ^ 13 * 0x10))
     let s := wordDev w tp {} []
     executes 0 0 0 tw0 s = true ∧ good (runWord 0 0 tw0 w s) (fun e _ => e.isSome) = true) ∧
    (parityOk 1 = false ∧ upcOk 0x2000 = true ∧ (getUnit (run (.microword 0 0 1) (wordDev 0 tp {} [])) 0 0).retry = true ∧
      (getUnit (run (.microword 0 0 0) (wordDev 1 tp {} [])) 0 0).retry = true ∧
      does (.microword 0 0 1) (wordDev 0 tp { retry := true } []) (microFault 0 0 tw0 (wordDev 0 tp { retry := true } [])) = true) := by decide +kernel

/-- Cells of memory, each RAW or another cell. -/
def inMem (l : List (Nat × Cell)) (s : State) : State := l.foldl (fun s e => putCell none (paOf e.1) e.2 s) s

/-- The collector block of tag 0: good colour `g`, segment 1 the heap of two regions of 4,096 cells, granules of 8. -/
def blk (g : Nat) : ColBlock :=
  { sc0 := dat (2 ^ 47 + 2 ^ 40 * g + 2 ^ 36), sc1 := dat (2 ^ 40 + 2 ^ 32 + 2 ^ 27 * 12 + 2 ^ 22 + 2 ^ 18 * 3 + 2 ^ 14 * 6), sc2 := 0x9008, sc3 := 0x9100
    sc4 := dat (2 ^ 44 * 6 + 0xA000) }

/-- The block in memory, at table address 0x8000. -/
def blkMem (g : Nat) : List (Nat × Cell) :=
  [(0x8000, rawCell (blk g).sc0), (0x8001, rawCell (blk g).sc1), (0x8002, rawCell (blk g).sc2), (0x8003, rawCell (blk g).sc3), (0x8004, rawCell (blk g).sc4)] ++
    (upto 11).map fun i => (0x8005 + i, rawCell 0)

/-- Segments 0 and 1, mapped to the same physical cells. -/
def p1 : Spindle := { p0 with desc := [seg0, { seg0 with seg := 1 }] }

/-- A collected space: its block, an evacuating region whose first granule is pending. -/
def colDev (x : Ctx) (k : Skein) (g : Nat) : State :=
  inMem (blkMem g ++ [(0x9008, rawCell (dat (2 ^ 46 + 0x9200))), (0x9200, rawCell (dat (2 ^ 40 + 0x1000 + 2)))])
    { (skDev x { k with blocks := [(0, blk g)] }) with spindles := [(0, p1)], colEn := true, colBase := 0x8000 }

/-- Unit 0 on the slow path of a cell. -/
def slowDev (v : Cell) (w : Bool) : State :=
  colDev { tp with land := [{ slot := 1, tgt := .word 6, val := 0, arrived := false }] } { units := [(0, { req := some { tw0 with kind := .slow v none }, gwait := w })] } 1

/-- A CONS pointer of colour 0, outside the heap and into the evacuating region. -/
def ptrOut : Cell := cl tCONS 0x2000
def ptrIn : Cell := cl tCONS 0x10000000004

/-- A context that waits for a HOST request. -/
def hostWait : State :=
  dev { x0 with st := .parked, park := some (.mem (.load 0x2000 6 false) 0 x0.flow), hostReq := some (0x2000, 0x8000002000), hostSent := true }

/-- A fill held at skein 0. -/
def heldDev : State := skDev x0 { held := [{ idx := 3, ln := 0x500, victim := 0x600, asks := [.unit], st := .excl, age := 1 }] }

theorem wit_SlowPathsAndCompletionsGoOn :
    (isBad (blockOf (slowDev ptrOut false) 0) ptrOut = true ∧ twHeld (slowDev ptrOut false) tw0 = false ∧
      good (slowClaim 0 tw0 ptrOut none (slowDev ptrOut false)) (fun p t => p.isNone && good (xSlow 0 0 1 0 ptrOut none t) fun y _ => decide (y = mkCell 1 tCONS 0x2000)) = true) ∧
    (good (slowClaim 0 tw0 ptrIn none (slowDev ptrIn false)) (fun p t => decide (p.map (·.ent) = some 0x9200) && decide (rlSt (cDat (cellAt t 0x9200)) = 2)) = true ∧
      (getUnit (run (.loadBarrierSlowPath 0 0) (slowDev ptrIn false)) 0 0).claim.map (·.ent) = some 0x9200) ∧
    ((let s := updUnit 0 0 (fun z => { z with started := true }) (run (.loadBarrierSlowPath 0 0) (slowDev ptrIn false))
      match (getUnit s 0 0).claim with
      | some cl => good (xTable 0 0 1 cl.ent s) fun e t1 => good (xCopy 0 0 0 ptrIn cl.src cl.srcP cl.ent cl.dstP e t1) fun d t2 =>
          good (xRecolour 0 0 0 ptrIn none cl.field d t2) fun _ _ => true
      | none => false) = true) ∧
    ((getUnit (slowDev ptrOut true) 0 0).gwait = true ∧ (getUnit (run (.granuleWait 0 0) (slowDev ptrOut true)) 0 0).req = none ∧
      (getCtx (run (.granuleWait 0 0) (slowDev ptrOut true)) 0).land = [{ slot := 1, tgt := .word 6, val := mkCell 1 tCONS 0x2000 }]) ∧
    ((getUnit (slowDev ptrIn true) 0 0).gwait = true ∧ (getUnit (run (.granuleWait 0 0) (slowDev ptrIn true)) 0 0).claim.map (·.ent) = some 0x9200) ∧
    ((getUnit (slowDev ptrOut false) 0 0).gwait = false ∧ (getUnit (slowDev ptrOut true) 0 0).fault = none ∧
      (getUnit (slowDev ptrOut true) 0 0).restore = none ∧ (getUnit (slowDev ptrOut true) 0 0).claim = none ∧
      does (.granuleWait 0 0) (slowDev ptrOut false) (slowDev ptrOut false) = true) ∧
    ((getCtx hostWait 0).hostReq = some (0x2000, 0x8000002000) ∧ verify (fx 5) = some (fx 5, false) ∧
      does (.hostCompletion 0 (.success (fx 5))) hostWait (hostNext (parkRun 0 (updCtx 0 (fun x =>
        { x with hostReq := none, hostSent := false, ioVals := x.ioVals ++ [{ va := 0x2000, pa := 0x8000002000, mt := 2, v := fx 5 }] })
        (reach hostSector 0 hostWait)))) = true) ∧
    (verify (sealCell (fx 5) ^^^ 3) = none ∧ mapGet 0 (run (.hostCompletion 0 (.success (sealCell (fx 5) ^^^ 3))) hostWait).counters 0x0F = 1) ∧
    (parksForFbar (getCtx hostWait 0) = false ∧ mapGet 0 (run (.completionTimeout 0) hostWait).counters 0x18 = 1) ∧
    (let s := updCtx 0 (fun x => { x with hostDue := 2 ^ 40 }) hostWait
     s.m.clock < (getCtx s 0).hostDue ∧ does (.completionTimeout 0) s s = true) ∧
    (let s : State := { heldDev with wq := [(chanOf 0x600, (upto 64))] }
     (mapGet [] s.wq (chanOf 0x600)).length = 64 ∧ does (.victimAccepted 0 0x500) s s = true) ∧
    (((getSk heldDev 0).held.find? fun h => h.ln = 0x500).isSome = true ∧ (mapGet [] heldDev.wq (chanOf 0x600)).length < 64 ∧ (getSk (run (.victimAccepted 0 0x500) heldDev) 0).held = []) ∧
    (let s := skDev tp { held := [{ idx := 3, ln := 0x500, victim := 0x600, asks := [.load 0 0], st := .excl, age := 1 }] }
     (getSk (run (.victimAccepted 0 0x500) s) 0).held = []) := by decide +kernel

/-- Spindle 0 with store-buffer entries of context 0. -/
def sbDev (x : Ctx) (l : List SbKind) : State := { (dev x) with spindles := [(0, { p0 with sb := l.map fun k => { ctx := 0, sbar := 0, kind := k } })] }

/-- A full share of entries of context 0. -/
def sbFull : State := sbDev { tp with park := some (.stores [{ ctx := 0, sbar := 0, kind := .zline 9 }]) } ((upto 8).map fun i => .zline i)

theorem wit_StoresBecomeVisibleAndBuffersDrain :
    (let s := sbDev x0 [.line 0x400 [(0x2000, fx 7)]]
     sbMayDrain s 0 0 = true ∧ (drainOwn 0 0 0x400 none s).1 = true ∧ cellAt (run (.storeDrain 0 0) s) 0x2000 = fx 7 ∧
       (getSp (run (.storeDrain 0 0) s) 0).sb = []) ∧
    (let s := sbDev x0 [.zline 0x400]
     sbMayDrain s 0 0 = true ∧ (drainOwn 0 0 0x400 none s).1 = true ∧ (getSp (run (.storeDrain 0 0) s) 0).sb = []) ∧
    (let s := sbDev x0 [.bit2 3 5 true]
     sbMayDrain s 0 0 = true ∧ bit2Get (run (.storeDrain 0 0) s) 3 5 = true) ∧
    (let s := sbDev x0 [.line 0x400 [(0x2000, fx 7)], .line 0x400 [(0x2001, fx 7)]]
     sbMayDrain s 0 1 = false ∧ does (.storeDrain 0 1) s s = true ∧ (getSp s 0).sb[2]? = none ∧ does (.storeDrain 0 2) s s = true) ∧
    (let s := sbDev { tp with park := some (.stores [{ ctx := 0, sbar := 0, kind := .zline 9 }]) } []
     (sbPutAll 0 [{ ctx := 0, sbar := 0, kind := .zline 9 }] s).1 = [] ∧ (getCtx (run (.storeBufferEntryFree 0) s) 0).st = .ready) ∧
    ((sbPutAll 0 [{ ctx := 0, sbar := 0, kind := .zline 9 }] sbFull).1 = [{ ctx := 0, sbar := 0, kind := .zline 9 }] ∧
      (getCtx (run (.storeBufferEntryFree 0) sbFull) 0).park = (getCtx sbFull 0).park) ∧
    ((getCtx (run (.reservationRelease 0) (dev { x0 with resHold := true })) 0).resHold = false) := by decide +kernel

theorem wit_CachesArePoweredDisabledAndScrubbed :
    (wayDown 0 (dev x0) = some 15 ∧ (getSk (dev x0) 0).held.any (fun h => h.idx = 15) = false ∧ (getSk (run (.wayPowerDown 0) (dev x0)) 0).pwrOff = 0x8000) ∧
    ((getSk (run (.wayPowerUp 0 15) (skDev x0 { pwrOff := 0x8000 })) 0).pwrOff = 0) ∧
    (served (dev x0) = true ∧ (getSk (dev x0) 0).dstate = 0 ∧ (getSk (run (.disSet 0 0xFF) (dev x0)) 0).dis = true ∧
      (getSk (run (.disSet 0 0xFF) (dev x0)) 0).hmask = 0xFF) ∧
    ((getSk (run (.disClear 0 0xFFFF) (skDev x0 { dis := true, dstate := 2 })) 0).dis = false ∧
      (getSk (run (.disClear 0 0xFFFF) (skDev x0 { dis := true, dstate := 2 })) 0).dstate = 3) ∧
    ((getSk (run (.disSet 0 0xFF) (dev x0)) 0).dstate = 1 ∧ (getSk (skPhase 0 (run (.disSet 0 0xFF) (dev x0))) 0).dstate = 2 ∧
      (getSk (skPhase 0 (skDev x0 { dstate := 3 })) 0).dstate = 0) ∧
    ((upto 8).all (fun i => decide (mapGet 0 (dev x0).arrErr (paOf i).toNat = 0 ∧ verify (cellAt (dev x0) (paOf i)) = some (0, false))) = true ∧
      (run (.scrubLine [] 0) (dev x0)).m.scrub = 1) ∧
    ((run (.scrubLine [] 0) { (dev x0) with m := { (dev x0).m with scrub := 131071 } }).m.scrub = 0) ∧
    (mapGet 0 (run (.scrubLine [(0, 0), (1, 0)] 0) (dev x0)).counters 0x0C = 1 ∧
      mapGet false (run (.scrubLine [(0, 0), (1, 0)] 0) (dev x0)).poisoned 7 = true) := by decide +kernel

/-- Collector commands of the host and of context 0. -/
def hc : ColCmd := { src := .host, setmk := true, mark := true, rset := 2, tag := 0 }
def xc : ColCmd := { src := .ctx 0, tag := 0 }

theorem wit_CollectorCommandsInstallTheirBlock :
    (colOk 2 hc (colDev x0 {} 1) = true ∧ colOk 2 xc (colDev x0 {} 1) = true ∧ colOk 1 hc (colDev x0 {} 2) = true ∧ colOk 1 xc (colDev x0 {} 2) = true) ∧
    (cbMark (mapGet {} (getSk (run (.update hc) (colDev x0 {} 1)) 31).blocks 0) = true ∧
      cbGood (mapGet {} (getSk (run (.flip hc) (colDev x0 {} 2)) 31).blocks 0) = 0 ∧ (run (.flip hc) (colDev x0 {} 2)).flips.length = 1) ∧
    (let bad : ColCmd := { hc with rset := 1, rclr := 1 }
     colCheck 2 bad (dev x0) = 3 ∧ colCheck 2 hc (dev x0) = 4 ∧ served (dev x0) = true ∧
       (run (.update bad) (dev x0)).hcolres.extractLsb' 44 4 = 3) ∧
    (let s : State := { (colDev x0 {} 1) with flips := [{ tag := 0, gen := 0, src := .host, start := 0 }], hcolres := 0xF00000000000 }
     (s.flips.find? fun f => f.tag = 0).isSome = true ∧ (rootPass 0 s).1 = false ∧ bits (colRes s .host).toNat 44 4 = 0xF ∧
       (run (.flipRelease 0) s).flips = [] ∧ (run (.flipRelease 0) s).hcolres.extractLsb' 44 4 = 0) ∧
    (let s : State := { (colDev x0 {} 1) with flips := [{ tag := 0, gen := 0, src := .host, start := 0 }], hcolres := 0x500000000007 }
     bits (colRes s .host).toNat 44 4 ≠ 0xF ∧ (rootPass 0 s).1 = false ∧ (run (.flipRelease 0) s).hcolres.extractLsb' 44 4 = 5) := by decide +kernel

/-- A reel descriptor of context 0: region 0 of the heap, one granule. -/
def rd : ReelDesc :=
  { ticket := 5, pa := 0xB000, ctx := 0, gen := 0, tag := 0, hv := false, hank := 0, space := 0, pkr := 0, hpt := 0, rd0 := 0x100000000000, rd1 := 0x10000000000
    rd2 := 0x400000, rd3 := 0, next := 0, copied := 0 }

/-- A request to the carder of skein 0, and an entry that it holds. -/
def cr (op : COp) : CReq := { ctx := 0, gen := 0, hv := false, hank := 0, lspin := 0, op := op, k0 := fx 1, k1 := fx 2, wa := false, wb := false, v := fx 3 }
def ce : CEnt := { k0 := fx 1, k1 := fx 2, val := fx 9, meta_ := metaCell false false false 0 1 0 }

theorem wit_ReelsAndCardersServe :
    (let s := skDev x0 { reelQ := [rd] }
     issuing s = true ∧ mapGet [] (getSk s 0).reels 1 = [] ∧ reelNext (getSk s 0) = some rd ∧ (getSk (run (.evac 0 1) s) 0).reels = [(1, [rd])]) ∧
    (let d : ReelDesc := { rd with next := 1, copied := 1 }
     let s := skDev x0 { reels := [(0, [d])] }
     issuing s = true ∧ rdCount d ≤ d.next ∧ (getSk (run (.evac 0 0) s) 0).reels = [] ∧ ((getSk (run (.evac 0 0) s) 0).reelDone.map (·.1)) = [5]) ∧
    (let cl : Claim := { ent := 0x9200, src := 0x10000000000, srcP := 0, dstP := 0x1000 }
     let d : ReelDesc := { rd with claim := some cl }
     let s := colDev x0 { reels := [(0, [d])] } 1
     rdFwdm d = false ∧ 2 ^ cbGsh (blockAt s 0 0) = 8 ∧
       good (asSubmitter d (xTable 0 0 3 0x9200) s) (fun e v => good (asSubmitter d (do
         xGranule 0 0 3 8 0 0x1000 0x9200
         if rdFwdm d then xUnitLine 0 0 0 true 3
         pure ()) v) fun _ t => good (asSubmitter d (copied d 0 0 8 e cl) t) fun i _ => i.isNone) = true ∧
       (mapGet [] (getSk (run (.evac 0 0) s) 0).reels 0).map (·.copied) = [1]) ∧
    (let s := skDev x0 { card := [(0, ce), (1, { ce with meta_ := metaCell false false false 64 1 0 })] }
     served s = true ∧ (getSk (run (.clr0 0) s) 0).card.length = 1) ∧
    (let s := skDev x0 { cardQ := [cr .probe] }
     cWinner 0 (fx 1) (fx 2) false false (getSk s 0).card = none ∧ (getSk (run (.carderAccept 0) s) 0).cardQ = []) ∧
    (let s := skDev x0 { cardQ := [cr .probe], card := [(4, ce)] }
     cWinner 0 (fx 1) (fx 2) false false (getSk s 0).card = some (4, ce) ∧ cVerify ce = some ce ∧
       (mapGet {} (getSk (run (.carderAccept 0) s) 0).card 4 : CEnt) = withAge ce 0) ∧
    (let s := skDev x0 { cardQ := [cr .ins], card := [(0, { ce with k0 := fx 7 })] }
     cSame 0 (fx 1) (fx 2) false false (getSk s 0).card = none ∧ cardHeldBy (getSk s 0) 0 < (cardMode s (getSk s 0) false 0).2 ∧
       cFreeEntry (getSk s 0).card = some 1 ∧ ((getSk (run (.carderAccept 0) s) 0).card.map (·.1)) = [0, 1]) ∧
    (let s := skDev x0 { cardQ := [cr .del], card := [(4, ce)] }
     cSame 0 (fx 1) (fx 2) false false (getSk s 0).card = some (4, ce) ∧ (getSk (run (.carderAccept 0) s) 0).card = []) := by decide +kernel

/-- Hank 1 with these registers, on a device whose link may carry requests; window entry 0 is the spec's: host cell 0x8000000000 is bus address 0x400000000. -/
def hankDev (k : Hank) : State :=
  let s := dev x0
  { s with hanks := [(1, k)], host := { s.host with bme := true, wins := [(0, { base := 0x400000, en := true, limit := 0xFFFFFF })] } }

/-- A configuration without a spindle or a queue, with its windows at their lowest place. -/
def cfg0 : HankCfg := { hwbase := 0x8000000000, hwlim := 0x8000001000 }

/-- Hank 1 in a state of its own. -/
def hk (st : BitVec 4) : Hank := { state := st, stg := cfg0, cur := cfg0, gen := 7 }

theorem wit_HankCommandsBegin :
    (hankFree 1 (hankDev (hk 0)) = true ∧ hankCheck true 1 (hankDev (hk 0)) = 0 ∧ (getHank (run (.hankCreate 1) (hankDev (hk 0))) 1).state = 1) ∧
    (let s := hankDev { hk 0 with stg := { cfg0 with reelq := 33 } }
     hankCheck true 1 s = 3 ∧ (getHank (run (.hankCreate 1) s) 1).result = 3) ∧
    (hankFree 1 (hankDev (hk 1)) = true ∧ hankCheck false 1 (hankDev (hk 1)) = 0 ∧ hankCheck false 1 (hankDev (hk 2)) = 0) ∧
    ((getHank (run (.pause 1) (hankDev (hk 1))) 1).state = 2 ∧ (getHank (run (.hankResume 1) (hankDev (hk 2))) 1).state = 1) ∧
    ((getHank (run (.hankReset 1) (hankDev (hk 2))) 1).gen = 8 ∧ (getHank (run (.remove 1) (hankDev (hk 1))) 1).gen = 8) ∧
    ((getHank (run (.hankCreate 1) (hankDev (hk 4))) 1).result = 1 ∧ (getHank (run (.pause 1) (hankDev (hk 2))) 1).result = 1 ∧
      (getHank (run (.hankResume 1) (hankDev (hk 1))) 1).result = 1 ∧ (getHank (run (.commit 1) (hankDev (hk 0))) 1).result = 1) := by decide +kernel

/-- A running hank with queues of 16 entries. -/
def qk : Hank :=
  { hk 1 with cur := { cfg0 with sqs := 4, sqbase := 0x8000000100, cqs := 4, cqbase := 0x8000000200, dlim := [(0, 0x200000)] }, sqtail := 1 }

theorem wit_HankQueuesRun :
    (pageOk 1 0x000700000000FFFF (hankDev qk) = true ∧ (getHank (run (.sqtail 1 0x000700000000FFFF) (hankDev qk)) 1).sqtail = 15 ∧
      (getHank (run (.cqhead 1 0x0007000000000010) (hankDev qk)) 1).cqhead = 0) ∧
    (let s : State := { (hankDev qk) with ctxs := [(0, x0), (5, { rd0 with hv := true, hank := 1 })] }
     (getCtx s 5).hank = 1 ∧ (getCtx (run (.guestDoorbell 1 0x0007000000000005) s) 5).db = true ∧
       axGet (getCtx (run (.guestInterrupt 1 0x0007000000000005) s) 5) 26 = 4) ∧
    (served (hankDev qk) = true ∧ (getHank (run (.sqtail 1 0x0006000000000000) (hankDev qk)) 1).stalecnt = 1) ∧
    ((getHank (hankDev qk) 1).sbusy = false ∧ linkUp (hankDev qk) = true ∧ (getHank (run (.sync 1) (hankDev qk)) 1).sbusy = true) ∧
    (let s := hankDev { qk with sync := .out 9, sbusy := true }
     flushOut (getHank s 1).flush = false ∧ (getHank s 1).pend = 0 ∧ (getHank (run (.syncComplete 1) s) 1).sbusy = false ∧ does (.sync 1) s s = true) ∧
    (let s := hankDev { qk with flush := .out (2 ^ 40), pend := 3, result := 0xF }
     flushOut (getHank s 1).sync = false ∧ (getHank (run (.syncComplete 1) s) 1).state = 2 ∧ (getHank (run (.syncComplete 1) s) 1).result = 0) ∧
    (let s := hankDev { qk with cmds := [{ gen := 7, cid := 9, op := 4, arg0 := 0, arg1 := 0, arg2 := 0, stat := 0, done := 0 }] }
     mayFetch s 1 = true ∧ (getHank (run (.submissionFetch 1 0x0007000905000000 0 0 0) s) 1).cmds.length = 2 ∧
       (getHank (run (.submissionFetch 1 0x0007000905000000 0 0 0) (hankDev qk)) 1).cmds = [] ∧
       (getHank (run (.submissionFetch 1 0x0007000905000000 0 0 0) (hankDev qk)) 1).cqtail = 1) ∧
    (2 ≤ maxRead (hankDev qk) ∧ (upto 2).all (fun j => decide (busAddr (hankDev qk) (paOf (0x8000000300 + j)) = some (0x400001800 + BitVec.ofNat 64 (8 * j)))) = true) ∧
    (mayFetch (hankDev qk) 1 = true ∧ busAddr (hankDev qk) 0x8000000100 = some 0x400000800 ∧
      (entryStatus 1 { gen := 7, cid := 9, op := 4, arg0 := 0, arg1 := 0, arg2 := 0, stat := 0, done := 0 } (hankDev qk)).1 = 0 ∧
      (getHank (run (.submissionFetch 1 0x0007000904000000 0 0 0) (hankDev qk)) 1).cmds.length = 1) ∧
    (let s := hankDev { qk with cmds := [{ gen := 7, cid := 9, op := 1, arg0 := 0x2000, arg1 := 0x8000000300, arg2 := 2, stat := 0, done := 0 }] }
     (cmdAt s 1 0 1).isSome = true ∧ linkDead s = false ∧ (readCells 1 0x2000 0x8000000300 2 0 ([], 0, false) false s).1 = 2 ∧
       (readCells 1 0x2000 0x8000000300 2 0 ([], 0, false) false s).2.1 = false ∧ (getHank (run (.read 1 0) s) 1).cmds = []) ∧
    (let s := hankDev { qk with cmds := [{ gen := 7, cid := 9, op := 2, arg0 := 0x2000, arg1 := 0x8000000300, arg2 := 2, stat := 0, done := 0 }] }
     (cmdAt s 1 0 2).isSome = true ∧ busAddr s 0x8000000300 = some 0x400001800 ∧ (busAddr s 0x8000000301).isSome = true ∧
       cellAt (run (.write 1 0 [fx 5, fx 6] true) s) 0x2001 = fx 6) ∧
    (let s := hankDev { qk with cmds := [{ gen := 7, cid := 9, op := 3, arg0 := 0x800000000001, arg1 := 0, arg2 := 0, stat := 0, done := 0 }] }
     (cmdAt s 1 0 3).isSome = true ∧ bits (getHank s 1).res.toNat 44 4 ≠ 0xF ∧ (getHank (run (.submissionCtxcmd 1 0) s) 1).cmds = []) ∧
    (let s := hankDev { qk with cmds := [{ gen := 7, cid := 9, op := 4, arg0 := 0, arg1 := 0, arg2 := 0, stat := 0, done := 0 }] }
     (cmdAt s 1 0 4).isSome = true ∧ (getHank (run (.fence 1) s) 1).cmds = []) := by decide +kernel

/-- The link in a state. -/
def linkDev (l : LinkSt) : State := { (dev x0) with host := { link := l, perst := false, trained := true } }

theorem wit_TheLinkChangesItsState :
    ((∀ e ∈ (dev x0).ctxs, e.2.hostReq = none) ∧ (linkReset (dev x0)).host.link = .down) ∧
    ((linkDev .down).host.perst = false ∧ (run .linkTraining (linkDev .down)).host.link = .active ∧ (linkDev .down).mode ≠ .bringup) ∧
    ((run (.linkRecovery true) (linkDev .active)).host.link = .recovery ∧ (run (.linkRecovery false) (linkDev .recovery)).host.link = .active) ∧
    ((run (.busMasterEnable true) (linkDev .active)).host.bme = true) ∧
    ((run (.perstN false) (linkDev .active)).host.perst = true) := by decide +kernel

theorem wit_RegistersAndApertureAreReadAndWritten :
    (served (dev x0) = true ∧ (plainBar0 0x4000 5 (dev x0)).isSome = true ∧ (plainBar0 0x9A00 0xFFFFFFFFFF (dev x0)).isSome = true ∧
      (run (.registerWrite (.bar0 0x9A00) 0xFFFFFFFFFF) (dev x0)).host.aperture = 0x3FFFFF ∧
      (run (.registerWrite (.bar0 0x9880) 5) (dev x0)).host.extTmo = 100) ∧
    (exists_ 0 (dev x0) = true ∧ crLevels 0x058 = some (0, 0) ∧ crGrant (dev x0) (getCtx (dev x0) 0) 0x058 9 = none ∧
      does (.registerWrite (.cr 0 0x058) 9) (dev x0) (crLand 0 0x058 9 (dev x0)) = true) ∧
    (let s := dev { x0 with hv := true, hank := 1 }
     exists_ 0 s = true ∧ crLevels 0x048 = some (0, 1) ∧ (getCtx s 0).st = .running ∧ crGrant s (getCtx s 0) 0x048 64 = some 64) ∧
    ((run (.registerWrite .cfgTimeout 0x3A) (dev x0)).host.cto = 0xA ∧ (run (.registerWrite (.cfg 0x88) 0x3A) (dev x0)).host.cto = 0xA ∧
      (run (.hostRegisterAccess 7 0x88 4 false 0) (dev x0)).host.ans = .data 0) ∧
    (mapGet 0 (run (.hostRegisterAccess 0 0x9890 24 true 5) (dev x0)).counters 0x16 = 1 ∧
      does (.hostRegisterAccess 0 0x4000 9 true 5) (dev x0) (dev x0) = true) ∧
    ((run (.rcRead 0x8018) (skDev x0 { ucnt := 3 })).host.ans = .data 3 ∧ (getSk (run (.rcRead 0x8018) (skDev x0 { ucnt := 3 })) 0).ucnt = 0 ∧
      (getSk (run (.rcRead 0x83F8) { (dev x0) with skeins := [(31, { ucnt := 3 })] }) 31).ucnt = 0) ∧
    ((run (.hostRegisterAccess 0 0x0000 8 false 0) (dev x0)).host.ans = .data 0) ∧
    (let s := dev x0
     apCell s 0x10000 = 0x2000 ∧ cellAt (run (.apertureWrite 0x10000 [1, 2, 3, 4, 5, 6, 7, 8]) s) 0x2000 = sealCell 0x0807060504030201 ∧
       (run (.apertureRead 0x10000 8) s).host.ans = .cells [0, 0, 0, 0, 0, 0, 0, 0] false) ∧
    (let s : State := { (dev x0) with dram := 0x2000 }
     s.dram ≤ apCell s 0x10000 ∧ does (.apertureWrite 0x10000 [1, 2, 3, 4, 5, 6, 7, 8]) s s = true ∧ (run (.apertureRead 0x10000 8) s).host.ans = .unsupported) ∧
    (let s : State := { (dev x0) with dram := 0x2001 }
     apCell s 0x10000 < s.dram) := by decide +kernel

/-- The CAN port in a state, with sessions. -/
def canDev (n : Nmt) (l : List Usdo) : State :=
  let s := dev x0
  { s with m := { s.m with nmt := n, canNode := 64, usdo := l } }

/-- A read session and a write session. -/
def uR : Usdo := { id := 1, idx := 0x1008, sub := 0, write := false, len := 3, data := [1, 2, 3] }
def uW : Usdo := { id := 2, idx := 0x2800, sub := 0x0A, write := true, len := 2, data := [1] }

theorem wit_CanAndMailboxRequestsAreServed :
    (usdoServed 1 (canDev .oper []) = true ∧ usdoServed 1 (canDev .preOp [uR, uW, { uR with id := 3 }, { uR with id := 4 }]) = true) ∧
    ((dictRead 0x1017 0 none (canDev .oper [])).1 = { abort := 0, data := [0xE8, 0x03] } ∧
      (run (.usdoRequest 1 (.read 0x1017 0)) (canDev .oper [])).m.canAns.data = [0xE8, 0x03]) ∧
    (8 < (dictRead 0x1008 0 none (canDev .oper [])).1.data.length ∨ (dictRead 0x1008 0 none (canDev .oper [])).1.data.length ≤ 8) ∧
    (dictWrite .can 0x1017 0 [0xF4, 0x01] true (usdoDrop 1 (canDev .oper [])) |>.1) = 0 ∧
    ((run (.usdoRequest 1 (.write 0x2800 0x0A 32 [1])) (canDev .oper [])).m.usdo.length = 1) ∧
    (let s := canDev .oper [uR, uW, { uR with id := 3 }, { uR with id := 4 }]
     4 ≤ s.m.usdo.length ∧ usdoFind s 9 = none ∧ (run (.usdoRequest 9 (.read 0x1017 0)) s).m.canAns.abort = 0x05040005) ∧
    (let s := canDev .oper [uR]
     (usdoFind s 1).isSome = true ∧ (run (.usdoRequest 1 (.segRead 3)) s).m.usdo = [] ∧ (run (.usdoRequest 1 (.segRead 2)) s).m.canAns.data = [1, 2]) ∧
    (let s := canDev .oper [uW]
     (usdoFind s 2).isSome = true ∧ (uW.data ++ [7]).length = uW.len ∧ (run (.usdoRequest 2 (.segWrite [7] true)) s).m.usdo = [] ∧
       ((run (.usdoRequest 2 (.segWrite [7] false)) s).m.usdo.map (·.data)) = [[1, 7]]) ∧
    ((run (.usdoSessionTimeout 1) (canDev .oper [uR])).m.canAns.abort = 0x05040000) ∧
    (let s := dev x0
     mailboxUp s = true ∧ s.host.mbox.ien = false ∧ mbReq 2 0x2100 1 2 7 = 0x0221000100020007 ∧ (run (.mailboxRead 0x1017 0 2 7) s).host.mbox.rlen = 2 ∧
       (run (.mailboxWrite 0x1017 0 7 [1, 2]) s).host.mbox.done = true ∧ (run (.mailboxWrite 0x1017 0 7 []) s).host.mbox.abort = 0x06070010) := by decide +kernel

/-- A port with emergencies due and waiting. -/
def emDev (due q : List (BitVec 32)) (inh : Bool) (e : CanErr) : State :=
  let s := canDev .oper []
  { s with m := { s.m with emcyDue := due, emcyQ := q, emcyInh := inh, canErr := e } }

theorem wit_NetworkManagementAndEmergencies :
    (canSends (canDev .preOp []) = true ∧ (run (.stop 0) (canDev .oper [])).m.nmt = .stopped ∧ (run (.stop 64) (canDev .oper [])).m.nmt = .stopped ∧
      (run (.operational 64) (canDev .preOp [])).m.nmt = .oper ∧ (run (.preOperational 0) (canDev .oper [])).m.nmt = .preOp) ∧
    (does (.stop 5) (canDev .oper []) (canDev .oper []) = true) ∧
    (objGet (canDev .oper []) 0x1017 0 ≠ 0 ∧ (run .heartbeat (canDev .oper [])).m.canOut = [{ id := 0x740, data := [0x05] }]) ∧
    ((run .emcy (emDev [5] [] false .active)).m.hist = [5] ∧ (run .emcy (emDev [5] [] true .active)).m.emcyQ = [5] ∧
      (run .emcy (emDev [5] [1, 2, 3, 4, 5, 6, 7, 8] true .active)).m.emcyQ.length = 8) ∧
    ((run .emcyInhibitExpiry (emDev [] [] true .active)).m.emcyInh = false ∧
      (let s := updM (fun m => { m with emcyEnd := 1 }) (emDev [] [] true .active)
       does .emcyInhibitExpiry s s = true)) ∧
    (canServes (emDev [] [5] true .active) = true ∧ (run .emcyInhibitExpiry (emDev [] [5] true .active)).m.emcyQ = []) ∧
    ((run .busOffRecovery (emDev [] [] false .busOff)).m.canErr = .active ∧ canRuns (emDev [] [] false .active) = true ∧
      (run (.errorPassive (List.replicate 32 .txErr)) (emDev [] [] false .active)).m.conds.getLsbD 7 = true ∧
      (run (.errorPassive [.rxErr8]) (emDev [] [] false .active)).m.rxErrs = 8) ∧
    (let s : State := { (emDev [] [] false .busOff) with tbHold := true }
     canRuns s = false ∧ does .busOffRecovery s s = true ∧ does (.errorPassive [.rxErr]) s s = true) := by decide +kernel

/-- A device in a mode, with debug level FULL and this management block. -/
def mgDev (mode : Mode) (f : Mgmt → Mgmt) : State :=
  let s := canDev .oper []
  { s with mode := mode, m := f { s.m with dbg := { s.m.dbg with level := 2 } } }

/-- Every path takes a write. -/
def allTake (i sub : Nat) (s : State) : Bool := [DPath.can, .mailbox, .debug].all fun p => takes p i sub s

theorem wit_DictionaryCommandsTakeEffect :
    (let s := mgDev .standby id
     allTake 0x1010 1 s = true ∧ s.m.pwr.inhibit = false ∧ (run (.storeParameters .can true) s).m.cur = true ∧ (run (.storeParameters .debug true) s).m.bankB.valid = true) ∧
    (let s := mgDev .standby fun m => { m with pwr := { m.pwr with inhibit := true } }
     allTake 0x1010 1 s = true ∧ (run (.storeParameters .mailbox true) s).host.mbox.abort = 0x08000020) ∧
    (allTake 0x1011 1 (mgDev .standby id) = true ∧ (run (.restoreDefaults .can) (mgDev .standby id)).m.loadMark = true) ∧
    (allTake 0x1003 0 (mgDev .standby id) = true ∧ (run (.errorCountClear .can) (mgDev .standby fun m => { m with hist := [4] })).m.hist = []) ∧
    (allTake 0x2402 2 (mgDev .standby id) = true ∧ (run (.logclr .debug) (mgDev .standby id)).log = []) ∧
    (allTake 0x2002 1 (mgDev .standby id) = true ∧ (run (.wrlock .can 7) (mgDev .standby id)).m.wrlock = 7 ∧
      (run (.wrlock .can 0) (mgDev .standby fun m => { m with wrlock := 6 })).m.wrlock = 0) ∧
    (allTake 0x2802 1 (mgDev .standby id) = true ∧ (mgDev .standby id).m.att.astat ≠ 1 ∧ hasIdentity (lcState (mgDev .standby id)) = true) ∧
    (let s := mgDev .standby fun m => { m with fuses := { m.fuses with lc := 3 } }
     allTake 0x2801 3 s = true ∧ lcState s = 1 ∧ (run (.certchunk .can [1, 2]) s).m.att.certLen = 2) ∧
    (let s := mgDev .standby fun m => { m with fuses := { m.fuses with lc := 0 }, att := { m.att with certOff := 20479 } }
     lcState s = 0 ∧ (run (.certchunk .mailbox [1]) s).m.att.certLen = 20480) ∧
    (allTake 0x2803 4 (mgDev .standby id) = true ∧ (run (.dbglock .can 1) (mgDev .standby id)).m.dbg.level = 0) := by decide +kernel

theorem wit_ModeRequestsChangeTheMode :
    ([Mode.standby, .run, .drowse].all (fun m => allTake 0x2000 2 (mgDev m id) && !(mgDev m id).m.reqBusy) = true) ∧
    ((run (.modeRequestStandby .can) (mgDev .run id)).mode = .standby ∧ (run (.modeRequestStandby .mailbox) (mgDev .drowse id)).mode = .standby) ∧
    (runAllowed (mgDev .standby id) = true ∧ (run (.modeRequestRun .debug) (mgDev .standby id)).mode = .run ∧ (run (.modeRequestRun .can) (mgDev .drowse id)).mode = .run) ∧
    ((run (.modeRequestDrowse .can) (mgDev .run id)).mode = .drowse ∧ (run (.modeRequestDrowse .can) (mgDev .standby id)).m.modeRes = 3) ∧
    ([Mode.standby, .run, .drowse].all (fun m => decide ((run (.modeRequestHalt .can) (mgDev m id)).mode = .halt)) = true) ∧
    (let s := mgDev .standby fun m => { m with objs := [(objKey 0x2001 1, 0x8000000000000000)] }
     let s : State := { s with dram := 2 ^ 27 }
     sleepAreaOk s = true ∧ sleepBusy s = false ∧ (run (.modeRequestSleep .can) s).mode = .sleep) := by decide +kernel

/-- A device in a mode with these lifecycle fuses. -/
def lcDev (mode : Mode) (lc : BitVec 8) (f : Mgmt → Mgmt) : State := mgDev mode fun m => f { m with fuses := { m.fuses with lc := lc } }

theorem wit_FusesAndReportsTakeEffect :
    (fusable (lcDev .standby 0 id) = true ∧ takes .debug 0x2800 2 (lcDev .standby 0 id) = true ∧ lcState (lcDev .standby 0 id) = 0 ∧
      (lcDev .standby 0 id).m.fuses.keys = true ∧ (run (.lcDev .debug 0) (lcDev .standby 0 id)).m.fuseW = some (.lc 0)) ∧
    (allTake 0x2800 2 (lcDev .standby 3 id) = true ∧ lcState (lcDev .standby 3 id) = 1 ∧ fusable (lcDev .standby 3 id) = true) ∧
    (let s := lcDev .standby 0xF fun m => { m with dbg := { m.dbg with perm := true } }
     takes .debug 0x2800 2 s = true ∧ lcState s = 2 ∧ s.m.dbg.perm = true ∧ fusable s = true ∧ (run (.lcReturn .debug 0) s).m.fuseW = some (.lc 2)) ∧
    (let s : State := { (lcDev .standby 0xF fun m => { m with patch := { m.patch with psvn := 5 } }) with pgen := 1 }
     allTake 0x2800 4 s = true ∧ s.m.patch.busy = false ∧ s.m.fuses.svn < 5 ∧ (run (.svncommit .can 5) s).m.fuseW = some (.svn 5)) ∧
    (allTake 0x2800 0x0A (lcDev .standby 0xF id) = true ∧ (lcDev .standby 0xF id).m.fuses.odkh = none ∧ (run (.odkhset .mailbox 1) (lcDev .standby 3 id)).m.fuseW = some (.odkh 1)) ∧
    (allTake 0x2800 9 (lcDev .standby 0xF id) = true ∧ (run (.policyset .mailbox 3) (lcDev .standby 0xF id)).m.fuseW = some (.policy 3)) ∧
    ((run (.fuseWriteComplete true) (mgDev .standby fun m => { m with fuseW := some (.svn 64) })).m.fuses.svn = 64) ∧
    (let s := lcDev .standby 0x3F fun m => { m with fuseW := some (.lc 3) }
     lcState s < 4 ∧ lcState (run (.fuseWriteComplete true) s) = 4) ∧
    (let s := lcDev .standby 0 fun m => { m with fuseW := some (.lc 0) }
     lcState s < 1 ∧ lcState (run (.fuseWriteComplete true) s) = 1 ∧ (run (.fuseWriteComplete true) s).m.dbg.level = 2) ∧
    ((mgDev .run fun m => { m with att := { m.att with astat := 1 } }).m.att.astat = 1 ∧ does .attestationSigned (mgDev .run id) (mgDev .run id) = true) := by decide +kernel

/-- A skein and its neighbours with no work for them. -/
def idleDev (mode : Mode) (l : SMap Skein) : State := { (mgDev mode fun m => { m with clock := 50000 }) with ctxs := [], spindles := [], skeins := l }

/-- A measured domain. -/
def dm : DomMeas := { dom := 3, temp := 400, rate := 1600, cur := 5000, demand := 95, low := 700, marg := 650 }

theorem wit_SleepParkingAndTheWhorl :
    (let s : State := { (mgDev .sleep fun m => { m with exiting := true, saved := .standby, slow := { p := 2 ^ 20, tb := 1000 } }) with
       tb := 1000, cmps := [(2, { v := 1008, en := true })] }
     s.m.haltHeld = false ∧ 1000 + max 1 (10 * 2 ^ 20 / 2 ^ 20) < 2 ^ 64 ∧ (getCmp (run (.sleepExit 10 (2 ^ 20) true) s) 2).late = true ∧ (run (.sleepExit 10 (2 ^ 20) true) s).tb = 1010 ∧ (run (.sleepExit 10 (2 ^ 20) true) s).mode = .standby) ∧
    (does (.sleepExit 10 (2 ^ 20) true) (mgDev .sleep id) (mgDev .sleep id) = true ∧ (mgDev .sleep id).cmps = []) ∧
    (canPark 0 { (idleDev .standby []) with ctxs := [(1, { x0 with st := .waiting, readyAt := 1 })] } = false ∧ mapGet 0 (idleDev .drowse []).m.pwr.trafAt 1 + parkIdle (idleDev .drowse []) = 50000) ∧
    (canPark 3 (idleDev .standby []) = true ∧ (getSk (run (.skeinPark 3) (idleDev .standby [])) 3).parked = true) ∧
    ((getSk (run (.skeinWake 3) (idleDev .standby [(3, { parked := true })])) 3).parked = false) ∧
    (let s := idleDev .drowse ((upto 8).map fun i => (8 + i, { parked := true }))
     s.m.entering = false ∧ (objGet s 0x2104 1).getLsbD 3 = true ∧ objGet s 0x2102 34 = 1600 ∧
       ((upto 8).all fun i => (getSk s (BitVec.ofNat 5 (8 + i))).parked) = true ∧ (run (.sectorPark 1) s).m.pwr.sectors = 2 ∧
       objGet s 0x2102 35 = 1600 ∧ (getSk s 16).parked = false ∧ does (.sectorPark 2) s s = true) ∧
    (let s := mgDev .run id
     dm.dom < 36 ∧ s.m.pwr.critical = false ∧ domParked s dm.dom = false ∧ s.m.pwr.rounds = [] ∧ 1000 ≤ 1000 * capW s ∧ newTarget s dm = 1700) ∧
    (newTarget (mgDev .run id) { dm with demand := 60 } = 1600 ∧ newTarget (mgDev .run id) { dm with cur := 20000 } = 1600) ∧
    ((getDom (run (.whorlPeriod 48000 1 1 []) (mgDev .halt id)) 35).target = 1600) ∧
    ((getDom (run (.whorlPeriod 48000 1 1 [dm]) (mgDev .sleep id)) 3).temp = 400) := by decide +kernel

/-- A device with these power flags. -/
def pwDev (f : Power → Power) : State := mgDev .run fun m => { m with pwr := f m.pwr }

theorem wit_TemperatureAndSupplyEventsProtect :
    ((pwDev id).m.pwr.critical = false ∧ (pwDev id).m.pwr.thermtrip = false ∧ (pwDev id).m.pwr.cold = false ∧ (pwDev id).m.pwr.inhibit = false ∧
      (pwDev id).m.conds.getLsbD 2 = false ∧ (pwDev id).mode ≠ .bringup) ∧
    ((run (.thermalTrip 35) (pwDev id)).mode = .bringup ∧ (run (.thermalTrip 35) (pwDev id)).m.cause = 4) ∧
    (let s : State := { (pwDev id) with mode := .bringup, m := { (pwDev id).m with step := 2 } }
     (run (.coldLimit 3) s).m.pwr.cold = true ∧ s.m.step ≤ 2) ∧
    ((run .sag (pwDev id)).m.pwr.inhibit = true ∧ ((run .sag (pwDev id)).log.map (·.event)) = [0x28]) ∧
    ((run .inhibitLift (pwDev fun p => { p with inhibit := true })).m.pwr.inhibit = false) ∧
    ((run .brownOut (pwDev id)).m.cause = 2 ∧ (run .overVoltage (pwDev id)).m.cause = 3 ∧ (run .distaffStop (pwDev id)).m.cause = 0) := by decide +kernel

/-- The start-up sequence at a step. -/
def suDev (n : Nat) (f : Mgmt → Mgmt) : State := { (mgDev .bringup fun m => f { m with step := n }) with ctxs := [], spindles := [] }

theorem wit_ResetAndStartUpRunTheSequence :
    ([1, 2, 3, 4, 5, 6, 7, 8].all (fun n => starting n (suDev n id)) = true) ∧
    (startHeld (suDev 3 fun m => { m with resetN := false }) = true ∧ startHeld (suDev 3 id) = false) ∧
    ((run (.startUp (.fail 1 2)) (suDev 3 id)).m.cause = 6 ∧ (run (.resetN false true) (suDev 3 id)).m.step = 2) ∧
    (let s := suDev 7 fun m => { m with fuses := { m.fuses with lc := 0xFF } }
     lcState s = 4 ∧ startHeld s = false ∧ (run (.startUp .done) s).m.failed = true) ∧
    (let s := suDev 2 fun m => { m with bankB := { valid := true, seq := 1, vals := [(0x101700, 500 ^^^ 1000)] } }
     bankToLoad s.m = some true ∧ (run (.startUp .done) s).m.cur = true ∧ objGet (run (.startUp .done) s) 0x1017 0 = 500) ∧
    ((run (.startUp (.dram (List.replicate 12 (List.replicate 2 { gib := 128 })) 128)) (suDev 6 id)).dram = 3 * 2 ^ 37 ∧ lcState (suDev 6 id) ≠ 4 ∧
      popOk [] 128 = false ∧ (run (.startUp (.dram [] 128)) (suDev 6 id)).m.failed = true) ∧
    ((suDev 5 id).m.retire = [] ∧ (run (.startUp (.units [])) (suDev 5 id)).m.step = 6) ∧
    (let s := run (.startUp (.units [.spare 3, .spindle 50])) (suDev 5 id)
     (getSk s 3).spareBad = true ∧ (getSk s 3).spareFor = none ∧ (getSk s 3).outOf = 4) ∧
    ((run (.startUp .done) (suDev 8 id)).mode = .standby ∧ (run (.startUp .done) (suDev 8 fun m => { m with haltHeld := true })).mode = .halt) := by decide +kernel

/-- A device with compare 2 in a state, and capture input 2. -/
def cmpDev (x : Cmp) : State := { (dev x0) with cmps := [(2, x)] }
def capDev (v : BitVec 24) (x : Cap) : State := { (dev x0) with capctl := v, caps := [(2, x)] }

theorem wit_ComparesFireAndEdgesAreCaptured :
    ((getCmp (run (.compareFire 2) (cmpDev { v := 1000, en := true, pinact := 1 })) 2).fired = true ∧ (cmpDev { v := 1000, en := true }).tb = 1000) ∧
    ((getCmp (run (.compareFire 2) (cmpDev { v := 1000, en := true, period := 7 })) 2).v = 1007 ∧ 1000 + ((1000 - 1000) / 7 + 1) * 7 < 2 ^ 64) ∧
    ((getCtx (cmpDev { v := 9, en := true, irq := true }) 0).st ≠ .free ∧
      axGet (getCtx (run (.compareFire 2) (cmpDev { v := 9, en := true, irq := true })) 0) 26 = 1) ∧
    (does (.compareFire 2) (cmpDev { v := 1001, en := true }) (cmpDev { v := 1001, en := true }) = true) ∧
    (let s : State := { (dev x0) with cmps := [(1, { v := 999, en := true }), (2, { v := 1000, en := true })] }
     cmpDue s 1 = true ∧ does (.compareFire 2) s s = true ∧ cmpDue (cmpDev { v := 1000, en := true }) 1 = false) ∧
    (let s : State := { (dev x0) with cmpW := [(0x3D1, 0x84003B9ACA00)] }
     (run .compareWrite s).cmpW = []) ∧
    (let s := capDev 0x000404 {}
     s.mode ≠ .sleep ∧ s.m.pwr.off = false ∧ s.capctl.getLsbD 18 = false ∧ (getCap (run (.captureEdge 2 .rise) s) 2).rise = 1000 ∧
       (getCap (run (.captureEdge 2 .loneFall) s) 2).fall = 1000 ∧ (getCap (run (.captureEdge 2 .loneFall) s) 2).lvl = true) ∧
    ((getCap (run (.captureEdge 2 .rise) (capDev 0 {})) 2).lvl = true ∧ (getCap (run (.captureEdge 2 .rise) (capDev 0 {})) 2).rv = false) ∧
    (let s : State := { (dev x0) with cmpW := [(0x3E2, 0x400000000000)], cmps := [(2, { fired := true, kept := some (0, 4) })] }
     s.m.clock = 0 ∧ (getCmp (run .compareWrite s) 2).fired = true) ∧
    ((dev x0).tbRun = true ∧ (run .referenceLoss (dev x0)).tbHold = true ∧ (run .referenceReturn { (dev x0) with tbHold := true }).tbRet = true) ∧
    ((run .referenceLoss { (dev x0) with tbHold := true, tbRet := true }).tbRet = false ∧ (dev x0).tbHold = false) := by decide +kernel

theorem wit_PatchesLoadAndLock :
    (served (dev x0) = true ∧ (dev x0).m.patch.busy = false ∧ (run .patchLoad (dev x0)).m.patch.busy = true) ∧
    ((run .patchLoad (mgDev .run fun m => { m with patch := { m.patch with ran := true } })).m.patch.code = 1) ∧
    (let s := mgDev .standby fun m => { m with patch := { m.patch with busy := true } }
     imgCheck s = (2, [], []) ∧ (run .patchLoadComplete s).m.patch.code = 2) ∧
    ((run .patchLock (dev x0)).m.patch.locked = true) := by decide +kernel

/-- A device at a debug level. -/
def dbDev (mode : Mode) (lv : BitVec 2) (f : Debug → Debug) : State := mgDev mode fun m => { m with dbg := f { m.dbg with level := lv } }

theorem wit_DebugCommandsActAtTheirLevel :
    (debugs 0 (dbDev .run 0 id) = true ∧ (run .rd (dbDev .run 0 id)).m.dbg.stat = 1 ∧ (run .halt (dbDev .run 0 id)).m.dbg.stat = 1) ∧
    (waitLeft (dbDev .run 0 id) = 0 ∧ (dbDev .run 0 id).m.dbg.verify = false ∧
      (run (.chal 3) (dbDev .run 0 fun d => { d with chal := some (2 ^ 192 * 77) })).m.dbg.data = 77 ∧
      (run (.tokw 5) (dbDev .run 0 id)).m.dbg.tok = [5]) ∧
    ((run .lock (dbDev .run 2 id)).m.dbg.level = 0 ∧ (run (.addr 0x4000000000000005) (dbDev .run 0 id)).m.dbg.space = 1) ∧
    (let s := dbDev .run 0 fun d => { d with verify := true, failcnt := 3, chal := some 0, tok := [1] }
     tokenCheck s = (1, 0, false) ∧ (run .tokenVerification s).m.dbg.failcnt = 4 ∧ (run .tokenVerification s).m.dbg.waitEnd = 1000000000) ∧
    (let s := dbDev .run 0 fun d => { d with verify := true, failcnt := 0xFFFF, chal := none }
     tokenCheck s = (8, 0, false) ∧ (run .tokenVerification s).m.dbg.failcnt = 0xFFFF) ∧
    (let s := dbDev .run 1 fun d => { d with space := 1, addr := 0x2000 }
     debugs 1 s = true ∧ s.m.dbg.addr.toNat < s.dram ∧ (run .rd s).m.dbg.stat = 0 ∧ (run .rd s).m.dbg.addr = 0x2001) ∧
    (let s := dbDev .halt 1 fun d => { d with space := 2, addr := 5 }
     debugs 1 s = true ∧ imageCtx s 5 = some 0 ∧ (run .rd s).m.dbg.stat = 0) ∧
    (let s := dbDev .run 2 fun d => { d with space := 1, addr := 0x2000 }
     debugs 2 s = true ∧ cellAt (run (.wr 7) s) 0x2000 = sealCell 7) ∧
    (let s := dbDev .halt 2 fun d => { d with space := 2, addr := 5 }
     debugs 2 s = true ∧ imageCtx s 5 = some 0 ∧ (run (.wr 7) s).m.dbg.stat = 0) ∧
    ((run .halt (dbDev .run 2 id)).mode = .halt ∧ (dbDev .run 2 id).m.entering = false) ∧
    (let s := mgDev .halt fun m => { m with haltOrg := 2, saved := .standby }
     s.heldActs = [] ∧ (run .release s).mode = .standby) ∧
    ((run .release (dbDev .run 2 id)).m.dbg.stat = 2) ∧
    (axGet (getCtx (run (.dirq 0) (dbDev .run 2 id)) 0) 26 = 16) := by decide +kernel

theorem wit_DiagnosticsAndBoundaryScanAct :
    (debugs 3 (dbDev .run 3 id) = true ∧ lcState (dbDev .run 3 id) ≠ 0 ∧ (run (.mcrd 0x2000) (dbDev .run 3 id)).m.dbg.stat = 0) ∧
    ((run (.injaddr 5) (dbDev .run 3 id)).injAddr = 5 ∧ (run (.injarm 5) (dbDev .run 3 id)).injArmed = some 5 ∧ (run .scrub (dbDev .run 3 id)).m.scrubFast = true ∧
      (getSk (run (.subst 0x1F000F) (dbDev .run 3 id)) 31).failed = 0x8000) ∧
    (lcState (dbDev .run 3 id) = 2 ∧ (run .retclr (dbDev .run 3 id)).m.dbg.stat = 2) ∧
    (let s := lcDev .run 3 fun m => { m with dbg := { m.dbg with level := 3 } }
     lcState s ≠ 2 ∧ debugs 3 s = true ∧ (run .retclr s).m.retClr = true) ∧
    (scanActs (dev x0) = false ∧ (run (.extest (.extest 5)) (dev x0)).m.tap.ir = 3 ∧ (run (.extest (.preload 5)) (dev x0)).m.tap.bsr = 5 ∧
      (run (.extest (.code 0xFF)) (dev x0)).m.tap.ir = 0xFF ∧ (run .testLogicReset (dev x0)).m.tap.ir = 1) ∧
    (pinLevel (dev x0) 4 true = some true ∧ pinLevel (dbDev .halt 1 id) 4 true = some true) ∧
    (let s := dbDev .halt 2 id
     lcState s ≠ 4 ∧ scanActs s = true ∧ pinLevel (run (.extest (.extest 0x30)) s) 4 false = some true ∧ pinLevel (run (.extest (.extest 0x10)) s) 4 false = none ∧ pinLevel (run .highz s) 4 true = none) := by decide +kernel

/-- Skein 0 holds line 0x400, a cell of it with wrong bits of the skein cache's code: their class and state as given. -/
def arrDev (e : BitVec 23) (st : Mesi) (g : TagErr) : State :=
  { (skDev x0 { cache := [(0x400 * 16, { st := st, ln := 0x400, tag := g })] }) with arrErr := [(0x2000, e)] }

theorem wit_FailuresAreConfinedAndRecorded :
    (let e : BitVec 23 := 0x101
     mapGet false (arrDev e .excl {}).poisoned 0x2000 = false ∧ arrTarget (arrDev e .excl {}) 0x2000 = 1 ∧ weight (arrBits (arrDev e .excl {}) 0x2000) = 1 ∧
       arrHard (arrDev e .excl {}) 0x2000 = false ∧ verify (cellAt (arrDev e .excl {}) 0x2000) = some (0, false) ∧
       (readCell (some 0) 0x2000 (arrDev e .excl {})).1 = some 0 ∧ mapGet 0 (readCell (some 0) 0x2000 (arrDev e .excl {})).2.counters 1 = 1) ∧
    (let e : BitVec 23 := 0x200103
     weight (arrBits (arrDev e .modified {}) 0x2000) = 2 ∧ arrTransient (arrDev e .modified {}) 0x2000 = true ∧
       mapGet 0 (readCell (some 0) 0x2000 (arrDev e .modified {})).2.counters 2 = 1) ∧
    (let e : BitVec 23 := 0x103
     arrTransient (arrDev e .excl {}) 0x2000 = false ∧ arrClean (arrDev e .excl {}) 0x2000 = true ∧ arrClean (arrDev e .modified {}) 0x2000 = false ∧
       (readCell (some 0) 0x2000 (arrDev e .excl {})).1 = some 0 ∧ (readCell (some 0) 0x2000 (arrDev e .modified {})).1 = none ∧
       (readCell (some 0) 0x2000 (arrDev e .modified {})).2.poisoned.length = 8) ∧
    (let e : BitVec 23 := 0x400101
     arrHard (arrDev e .excl {}) 0x2000 = true ∧ (readCell (some 0) 0x2000 (arrDev e .excl {})).1 = some 0 ∧
       (skAt (getSk (readCell (some 0) 0x2000 (arrDev e .excl {})).2 0) 0x400 0).retired = true ∧
       mapGet 0 (arrTick (readCell (some 0) 0x2000 (arrDev e .excl {})).2).counters 6 = 1) ∧
    ((skAt (getSk (skTagFix 0 0x400 0 (arrDev 0 .modified { prim := true })) 0) 0x400 0).ln = 0x400 ∧
      mapGet 0 (arrTick (skTags 0 0x400 (arrDev 0 .modified { prim := true }))).counters 5 = 1 ∧
      (skAt (getSk (skTagFix 0 0x400 0 (arrDev 0 .modified { prim := true, shad := true })) 0) 0x400 0).retired = true) ∧
    (let s (l : List (BitVec 8 × BitVec 3)) (b : Bool) : State := { (dev x0) with dramBad := [(5, { dev := 1, syms := l, again := b })] }
     dramEcc (s [(2, 0), (2, 1)] true).m.dimms.width (dramAt (s [(2, 0), (2, 1)] true) 5).syms = some (some 2) ∧
       mapGet 0 (arrTick (dramDemand 5 (s [(2, 0)] true))).counters 0x08 = 1 ∧
       dramEcc (s [(2, 0), (3, 1)] true).m.dimms.width (dramAt (s [(2, 0), (3, 1)] true) 5).syms = some none ∧
       mapGet 0 (arrTick (dramDemand 5 (s [(2, 0), (3, 1)] false))).counters 0x09 = 1 ∧
       mapGet 0 (arrTick (dramDemand 5 (s [(2, 0), (3, 1)] true))).counters 0x0A = 1 ∧
       mapGet false (dramRead 5 (s [(2, 0), (3, 1)] true)).poisoned 47 = true) ∧
    (let s := mgDev .run id
     (getSk s 0).parked = false ∧ spindleFailed 3 true s = true ∧ (getSk s 0).outOf.getLsbD 3 = false ∧ (getSk s 0).spareFor = none ∧ (getSk s 0).spareBad = false ∧
       (getSk (run (.substitution 3 true true) s) 0).spareFor = some 3) ∧
    (let s : State := { (mgDev .run id) with skeins := [(0, { spareFor := some 2, failed := 8 })] }
     (getSk s 0).parked = false ∧ spindleFailed 3 false s = true ∧ (getSk (run (.substitution 3 false true) s) 0).outOf.getLsbD 3 = true) ∧
    (spindleFailed 3 false (mgDev .run id) = false) ∧
    ((mgDev .run id).m.pwr.off = false ∧ mapGet 0 (run (.fabricCrcError 3 1) (mgDev .run id)).counters 0x1F = 1 ∧
      (run (.fabricCrcError 3 5) (mgDev .run id)).m.cause = 7) ∧
    (let r : ErrRec := { seq := 1, tb := 0, event := 5, sev := 3, domain := 0, unit := 0, ctx := none, addr := none, detail := 0 }
     let s : State := { (mgDev .run id) with recQ := [r] }
     ((run .logRecordWrite { s with tb := 1000000000 }).log = [r]) ∧ does .logRecordWrite { s with tb := 999999999 } { s with tb := 999999999 } = true ∧
       does .logRecordWrite { s with m := { s.m with pwr := { s.m.pwr with inhibit := true } } } { s with m := { s.m with pwr := { s.m.pwr with inhibit := true } } } = true) ∧
    ((run (.lostMemoryChannel 15) (mgDev .run id)).m.cause = 7) := by decide +kernel

/-- A patch image of one microword in memory, its load in progress, on a part in LC_PROD. -/
def imgDev : State :=
  { (lcDev .standby 3 fun m => { m with patch := { m.patch with busy := true, glen := 16498 } }) with
    mem := [(0, 0x55), (1, 0x50), (2, 0x54), (3, 0x31), (4, 1), (6, 64), (8, 0x80), (9, 0x54), (12, 0xB0), (14, 3), (16, 7), (18, 1), (48, 146)] }

/-- Thirty-two match entries that are not enabled. -/
def noMatch : List (BitVec 32) := (upto 32).map fun _ => 0

/-- An image whose key and signature the part accepts loads. -/
theorem image_accepted (key : Config.sha256 (slice (imageBytes imgDev) 64 48) = Config.vkh)
    (sig : Config.slhVerify (slice (imageBytes imgDev) 64 48) (slice (imageBytes imgDev) 0 274) (slice (imageBytes imgDev) 274 16224) = true) :
    imgDev.m.patch.busy = true ∧ imgDev.injArmed = none ∧ imgCheck imgDev = (0, noMatch, [0]) := by
  have w : leNat (slice (imageBytes imgDev) 18 2) = 1 := by decide +kernel
  have lc : lcState imgDev = 1 := by decide +kernel
  have a1 : imgHeader (imageBytes imgDev) = true := by decide +kernel
  have a2 : leNat (slice (imageBytes imgDev) 14 2) = 3 := by decide +kernel
  have a3 : leNat (slice (imageBytes imgDev) 48 4) = 146 := by decide +kernel
  have a4 : imgDev.m.patch.glen.toNat = 16498 := by decide +kernel
  have a5 : leNat (slice (imageBytes imgDev) 24 4) = 0 := by decide +kernel
  have a6 : leNat (slice (imageBytes imgDev) 16 1) = 7 := by decide +kernel
  have a7 : imgDev.pgen.toNat = 0 := by decide +kernel
  have a8 : imgDev.m.fuses.svn = 0 := by decide +kernel
  have a9 : imgBody 1 (imageBytes imgDev) 1 = some (slice (imageBytes imgDev) 112 146) := by
    have g : leNat (slice (imageBytes imgDev) 17 1) = 0 := by decide +kernel
    simp [imgBody, g]
  have b1 : bodyMatch (slice (imageBytes imgDev) 112 146) = noMatch := by decide +kernel
  have b2 : bodyWords (slice (imageBytes imgDev) 112 146) 1 = [0] := by decide +kernel
  have b3 : matchOk 1 noMatch = true := by decide +kernel
  have b4 : parityOk 0#144 = true := by decide +kernel
  refine ⟨rfl, rfl, ?_⟩
  simp [imgCheck, w, lc, a1, a2, a3, a4, a5, a6, a7, a8, a9, b1, b2, b3, b4, key, sig]

/-- A token for the part itself and the challenge 0, for level 1, with its verification in progress. -/
def tokDev : State :=
  dbDev .run 0 fun d => { d with verify := true, failcnt := 2, chal := some 0, tok := [0x0001000147424455, Config.serial.setWidth 64, 0, 0, 0, 0] }

theorem leNat_leBytes4 (n : Nat) (h : n < 2 ^ 32) : leNat (leBytes 4 n) = n := by
  simp [leBytes, leNat]
  omega

/-- A token whose key and signature the part accepts opens its level. -/
theorem token_accepted (key : Config.sha256 [] = Config.vdkh) (sig : ∀ m, Config.slhVerify [] m [] = true) :
    tokDev.m.dbg.verify = true ∧ tokenCheck tokDev = (0, 1, false) := by
  have n : (Config.serial.setWidth 64).toNat = Config.serial.toNat := by
    rw [BitVec.toNat_setWidth]
    exact Nat.mod_eq_of_lt (Nat.lt_trans Config.serial.isLt (by decide))
  have f : ((tokDev.m.dbg.tok.map fun w => leBytes 8 w.toNat).flatten) =
      [0x55, 0x44, 0x42, 0x47, 1, 0, 1, 0] ++ leBytes 8 Config.serial.toNat ++ List.replicate 32 0 := by
    rw [← n]
    rfl
  generalize hb : (tokDev.m.dbg.tok.map fun w => leBytes 8 w.toNat).flatten = b at f
  have g0 : slice b 0 4 = [0x55, 0x44, 0x42, 0x47] := by rw [f]; rfl
  have g1 : leNat (slice b 4 2) = 1 := by rw [f]; rfl
  have g2 : leNat (slice b 6 1) = 1 := by rw [f]; rfl
  have g3 : leNat (slice b 7 1) = 0 := by rw [f]; rfl
  have g4 : zeros b 44 4 = true := by rw [f]; rfl
  have g5 : leNat (slice b 8 4) = Config.serial.toNat := by
    rw [f]
    exact leNat_leBytes4 _ Config.serial.isLt
  have g6 : leNat (slice b 12 32) = 0 := by
    have z : Config.serial.toNat / 256 / 256 / 256 / 256 = 0 := by have := Config.serial.isLt; omega
    rw [f]
    simp [slice, leBytes, leNat, z]
  have g7 : slice b 48 48 = [] := by rw [f]; rfl
  have g8 : slice b 96 16224 = [] := by rw [f]; rfl
  have c : tokDev.m.dbg.chal = some 0 := rfl
  have k : levelKey tokDev 1 false = some false := by decide +kernel
  refine ⟨rfl, ?_⟩
  unfold tokenCheck
  rw [hb, c]
  simp [g0, g1, g2, g3, g4, g5, g6, g7, g8, k, key, sig]

/-! ## The package (R599, R600, R606 to R609) -/

/-- The example of R609: DDR4_B_CK1_C at 16-38, its true half at 17-38, DDR0_A_DQ0 at 01-01. -/
theorem test_balls_of_the_example :
    ballAt 4 152 = (16, 38) ∧ ballOf 16 38 = .ddr 4 true (.ck 1 true) ∧ ballAt 4 151 = (17, 38) ∧ ballOf 17 38 = .ddr 4 true (.ck 1 false) ∧
      ballAt 0 0 = (1, 1) ∧ ballOf 1 1 = .ddr 0 false (.dq 0) := by decide +kernel

/-- The counts of R605 and R609: 2,601 balls, of which 96 carry VIN and 540 ground. -/
theorem test_ball_counts :
    let l := ((upto 51).map fun r => (upto 51).map fun c => ballOf (r + 1) (c + 1)).flatten
    l.length = 2601 ∧ (l.filter fun b => b = .vin).length = 96 ∧ (l.filter fun b => b = .gnd).length = 540 := by decide +kernel

/-- 76 cells; the strip's names at the balls of R608; unlisted codes select BYPASS. -/
theorem test_boundary_and_tap :
    boundaryReg.length = 76 ∧ boundaryReg[19]? = some (.canStby, .out) ∧ boundaryReg[52]? = some (.dramResetN 0, .out) ∧ boundaryReg[51]? = some (.testEn, .inp) ∧
      ballOf 49 9 = .low .testEn ∧ ballOf 50 6 = .low .ref25In ∧ ballOf 51 13 = .low .canTxd ∧
      tapSelect 0x06 = .bypass ∧ tapDr (State.reset) = .idcode := by decide +kernel

end Sys2Proof.Tests
end

/-! SUPPORT. Instructions as issues of their words, operand reads and checks that pass, and memory phases that are served at once. -/

namespace Sys2Proof.Laws

open Sys2Proof.Machine Sys2Proof.Expected

/-! ## Issue -/

/-- An instruction is the issue of its word in its context's next slot, whatever its body (R122, R148). -/
theorem exec_issues {i : Instr} {h : Hd} {w : BitVec 48} (hd : headOf i = some h) (hw : encodeWord i = some w) :
    ∃ body, ∀ s, exec i s = issueOut h w body s := by
  cases i <;> cases hd <;> cases hw <;> exact ⟨_, fun _ => rfl⟩

/-- An instruction that can issue, and whose body raises nothing, has its slot done after the body. -/
theorem issueOut_done {h : Hd} {w : BitVec 48} {body : X Adv} {s t : State} {a : Adv} (hi : canIssue h w s = true)
    (hb : body (slotStart h.ctx s) = .ok a t) : issueOut h w body s = .next (slotDone h.ctx a t) := by
  rw [issueOut_ok hi, hb]

/-- Writing a context back as it stands does not show after its slot. -/
theorem slotResult_updCtx_id (c : CtxId) (a : Adv) (ls : Lands) (s : State) :
    slotResult c a ls (updCtx c (fun x => x) s) = slotResult c a ls s := by
  have e : spOf (updCtx c (fun x => x) s) c = spOf s c := by simp [spOf]
  simp only [slotResult, e, updCtx_updCtx]
  rfl

/-- A body makes landings and goes on to the next instruction; it may have written its context back as it stood. -/
def BodyLands (c : CtxId) (body : X Adv) (ls : Lands) (t : State) : Prop :=
  body t = .ok .seq (landSeq c ls t) ∨ body t = .ok .seq (landSeq c ls (updCtx c (fun x => x) t))

/-- The slot of an instruction whose body only makes landings. -/
theorem issueOut_bodyLands {h : Hd} {w : BitVec 48} {body : X Adv} {s : State} {ls : Lands} (hi : canIssue h w s = true)
    (hb : BodyLands h.ctx body ls (slotStart h.ctx s)) :
    issueOut h w body s = .next (slotResult h.ctx .seq ls (slotStart h.ctx s)) := by
  rcases hb with hb | hb
  · exact issueOut_lands hi hb
  · obtain ⟨hr, hp, hw⟩ := canIssue_spec hi
    rw [issueOut_done hi hb, slotDone_landSeq (by simpa using hr) (by simpa using hp) (by simpa using hw), slotResult_updCtx_id]

/-! ## Operands -/

theorem opnd_eq_some {x : Ctx} {r : BitVec 5} {v : Cell} : opnd x r = some v ↔ clean x r = true ∧ wGet x r = v := by
  simp [opnd]

theorem need_eq_some {b : Bool} {u : Unit} : need b = some u ↔ b = true := by
  simp [need]

theorem fixOpnd_eq_some {x : Ctx} {r : BitVec 5} {d : Datum} :
    fixOpnd x r = some d ↔ ∃ v, opnd x r = some v ∧ cTyp v = tFIX ∧ cDat v = d := by
  simp [fixOpnd, Option.bind_eq_some_iff, need_eq_some]

/-- An operand of a rule is what its register reads as. -/
theorem wRead_opnd {c : CtxId} {r : BitVec 5} {v : Cell} {t : State} (hv : opnd (getCtx t c) r = some v) : wRead c r t = .ok v t := by
  obtain ⟨hc, rfl⟩ := opnd_eq_some.mp hv
  exact wRead_clean hc

theorem xRegs_opnd {c : CtxId} {ra rb : BitVec 5} {a b : Cell} {t : State} (ha : opnd (getCtx t c) ra = some a)
    (hb : opnd (getCtx t c) rb = some b) : xRegs c ra rb t = .ok (a, b) t := by
  rw [xRegs, x_bind_ok (wRead_opnd ha), x_bind_ok (wRead_opnd hb), x_pure]

/-! ## The checks of R149 that pass -/

theorem chkUnset_pass {v : Cell} (i : Nat) (t : State) (hv : cTyp v ≠ tUNSET) : chkUnset v i t = .ok () t := by
  rw [chkUnset, if_neg hv, x_pure]

theorem chkTwo_pass {a b : Cell} (t : State) (ua : cTyp a ≠ tUNSET) (ub : cTyp b ≠ tUNSET) (ba : badCell a = false)
    (bb : badCell b = false) : chkTwo a b t = .ok () t := by
  rw [chkTwo, x_bind_ok (chkUnset_pass 0 t ua), x_bind_ok (chkUnset_pass 1 t ub), ba, bb]
  rfl

theorem chkDispatch_pass {ta tb : BitVec 6} (t : State) (ha : dispatches ta = false) (hb : dispatches tb = false) :
    chkDispatch ta tb t = .ok () t := by
  rw [chkDispatch, ha, hb]
  rfl

/-- FIX and HDR cells are well formed whatever their datum. -/
theorem badCell_fix {v : Cell} (hv : cTyp v = tFIX) : badCell v = false := by
  simp [badCell, isMalformed, isReserved, hv]

theorem badCell_hdr {v : Cell} (hv : cTyp v = tHDR) : badCell v = false := by
  simp [badCell, isMalformed, isReserved, hv]

/-- Two FIX operands pass the checks of a generic operation. -/
theorem chkTwo_fix {a b : Cell} (t : State) (fa : cTyp a = tFIX) (fb : cTyp b = tFIX) : chkTwo a b t = .ok () t :=
  chkTwo_pass t (by simp [fa]) (by simp [fb]) (badCell_fix fa) (badCell_fix fb)

theorem chkDispatch_fix {a b : Cell} (t : State) (fa : cTyp a = tFIX) (fb : cTyp b = tFIX) : chkDispatch (cTyp a) (cTyp b) t = .ok () t :=
  chkDispatch_pass t (by simp [fa, dispatches]) (by simp [fb, dispatches])

theorem xTwo_opnd {c : CtxId} {ra rb : BitVec 5} {a b : Cell} {t : State} (ha : opnd (getCtx t c) ra = some a)
    (hb : opnd (getCtx t c) rb = some b) (hc : chkTwo a b t = .ok () t) : xTwo c ra rb t = .ok (a, b) t := by
  rw [xTwo, x_bind_ok (wRead_opnd ha), x_bind_ok (wRead_opnd hb), x_bind_ok hc, x_pure]

/-! ## Landings of float operations (R153, R348) -/

theorem forM_land (c : CtxId) (ls : Lands) (t : State) : (ls.forM fun l => land c l.1 l.2.1 l.2.2) t = .ok () (landSeq c ls t) := by
  induction ls generalizing t with
  | nil => rfl
  | cons l ls ih => exact (x_bind_ok (land_seq c l.1 l.2.1 l.2.2 t)).trans (ih _)

/-- Without an enabled exception the results land, and FPFLAGS collect the exceptions. -/
theorem landFp_quiet {c : CtxId} (ls : Lands) {fl : BitVec 5} {t : State} (hf : fl &&& fpEnables (getCtx t c) = 0) :
    landFp c ls fl t = .ok () (landSeq c ls (updCtx c (fun x => { x with fpflags := x.fpflags ||| fl }) t)) := by
  rw [landFp, x_bind_ok (xCtx_eq c t), x_bind_ok (xMod_eq _ t), if_pos hf]
  exact forM_land ..

/-- An operation that raises nothing leaves its context as it stood. -/
theorem landFp_none (c : CtxId) (ls : Lands) (t : State) : landFp c ls 0 t = .ok () (landSeq c ls (updCtx c (fun x => x) t)) :=
  (landFp_quiet ls BitVec.zero_and).trans (by simp only [BitVec.or_zero])

/-! ## Memory phases -/

/-- A memory phase whose accesses are served at once is performed in its slot (R101). -/
theorem xMemOp_ok {c : CtxId} {w : BitVec 48} {op : MemOp} {s t : State} {a : Adv} (hb : memBasic c false w op s = .ok a t) :
    xMemOp c w op s = .ok a t := by
  simp only [xMemOp, hb]

theorem memBasic_cons {c : CtxId} (w : BitVec 48) {a b : Cell} {imm : Bool} (d : BitVec 5) {s t : State} {p : VAddr}
    (ha : xAlloc c false 2 [a, b] s = .ok p t) :
    memBasic c false w (.cons a b imm d) s = .ok .seq (landSeq c [(4, .word d, mkCell (newCol t c imm) tCONS p)] t) := by
  simp only [memBasic]
  rw [x_bind_ok (xCtx_eq c s), x_bind_ok ha, x_bind_ok (x_get t), landW, x_bind_ok (land_seq ..), x_pure]

theorem memBasic_alloc {c : CtxId} (w : BitVec 48) {a ty : Cell} {imm : Bool} (d : BitVec 5) {s t : State} {p : VAddr}
    (ha : xAlloc c false ((hdrLen a + 2) / 2 * 2) [a] s = .ok p t) :
    memBasic c false w (.alloc a ty imm d) s =
      .ok .seq (landSeq c [(4, .word d, mkCell (newCol t c imm) ((cDat ty).extractLsb' 0 6) p)] t) := by
  simp only [memBasic]
  rw [x_bind_ok (xCtx_eq c s), x_bind_ok ha, x_bind_ok (x_get t), landW, x_bind_ok (land_seq ..), x_pure]

end Sys2Proof.Laws

/-! SUPPORT. The fields of cells that are made, and the order of integers. -/

namespace Sys2Proof.Laws

open Sys2Proof.Machine

/-! ## Cells that are made (R36, R41) -/

/-- The bits of a cell with its CHECK recomputed. -/
theorem getLsbD_sealCell (v : Cell) (i : Nat) :
    (sealCell v).getLsbD i = if i < 56 then v.getLsbD i else (checkOf v).getLsbD (i - 56) := by
  rw [sealCell, BitVec.getLsbD_append]
  split
  · simp_all
  · rfl

/-- A field below CHECK stays. -/
theorem extract_sealCell (v : Cell) {lo n : Nat} (h : lo + n ≤ 56) : (sealCell v).extractLsb' lo n = v.extractLsb' lo n := by
  ext i hi
  simp only [BitVec.getElem_extractLsb', getLsbD_sealCell]
  rw [if_pos (by omega)]

@[simp] theorem cDat_mkCell (col : BitVec 2) (ty : BitVec 6) (d : Datum) : cDat (mkCell col ty d) = d := by
  rw [cDat, mkCell, extract_sealCell _ (by omega)]
  ext i hi
  rw [BitVec.getElem_extractLsb', Nat.zero_add]
  refine BitVec.getLsbD_append.trans ?_
  rw [if_pos hi, BitVec.getLsbD_eq_getElem hi]

@[simp] theorem cTyp_mkCell (col : BitVec 2) (ty : BitVec 6) (d : Datum) : cTyp (mkCell col ty d) = ty := by
  rw [cTyp, mkCell, extract_sealCell _ (by omega)]
  ext i hi
  rw [BitVec.getElem_extractLsb']
  refine BitVec.getLsbD_append.trans ?_
  rw [if_neg (by omega), Nat.add_sub_cancel_left]
  refine BitVec.getLsbD_append.trans ?_
  rw [if_pos hi, BitVec.getLsbD_eq_getElem hi]

@[simp] theorem cTyp_immFix {n : Nat} (i : BitVec n) : cTyp (immFix i) = tFIX := cTyp_mkCell ..

@[simp] theorem cDat_immFix {n : Nat} (i : BitVec n) : cDat (immFix i) = i.signExtend 48 := cDat_mkCell ..

/-! ## The order of integers (R166) -/

/-- A signed magnitude is its integer, or the negation under the opposite sign. -/
theorem sInt_natAbs (i : Int) : sInt (decide (i < 0)) i.natAbs = i := by
  rw [sInt]
  by_cases h : i < 0
  · rw [if_pos (decide_eq_true h)]; omega
  · rw [if_neg (by simpa using h)]; omega

theorem sInt_not_natAbs (i : Int) : sInt (!decide (i < 0)) i.natAbs = -i := by
  rw [sInt]
  by_cases h : i < 0
  · rw [if_neg (by simpa using h)]; omega
  · rw [if_pos (by simpa using h)]; omega

/-- A relation of the ordered comparisons between integers. -/
def relInt (r : Rel) (i j : Int) : Bool :=
  match r with
  | .lt => i < j
  | .le => i ≤ j
  | .gt => i > j
  | .ge => i ≥ j

/-- A relation that holds of an order holds of integers in that order. -/
theorem relHolds_eq_relInt {o : Ordering} {i j : Int} (r : Rel) (lt : o = .lt ↔ i < j) (eq : o = .eq ↔ i = j) (gt : o = .gt ↔ j < i) :
    relHolds r o = relInt r i j := by
  cases r with
  | lt => exact decide_eq_decide.mpr lt
  | gt => exact decide_eq_decide.mpr gt
  | le =>
    simp only [relHolds, relInt, lt, eq, ← Bool.decide_or]
    exact decide_eq_decide.mpr Int.le_iff_lt_or_eq.symm
  | ge =>
    simp only [relHolds, relInt, gt, eq, ← Bool.decide_or]
    exact decide_eq_decide.mpr (by omega)

theorem relHolds_compare_int (r : Rel) (i j : Int) : relHolds r (compare i j) = relInt r i j :=
  relHolds_eq_relInt r Int.compare_eq_lt Int.compare_eq_eq Int.compare_eq_gt

theorem relHolds_compare_nat (r : Rel) (i j : Nat) : relHolds r (compare i j) = relInt r i j :=
  relHolds_eq_relInt r (by rw [Nat.compare_eq_lt, Int.ofNat_lt]) (by rw [Nat.compare_eq_eq, Int.ofNat_inj])
    (by rw [Nat.compare_eq_gt, Int.ofNat_lt])

/-- Integers are ordered by their difference, exactly and without an exception. -/
theorem numRel_int (r : Rel) (i j : Int) : numRel r (.int i) (.int j) = (relInt r i j, 0) := by
  have diff : relInt r (i + -j) 0 = relInt r i j := by
    cases r <;> exact decide_eq_decide.mpr (by omega)
  have sum : finSum (decide (i < 0)) i.natAbs 0 (!decide (j < 0)) j.natAbs 0 = (i + -j, 0) := by
    simp [finSum, sInt_natAbs, sInt_not_natAbs]
  simp only [numRel, numVal, fOrder, sum, relHolds_compare_int, diff]

end Sys2Proof.Laws

/-! SUPPORT. Cells and their check code (R38 to R40): the syndrome is linear, and verification is read off it. -/

namespace Sys2Proof.Proofs

open Sys2Proof.Machine Sys2Proof.Expected Sys2Proof.Laws

/-! ## The check code is linear (R39) -/

theorem checkFrom_xor (a b : Cell) (i : Nat) (gs : List (BitVec 8)) : checkFrom (a ^^^ b) i gs = checkFrom a i gs ^^^ checkFrom b i gs := by
  induction gs generalizing i with
  | nil => exact BitVec.xor_self.symm
  | cons g gs ih =>
    have bit : (if (a ^^^ b).getLsbD i then g else 0) = (if a.getLsbD i then g else 0) ^^^ (if b.getLsbD i then g else 0) := by
      rw [BitVec.getLsbD_xor]
      cases a.getLsbD i <;> cases b.getLsbD i <;> simp
    rw [checkFrom, checkFrom, checkFrom, ih, bit]
    ac_rfl

/-- Only the bits that have a column count. -/
theorem checkFrom_congr {a b : Cell} {i : Nat} {gs : List (BitVec 8)} (h : ∀ j < i + gs.length, a.getLsbD j = b.getLsbD j) :
    checkFrom a i gs = checkFrom b i gs := by
  induction gs generalizing i with
  | nil => rfl
  | cons g gs ih =>
    rw [List.length_cons] at h
    rw [checkFrom, checkFrom, h i (by omega), ih fun j hj => h j (by omega)]

/-- From bit `pre.length` on, each bit that is 1 adds its column. -/
theorem foldl_columns (v : Cell) (pre gs : List (BitVec 8)) (a : BitVec 8) :
    (List.range' pre.length gs.length).foldl (fun a i => if v.getLsbD i then a ^^^ (pre ++ gs).getD i 0 else a) a =
      a ^^^ checkFrom v pre.length gs := by
  induction gs generalizing pre a with
  | nil => simp [checkFrom]
  | cons g gs ih =>
    have next := ih (pre ++ [g])
    simp only [List.length_append, List.length_singleton, List.append_assoc, List.singleton_append] at next
    have here : (pre ++ g :: gs).getD pre.length 0 = g := by simp
    rw [List.length_cons, List.range'_succ, List.foldl_cons, next, checkFrom, here]
    cases v.getLsbD pre.length <;> simp [BitVec.xor_assoc]

theorem checkOf_eq_columns (v : Cell) : checkOf v = (upto 56).foldl (fun a i => if v.getLsbD i then a ^^^ column i else a) 0 := by
  rw [checkOf, upto, List.range_eq_range']
  exact BitVec.zero_xor.symm.trans (foldl_columns v [] genCols 0).symm

theorem checkOf_sealCell (v : Cell) : checkOf (sealCell v) = checkOf v := by
  refine checkFrom_congr fun j hj => ?_
  have len : genCols.length = 56 := rfl
  rw [getLsbD_sealCell, if_pos (by omega)]

/-! ## Syndromes (R40) -/

theorem syndrome_xor (a b : Cell) : syndrome (a ^^^ b) = syndrome a ^^^ syndrome b := by
  simp only [syndrome, cChk, checkOf, checkFrom_xor, BitVec.extractLsb'_xor]
  ac_rfl

theorem syndrome_sealCell (v : Cell) : syndrome (sealCell v) = 0 := by
  have chk : cChk (sealCell v) = checkOf v := by
    rw [cChk]
    ext i hi
    rw [BitVec.getElem_extractLsb', getLsbD_sealCell, if_neg (by omega), Nat.add_sub_cancel_left]
    simp [hi]
  rw [syndrome, chk, checkOf_sealCell, BitVec.xor_self]
  rfl

/-- Recomputing CHECK adds the syndrome to it. -/
theorem sealCell_eq_xor (v : Cell) : sealCell v = v ^^^ ((syndrome v).setWidth 64 <<< 56) := by
  apply BitVec.eq_of_getLsbD_eq
  intro i hi
  rw [getLsbD_sealCell, BitVec.getLsbD_xor, BitVec.getLsbD_shiftLeft, BitVec.getLsbD_setWidth]
  by_cases low : i < 56
  · simp [low]
  · have same : 56 + (i - 56) = i := by omega
    simp [low, hi, syndrome, cChk, same, show i - 56 < 8 by omega, show i - 56 < 64 by omega]

/-! ## Syndromes of flipped bits -/

/-- The syndrome that a single wrong bit makes: its column, or the check bit itself. -/
def flipCol (i : Nat) : BitVec 8 := if i < 56 then column i else 1#8 <<< (i - 56)

theorem syndrome_bit : ∀ i < 64, syndrome (1#64 <<< i) = flipCol i := by
  decide +kernel

theorem flipCol_odd : ∀ i < 64, weightOf (flipCol i) % 2 = 1 := by
  decide +kernel

/-- No syndrome is made by two bits: the first bit that makes a bit's syndrome is the bit itself. -/
theorem flipCol_first : ∀ i < 64, (upto 64).find? (fun k => decide (flipCol k = flipCol i)) = some i := by
  decide +kernel

theorem flipCol_inj {i j : Nat} (hi : i < 64) (hj : j < 64) (h : flipCol i = flipCol j) : i = j := by
  have first := flipCol_first i hi
  rw [h, flipCol_first j hj] at first
  exact (Option.some.inj first).symm

/-- The parity of a sum is the sum of the parities. -/
theorem weightOf_xor (a b : BitVec 8) : weightOf (a ^^^ b) % 2 = (weightOf a + weightOf b) % 2 := by
  simp only [weightOf, BitVec.getLsbD_xor]
  induction upto 8 with
  | nil => rfl
  | cons i l ih =>
    simp only [List.filter_cons]
    cases a.getLsbD i <;> cases b.getLsbD i <;> simp <;> omega

/-- Two wrong bits make a syndrome of even weight other than 0: their syndromes are two different bytes of odd weight. -/
theorem flipCol_xor {i j : Nat} (hi : i < 64) (hj : j < 64) (hij : i ≠ j) :
    flipCol i ^^^ flipCol j ≠ 0 ∧ weightOf (flipCol i ^^^ flipCol j) % 2 = 0 := by
  constructor
  · exact fun e => hij (flipCol_inj hi hj (BitVec.xor_eq_zero_iff.mp e))
  · rw [weightOf_xor, Nat.add_mod, flipCol_odd i hi, flipCol_odd j hj]

/-! ## Verification by the syndrome (R40) -/

theorem verify_of_zero {v : Cell} (h : syndrome v = 0) : verify v = some (v, false) := by
  simp only [verify, h, if_true]

theorem checkBit_found : ∀ j < 8, 1#8 <<< j ≠ 0 ∧ (1#8 <<< j) &&& (1#8 <<< j - 1) = 0 ∧
    (BitVec.setWidth 64 (1#8 <<< j)) <<< 56 = 1#64 <<< (56 + j) := by
  decide +kernel

/-- A check bit is corrected. -/
theorem verify_of_checkBit {v : Cell} {j : Nat} (hj : j < 8) (h : syndrome v = 1#8 <<< j) :
    verify v = some (v ^^^ (1#64 <<< (56 + j)), true) := by
  obtain ⟨nonzero, power, place⟩ := checkBit_found j hj
  simp only [verify, h, if_neg nonzero, if_pos power, sealCell_eq_xor, place]

theorem column_found : ∀ i < 56, column i ≠ 0 ∧ column i &&& (column i - 1) ≠ 0 ∧ colIndex (column i) 0 genCols = some i := by
  decide +kernel

/-- A protected bit is corrected. -/
theorem verify_of_column {v : Cell} {i : Nat} (hi : i < 56) (h : syndrome v = column i) : verify v = some (v ^^^ (1#64 <<< i), true) := by
  obtain ⟨nonzero, power, found⟩ := column_found i hi
  simp only [verify, h, if_neg nonzero, if_neg power, found]

theorem uncorrectable_found : ∀ r : BitVec 8, weightOf r = 5 ∨ weightOf r = 7 ∨ (r ≠ 0 ∧ weightOf r % 2 = 0) →
    r ≠ 0 ∧ r &&& (r - 1) ≠ 0 ∧ colIndex r 0 genCols = none := by
  decide +kernel

theorem verify_of_uncorrectable {v : Cell} (h : weightOf (syndrome v) = 5 ∨ weightOf (syndrome v) = 7 ∨
    (syndrome v ≠ 0 ∧ weightOf (syndrome v) % 2 = 0)) : verify v = none := by
  obtain ⟨nonzero, power, lost⟩ := uncorrectable_found _ h
  simp only [verify, if_neg nonzero, if_neg power, lost]

theorem column_of_weight_three : ∀ g : BitVec 8, weightOf g = 3 → ((upto 56).filter fun i => decide (column i = g)).length = 1 := by
  decide +kernel

theorem verify_one_flip (v : Cell) {i : Nat} (hi : i < 64) : verify (sealCell v ^^^ (1#64 <<< i)) = some (sealCell v, true) := by
  have syn : syndrome (sealCell v ^^^ (1#64 <<< i)) = flipCol i := by
    rw [syndrome_xor, syndrome_sealCell, syndrome_bit i hi]
    exact BitVec.zero_xor
  have back : sealCell v ^^^ (1#64 <<< i) ^^^ (1#64 <<< i) = sealCell v := by
    rw [BitVec.xor_assoc, BitVec.xor_self, BitVec.xor_zero]
  unfold flipCol at syn
  split at syn
  · next low => rw [verify_of_column low syn, back]
  · rw [verify_of_checkBit (by omega) syn, Nat.add_sub_cancel' (by omega), back]

theorem verify_two_flips (v : Cell) {i j : Nat} (hi : i < 64) (hj : j < 64) (hij : i ≠ j) :
    verify (sealCell v ^^^ (1#64 <<< i) ^^^ (1#64 <<< j)) = none := by
  have syn : syndrome (sealCell v ^^^ (1#64 <<< i) ^^^ (1#64 <<< j)) = flipCol i ^^^ flipCol j := by
    rw [syndrome_xor, syndrome_xor, syndrome_sealCell, syndrome_bit i hi, syndrome_bit j hj]
    exact congrArg (· ^^^ _) BitVec.zero_xor
  exact verify_of_uncorrectable (.inr (.inr (by rw [syn]; exact flipCol_xor hi hj hij)))

/-! ## Corrections of memory are counted (R43, R716) -/

theorem putRaw_counters (a : PAddr) (v : Cell) (s : State) : (putRaw a v s).counters = s.counters := rfl

theorem clearRes_counters (ln : Nat) (who : Option CtxId) (s : State) : (clearRes ln who s).counters = s.counters := rfl

/-- Accepting a record counts at most the records that were lost (R718). -/
theorem acceptRec_counter (r : ErrRec) (s : State) {n : Nat} (hn : n ≠ 0x21) :
    mapGet 0 (acceptRec r s).counters n = mapGet 0 s.counters n := by
  unfold acceptRec
  dsimp only
  split
  · rfl
  · split
    · exact mapGet_mapSet_other 0 _ _ hn
    · rfl

/-- The record of a corrected cell notifies no one, and counts one correction, up to the counter's limit (R664). -/
theorem logEvent_corrected (d u : Nat) (c : Option CtxId) (a : Option Nat) (x : Nat) (s : State) :
    mapGet 0 (logEvent 0x0E 0 d u c a x s).counters 0x0E = min (2 ^ 32 - 1) (mapGet 0 s.counters 0x0E + 1) := by
  have only : logEvent 0x0E 0 d u c a x s = logOnly 0x0E 0 d u c a x s := rfl
  rw [only, logOnly, acceptRec_counter _ _ (by decide)]
  exact mapGet_mapSet_same ..

/-- A corrected cell without array errors is delivered corrected, and counted. -/
theorem readCell_corrected {c : Option CtxId} {a : PAddr} {v : Cell} {s : State} (hp : mapGet false s.poisoned a.toNat = false)
    (he : mapGet 0 s.arrErr a.toNat = 0) (hv : verify (cellAt s a) = some (v, true)) :
    (readCell c a s).1 = some v ∧ mapGet 0 (readCell c a s).2.counters 0x0E = min (2 ^ 32 - 1) (mapGet 0 s.counters 0x0E + 1) := by
  simp only [readCell, hp, Bool.false_eq_true, if_false, arrCheck_clean c a s he, hv, true_and, logEvent_corrected, clearRes_counters,
    putRaw_counters]

/-- Settles O9: CHECK is linear, so that the syndrome of a changed cell is the sum of the syndromes of its wrong bits; these are 64 different bytes
of odd weight, and verification is read off the syndrome. -/
theorem cellsCorrectOneBitAndDetectTwo : Obligations.CellsCorrectOneBitAndDetectTwo := by
  refine ⟨⟨by decide, rfl, rfl, rfl, by decide⟩, checkOf_eq_columns, column_of_weight_three, ?_, ?_, ?_⟩
  · exact fun v => ⟨verify_of_zero, fun j hj => verify_of_checkBit hj, fun i hi => verify_of_column hi, verify_of_uncorrectable⟩
  · exact fun c a v s hp he hv => readCell_corrected hp he hv
  · exact fun v => ⟨verify_of_zero (syndrome_sealCell v), fun i hi => verify_one_flip v hi, fun i j hi hj hij => verify_two_flips v hi hj hij⟩

end Sys2Proof.Proofs

/-! SUPPORT. Comparisons, type tests and predicate operations (R133 to R135, R165 to R167, R177): what the body of each of them lands. -/

namespace Sys2Proof.Proofs

open Sys2Proof.Machine Sys2Proof.Expected Sys2Proof.Laws

/-! ## Where a comparison lands (R133, R165) -/

/-- The landing of a comparison's answer at distance 2. -/
def cmpLand (d : CDst) (v : Bool) : Lands := [(2, cmpTgt d, cmpOut d v)]

theorem truth_eq (dst : BitVec 5) (v : Bool) : truth dst v = cmpLand (.w dst) v := rfl

theorem pred_eq (pd : BitVec 3) (v : Bool) : Expected.pred pd v = cmpLand (.p pd) v := by
  cases v <;> rfl

theorem truth_ne (dst : BitVec 5) (v : Bool) : truth dst v = cmpLand (.w dst) (v != false) := by
  rw [truth_eq, Bool.bne_false]

theorem pred_ne (pd : BitVec 3) (v : Bool) : Expected.pred pd v = cmpLand (.p pd) (v != false) := by
  rw [pred_eq, Bool.bne_false]

theorem pred_not (pd : BitVec 3) (v : Bool) : Expected.pred pd (!v) = cmpLand (.p pd) (v != true) := by
  rw [pred_eq, Bool.bne_true]

/-- A bit landed in a predicate. -/
theorem landP_pred (c : CtxId) (pd : BitVec 3) (v : Bool) (t : State) : landP c 2 pd v t = .ok () (landSeq c (Expected.pred pd v) t) := by
  rw [pred_eq]
  exact land_seq ..

theorem land_cmp (c : CtxId) (d : CDst) (v : Bool) (t : State) : land c 2 (cmpTgt d) (cmpOut d v) t = .ok () (landSeq c (cmpLand d v) t) :=
  land_seq ..

/-! ## Comparisons of operands (R166) -/

/-- Identity asks only that both operands are set. -/
theorem xIdent_lands {c : CtxId} {a b : Cell} (d : CDst) (neg : Bool) (t : State) (ua : cTyp a ≠ tUNSET) (ub : cTyp b ≠ tUNSET) :
    xIdent c d neg a b t = .ok .seq (landSeq c (cmpLand d (identical a b != neg)) t) := by
  rw [xIdent, x_bind_ok (chkUnset_pass 0 t ua), x_bind_ok (chkUnset_pass 1 t ub), x_bind_ok (land_cmp ..), x_pure]

/-- Two FIX are EQL when they are identical. -/
theorem numEql_fix {a b : Cell} (fa : cTyp a = tFIX) (fb : cTyp b = tFIX) : numEql (cellNum a) (cellNum b) = identical a b := by
  simp [cellNum, fixVal, numEql, identical, fa, fb, BitVec.toInt_inj]

theorem isHeavy_of_not_isNum {ty : BitVec 6} (h : isNum ty = false) : isHeavy ty = false := by
  simp_all [isNum, isHeavy]

/-- The operands of `eqlPlain` pass the checks of EQL, which then answers their identity. -/
theorem xEql_lands {c : CtxId} {a b : Cell} (w : BitVec 48) (d : CDst) (t : State) (h : eqlPlain a b = true) :
    xEql c w d a b t = .ok .seq (landSeq c (cmpLand d (identical a b)) t) := by
  simp only [eqlPlain, Bool.or_eq_true, Bool.and_eq_true, decide_eq_true_eq, Bool.not_eq_true'] at h
  rcases h with ⟨fa, fb⟩ | ⟨⟨⟨⟨⟨⟨⟨ua, ub⟩, ba⟩, bb⟩, na⟩, nb⟩, da⟩, db⟩
  · rw [xEql, x_bind_ok (chkTwo_fix t fa fb), x_bind_ok (chkDispatch_fix t fa fb), if_neg (by simp [fa, fb, isHeavy]),
      if_pos (by simp [fa, fb, isNum]), numEql_fix fa fb, x_bind_ok (land_cmp ..), x_pure]
  · rw [xEql, x_bind_ok (chkTwo_pass t ua ub ba bb), x_bind_ok (chkDispatch_pass t da db), isHeavy_of_not_isNum na, isHeavy_of_not_isNum nb,
      na, nb, if_neg (by decide), if_neg (by decide), x_bind_ok (land_cmp ..), x_pure]

/-- Two FIX or two CHAR are compared as integers; the flags of FIX, of which there are none, are added to FPFLAGS. -/
theorem xOrd_lands {c : CtxId} {a b : Cell} {m n : Int} (w : BitVec 48) (d : CDst) (r : Rel) (t : State)
    (h : ordered a b = some (m, n)) :
    BodyLands c (xOrd c w d r a b) (cmpLand d (relInt r m n)) t := by
  unfold ordered at h
  split at h
  · next fix =>
    obtain ⟨fa, fb⟩ := fix
    cases h
    right
    have num : numRel r (cellNum a) (cellNum b) = (relInt r (cDat a).toInt (cDat b).toInt, 0) := by
      simp [cellNum, fa, fb, numRel_int, fixVal]
    rw [xOrd, x_bind_ok (chkTwo_fix t fa fb), x_bind_ok (chkDispatch_fix t fa fb), if_neg (by simp [fa]), if_neg (by simp [fa, fb, isNum]),
      if_neg (by simp [fa, fb, isHeavy]), num, x_bind_ok (landFp_none ..), x_pure]
    rfl
  · split at h
    · next char =>
      obtain ⟨ca, cb, ba, bb⟩ := char
      cases h
      left
      rw [xOrd, x_bind_ok (chkTwo_pass t (by simp [ca]) (by simp [cb]) (by simpa using ba) (by simpa using bb)),
        x_bind_ok (chkDispatch_pass t (by simp [ca, dispatches]) (by simp [cb, dispatches])), if_pos ⟨ca, cb⟩, relHolds_compare_nat,
        x_bind_ok (land_cmp ..), x_pure]
    · cases h

/-! ## The operands of the rules, and the bodies that read them -/

theorem ident2_eq_some {x : Ctx} {ra rb : BitVec 5} {v : Bool} : ident2 x ra rb = some v ↔
    ∃ a b, opnd x ra = some a ∧ opnd x rb = some b ∧ cTyp a ≠ tUNSET ∧ cTyp b ≠ tUNSET ∧ identical a b = v := by
  simp [ident2, Option.bind_eq_some_iff, need_eq_some, identical, and_assoc]

theorem identI_eq_some {x : Ctx} {ra : BitVec 5} {i : BitVec 24} {v : Bool} : identI x ra i = some v ↔
    ∃ a, opnd x ra = some a ∧ cTyp a ≠ tUNSET ∧ identical a (immFix i) = v := by
  simp [identI, Option.bind_eq_some_iff, need_eq_some, identical]

theorem eql2_eq_some {x : Ctx} {ra rb : BitVec 5} {v : Bool} : eql2 x ra rb = some v ↔
    ∃ a b, opnd x ra = some a ∧ opnd x rb = some b ∧ eqlPlain a b = true ∧ identical a b = v := by
  simp [eql2, Option.bind_eq_some_iff, need_eq_some, identical]

theorem ord2_eq_some {x : Ctx} {ra rb : BitVec 5} {rel : Int → Int → Bool} {v : Bool} : ord2 x ra rb rel = some v ↔
    ∃ a b m n, opnd x ra = some a ∧ opnd x rb = some b ∧ ordered a b = some (m, n) ∧ rel m n = v := by
  simp [ord2, Option.bind_eq_some_iff]

/-- An immediate is ordered with a FIX as the FIX that it stands for (R128). -/
theorem ordI_eq_some {x : Ctx} {ra : BitVec 5} {i : BitVec 24} {rel : Int → Int → Bool} {v : Bool} : ordI x ra i rel = some v ↔
    ∃ a, opnd x ra = some a ∧ cTyp a = tFIX ∧ rel (cDat a).toInt (cDat (immFix i)).toInt = v := by
  simp [ordI, Option.bind_eq_some_iff, need_eq_some, BitVec.toInt_signExtend_of_le]

section
variable {c : CtxId} {t : State} {ls : Lands} {g : Bool → Lands} {d : CDst}

theorem identRegs_lands {ra rb : BitVec 5} {neg : Bool} (hg : ∀ v, g v = cmpLand d (v != neg))
    (h : (ident2 (getCtx t c) ra rb).map g = some ls) :
    BodyLands c (xRegs c ra rb >>= fun r => xIdent c d neg r.1 r.2) ls t := by
  obtain ⟨v, hv, rfl⟩ := Option.map_eq_some_iff.mp h
  obtain ⟨a, b, ha, hb, ua, ub, rfl⟩ := ident2_eq_some.mp hv
  rw [hg]
  exact .inl ((x_bind_ok (xRegs_opnd ha hb)).trans (xIdent_lands d neg t ua ub))

theorem identImm_lands {ra : BitVec 5} {i : BitVec 24} {neg : Bool} (hg : ∀ v, g v = cmpLand d (v != neg))
    (h : (identI (getCtx t c) ra i).map g = some ls) :
    BodyLands c (wRead c ra >>= fun a => xIdent c d neg a (immFix i)) ls t := by
  obtain ⟨v, hv, rfl⟩ := Option.map_eq_some_iff.mp h
  obtain ⟨a, ha, ua, rfl⟩ := identI_eq_some.mp hv
  rw [hg]
  exact .inl ((x_bind_ok (wRead_opnd ha)).trans (xIdent_lands d neg t ua (by simp)))

theorem eqlRegs_lands {ra rb : BitVec 5} {w : BitVec 48} (hg : ∀ v, g v = cmpLand d v)
    (h : (eql2 (getCtx t c) ra rb).map g = some ls) :
    BodyLands c (xRegs c ra rb >>= fun r => xEql c w d r.1 r.2) ls t := by
  obtain ⟨v, hv, rfl⟩ := Option.map_eq_some_iff.mp h
  obtain ⟨a, b, ha, hb, plain, rfl⟩ := eql2_eq_some.mp hv
  rw [hg]
  exact .inl ((x_bind_ok (xRegs_opnd ha hb)).trans (xEql_lands w d t plain))

/-- A FIX equals an immediate as an integer when it is identical to it. -/
theorem eqlImm_lands {ra : BitVec 5} {i : BitVec 24} {w : BitVec 48} (hg : ∀ v, g v = cmpLand d v)
    (h : (ordI (getCtx t c) ra i fun a b => a = b).map g = some ls) :
    BodyLands c (wRead c ra >>= fun a => xEql c w d a (immFix i)) ls t := by
  obtain ⟨v, hv, rfl⟩ := Option.map_eq_some_iff.mp h
  obtain ⟨a, ha, fa, rfl⟩ := ordI_eq_some.mp hv
  have same : decide ((cDat a).toInt = (cDat (immFix i)).toInt) = identical a (immFix i) := by
    simp [identical, fa, BitVec.toInt_inj]
  rw [hg, same]
  exact .inl ((x_bind_ok (wRead_opnd ha)).trans (xEql_lands w d t (by simp [eqlPlain, fa])))

theorem ordRegs_lands {ra rb : BitVec 5} {w : BitVec 48} (r : Rel) (hg : ∀ v, g v = cmpLand d v)
    (h : (ord2 (getCtx t c) ra rb (relInt r)).map g = some ls) :
    BodyLands c (xRegs c ra rb >>= fun v => xOrd c w d r v.1 v.2) ls t := by
  obtain ⟨v, hv, rfl⟩ := Option.map_eq_some_iff.mp h
  obtain ⟨a, b, m, n, ha, hb, ho, rfl⟩ := ord2_eq_some.mp hv
  rw [hg, BodyLands, x_bind_ok (xRegs_opnd ha hb)]
  exact xOrd_lands w d r t ho

theorem ordImm_lands {ra : BitVec 5} {i : BitVec 24} {w : BitVec 48} (r : Rel) (hg : ∀ v, g v = cmpLand d v)
    (h : (ordI (getCtx t c) ra i (relInt r)).map g = some ls) :
    BodyLands c (wRead c ra >>= fun a => xOrd c w d r a (immFix i)) ls t := by
  obtain ⟨v, hv, rfl⟩ := Option.map_eq_some_iff.mp h
  obtain ⟨a, ha, fa, rfl⟩ := ordI_eq_some.mp hv
  have ho : ordered a (immFix i) = some ((cDat a).toInt, (cDat (immFix i)).toInt) := if_pos ⟨fa, cTyp_immFix i⟩
  rw [hg, BodyLands, x_bind_ok (wRead_opnd ha)]
  exact xOrd_lands w d r t ho

/-- A type test reads its operand and checks nothing (R177). -/
theorem test_lands {f : FP} {p : Cell → Bool} {q : BitVec 6 → Datum → Bool} (h : test (getCtx t c) f q = some ls)
    (hq : ∀ a, q (cTyp a) (cDat a) = p a) : BodyLands c (xTest c f p) ls t := by
  obtain ⟨a, ha, rfl⟩ := Option.map_eq_some_iff.mp h
  rw [hq]
  exact .inl (by rw [xTest, x_bind_ok (wRead_opnd ha), x_bind_ok (landP_pred ..), x_pure])

theorem xPred_lands (f : FPL) (op : Bool → Bool → Bool) :
    BodyLands c (xPred c f op) (Expected.pred f.pd (op (pGet (getCtx t c) f.pa) (pGet (getCtx t c) f.pb))) t :=
  .inl (by rw [xPred, x_bind_ok (xCtx_eq c t), x_bind_ok (landP_pred ..), x_pure])

end

/-- The body of each instruction of the table lands what the table says. -/
theorem compares_body {i : Instr} {h : Hd} {w : BitVec 48} {t : State} {ls : Lands} (hd : headOf i = some h) (hw : encodeWord i = some w)
    (hl : compares (getCtx t h.ctx) i = some ls) : ∃ body, (∀ s, exec i s = issueOut h w body s) ∧ BodyLands h.ctx body ls t := by
  cases i with (cases hd <;> cases hw)
  | eq _ f => exact ⟨_, fun _ => rfl, identRegs_lands (truth_ne f.dst) hl⟩
  | eql _ f => exact ⟨_, fun _ => rfl, eqlRegs_lands (truth_eq f.dst) hl⟩
  | lt _ f => exact ⟨_, fun _ => rfl, ordRegs_lands .lt (truth_eq f.dst) hl⟩
  | le _ f => exact ⟨_, fun _ => rfl, ordRegs_lands .le (truth_eq f.dst) hl⟩
  | gt _ f => exact ⟨_, fun _ => rfl, ordRegs_lands .gt (truth_eq f.dst) hl⟩
  | ge _ f => exact ⟨_, fun _ => rfl, ordRegs_lands .ge (truth_eq f.dst) hl⟩
  | cmpeq _ f => exact ⟨_, fun _ => rfl, identRegs_lands (pred_ne f.pd) hl⟩
  | cmpne _ f => exact ⟨_, fun _ => rfl, identRegs_lands (pred_not f.pd) hl⟩
  | cmpeql _ f => exact ⟨_, fun _ => rfl, eqlRegs_lands (pred_eq f.pd) hl⟩
  | cmplt _ f => exact ⟨_, fun _ => rfl, ordRegs_lands .lt (pred_eq f.pd) hl⟩
  | cmple _ f => exact ⟨_, fun _ => rfl, ordRegs_lands .le (pred_eq f.pd) hl⟩
  | cmpgt _ f => exact ⟨_, fun _ => rfl, ordRegs_lands .gt (pred_eq f.pd) hl⟩
  | cmpge _ f => exact ⟨_, fun _ => rfl, ordRegs_lands .ge (pred_eq f.pd) hl⟩
  | cmpeqi _ f => exact ⟨_, fun _ => rfl, identImm_lands (pred_ne f.pd) hl⟩
  | cmpnei _ f => exact ⟨_, fun _ => rfl, identImm_lands (pred_not f.pd) hl⟩
  | cmpeqli _ f => exact ⟨_, fun _ => rfl, eqlImm_lands (pred_eq f.pd) hl⟩
  | cmplti _ f => exact ⟨_, fun _ => rfl, ordImm_lands .lt (pred_eq f.pd) hl⟩
  | cmplei _ f => exact ⟨_, fun _ => rfl, ordImm_lands .le (pred_eq f.pd) hl⟩
  | cmpgti _ f => exact ⟨_, fun _ => rfl, ordImm_lands .gt (pred_eq f.pd) hl⟩
  | cmpgei _ f => exact ⟨_, fun _ => rfl, ordImm_lands .ge (pred_eq f.pd) hl⟩
  | ttype _ f =>
    simp only [compares] at hl
    exact ⟨_, fun _ => rfl, test_lands hl fun _ => rfl⟩
  | tptr _ f =>
    simp only [compares] at hl
    exact ⟨_, fun _ => rfl, test_lands hl fun _ => (Bool.decide_and ..).symm⟩
  | timm _ f =>
    simp only [compares] at hl
    exact ⟨_, fun _ => rfl, test_lands hl fun a => by simp [Bool.decide_and, ← BitVec.toNat_inj]⟩
  | tlist _ f =>
    simp only [compares] at hl
    exact ⟨_, fun _ => rfl, test_lands hl fun a => by simp [isNil]⟩
  | tnum _ f =>
    simp only [compares] at hl
    exact ⟨_, fun _ => rfl, test_lands hl fun a => by simp [isNum]⟩
  | pand _ f | por _ f | pxor _ f | pandn _ f | pnot _ f | pmov _ f =>
    cases hl
    exact ⟨_, fun _ => rfl, xPred_lands f _⟩
  | pflag _ f =>
    cases hl
    exact ⟨_, fun _ => rfl, .inl (by rw [x_bind_ok (xCtx_eq _ t), x_bind_ok (landP_pred ..), x_pure])⟩
  | _ => cases hl

/-- Settles O13: each instruction of the table is the issue of a body that makes just the landings of the table. -/
theorem comparisonsLandATruthValue : Obligations.ComparisonsLandATruthValue := by
  intro i h w s ls hd hw hi hl
  obtain ⟨body, he, hb⟩ := compares_body hd hw hl
  rw [he, issueOut_bodyLands hi hb]

end Sys2Proof.Proofs

/-! SUPPORT. CONS, ALLOC and their immortal forms (R56, R190 to R194). -/

namespace Sys2Proof.Proofs

open Sys2Proof.Machine Sys2Proof.Expected Sys2Proof.Laws

/-- CONS and CONS.I are one body under two words. -/
theorem exec_cons {h : Hd} {f : FA} {w : BitVec 48} {imm : Bool} {s : State}
    (hw : encodeWord (if imm then .consI h f else .cons h f) = some w) :
    exec (if imm then .consI h f else .cons h f) s = issueOut h w (xCons h f w imm) s := by
  cases imm <;> cases hw <;> rfl

/-- ALLOC and ALLOC.I are one body under two words. -/
theorem exec_alloc {h : Hd} {f : FA} {w : BitVec 48} {imm : Bool} {s : State}
    (hw : encodeWord (if imm then .allocI h f else .alloc h f) = some w) :
    exec (if imm then .allocI h f else .alloc h f) s = issueOut h w (xAllocIssue h f w imm) s := by
  cases imm <;> cases hw <;> rfl

theorem xCons_ok {h : Hd} {f : FA} {w : BitVec 48} {imm : Bool} {s t : State} {a b : Cell} {p : VAddr}
    (ha : opnd (getCtx s h.ctx) f.sa = some a) (hb : opnd (getCtx s h.ctx) f.sb = some b)
    (hp : xAlloc h.ctx false 2 [a, b] s = .ok p t) :
    xCons h f w imm s = .ok .seq (landSeq h.ctx [(4, .word f.dst, mkCell (newCol t h.ctx imm) tCONS p)] t) := by
  rw [xCons, x_bind_ok (wRead_opnd ha), x_bind_ok (wRead_opnd hb), xMemOp_ok (memBasic_cons w f.dst hp)]

/-- The checks of ALLOC (R190): a header in SA, a pointer type in a FIX in SB, a length that an object can have. -/
theorem xAllocIssue_ok {h : Hd} {f : FA} {w : BitVec 48} {imm : Bool} {s t : State} {a : Cell} {ty : Datum} {p : VAddr}
    (ha : opnd (getCtx s h.ctx) f.sa = some a) (hd : cTyp a = tHDR) (hl : hdrLen a ≤ 65535)
    (hb : fixOpnd (getCtx s h.ctx) f.sb = some ty) (ht : allocType ty = true)
    (hp : xAlloc h.ctx false ((hdrLen a + 2) / 2 * 2) [a] s = .ok p t) :
    xAllocIssue h f w imm s =
      .ok .seq (landSeq h.ctx [(4, .word f.dst, mkCell (newCol t h.ctx imm) (ty.extractLsb' 0 6) p)] t) := by
  obtain ⟨b, rb, fb, rfl⟩ := fixOpnd_eq_some.mp hb
  have ck : chkTwo a b s = .ok () s := chkTwo_pass s (by simp [hd]) (by simp [fb]) (badCell_hdr hd) (badCell_fix fb)
  rw [xAllocIssue, x_bind_ok (xTwo_opnd ha rb ck), if_neg (by simp [hd, fb, ht]), if_neg (Nat.not_lt.mpr hl)]
  exact xMemOp_ok (memBasic_alloc w f.dst hp)

/-- Settles O19: the operand reads and checks of CONS and ALLOC pass, the memory phase is served in the slot, and what it lands is a pointer to
the object that the allocation made. -/
theorem allocationsLandAPointer : Obligations.AllocationsLandAPointer := by
  refine ⟨?_, ?_⟩
  · intro h f w s t a b imm p ⟨_, hw, hi⟩ ha hb hp
    rw [exec_cons hw, issueOut_done hi (xCons_ok ha hb hp)]
    rfl
  · intro h f w s t a ty imm p ⟨_, hw, hi⟩ ha hd hl hb ht hp
    rw [exec_alloc hw, issueOut_done hi (xAllocIssue_ok ha hd hl hb ht hp)]
    rfl

end Sys2Proof.Proofs

/-! SUPPORT. nil, the fixed predicate and its guard (R51, R78, R107). -/

namespace Sys2Proof.Proofs

open Sys2Proof.Machine Sys2Proof.Expected Sys2Proof.Laws

theorem pGet_zero (x : Ctx) : pGet x 0 = true := rfl

theorem pSet_zero (x : Ctx) (v : Bool) : pSet x 0 v = x := rfl

/-- The bits of a vector with one bit replaced. -/
theorem getLsbD_setBit {w : Nat} (x : BitVec w) {i : Nat} (j : Nat) (v : Bool) (hi : i < w) :
    (setBit x i v).getLsbD j = if j = i then v else x.getLsbD j := by
  rw [setBit, ← BitVec.twoPow_eq]
  by_cases e : j = i
  · cases v <;> simp [e, hi]
  · cases v
    · simpa [e, Ne.symm e] using x.lt_of_getLsbD
    · simp [e, Ne.symm e]

/-- A predicate other than p0 holds what was written last, and a write leaves the others alone. -/
theorem pGet_pSet (x : Ctx) (n m : BitVec 3) (v : Bool) : pGet (pSet x n v) m = if m = n ∧ n ≠ 0 then v else pGet x m := by
  by_cases hn : n = 0
  · simp [pSet, hn]
  · have read : pGet (pSet x n v) m = (decide (m = 0) || if m = n then v else x.preds.getLsbD m.toNat) := by
      simp only [← BitVec.toNat_inj (x := m) (y := n), ← getLsbD_setBit x.preds m.toNat v n.isLt]
      rw [pSet, if_neg hn]
      rfl
    rw [read]
    by_cases e : m = n
    · rw [decide_eq_false (e ▸ hn), if_pos e, if_pos ⟨e, hn⟩, Bool.false_or]
    · rw [if_neg e, if_neg fun both => e both.1]
      rfl

/-- Without a tier-2 read among them, no landing is performed early. -/
theorem bitsRead_none {c : CtxId} {f : Landing → Bool} {s : State} (hb : ∀ l ∈ (getCtx s c).land, l.bit = none) : bitsRead c f s = s := by
  have e : ((getCtx s c).land.any fun l => l.bit.isSome && f l) = false := by
    rw [List.any_eq_false]
    intro l hl
    simp [hb l hl]
  simp [bitsRead, e]

/-- A single predicate landing that is due takes effect (R96). -/
theorem applyDue_pred {c : CtxId} {l : Landing} {n : BitVec 3} {s : State} (hl : (getCtx s c).land = [l]) (ht : l.tgt = .pred n)
    (ha : l.arrived = true) (hf : l.fpx = none) (hb : l.bit = none) (hd : l.slot ≤ (getCtx s c).flow.slot)
    (hs : (getCtx s c).st ≠ .free) : getCtx (applyDue c s) c = pSet { getCtx s c with land := [] } n (l.val.getLsbD 0) := by
  have e : ∀ f, bitsRead c f s = s := fun f => bitsRead_none (by simp [hl, hb])
  simp [applyDue, e, hl, ha, hf, hd, hs, insLand, applyLand, ht]

/-- In a slot with nothing due at its boundary, an instruction whose guard is false only uses its slot (R107). -/
theorem issueOut_guardFalse {h : Hd} {w : BitVec 48} {body : X Adv} {s : State} (hs : atSlot h s = true)
    (he : encOk w (slotStart h.ctx s).extEn = true) (hg : pGet (getCtx (slotStart h.ctx s) h.ctx) h.gpred = h.ginv) :
    issueOut h w body s = .next (slotResult h.ctx .seq [] (slotStart h.ctx s)) := by
  simp only [atSlot, Bool.and_eq_true, decide_eq_true_eq, Option.isNone_iff_eq_none, Bool.not_eq_true'] at hs
  obtain ⟨⟨⟨⟨⟨⟨⟨⟨⟨⟨⟨⟨run0, iss⟩, flip⟩, inv⟩, file⟩, run⟩, park⟩, wait⟩, bnd⟩, want⟩, skip⟩, past⟩, fp⟩ := hs
  rw [← slotDone_running run park wait]
  simp only [slotStart] at *
  simp [issueOut, issue, slotRun, run0, iss, flip, inv, file, run, park, bnd, want, skip, past, he, hg]

/-- What `canIssue` asks beyond `atSlot`. -/
theorem canIssue_of_atSlot {h : Hd} {w : BitVec 48} {s : State} (hs : atSlot h s = true)
    (he : encOk w (slotStart h.ctx s).extEn = true) (hg : pGet (getCtx (slotStart h.ctx s) h.ctx) h.gpred ≠ h.ginv)
    (hl : minLevel w ≤ (getCtx (slotStart h.ctx s) h.ctx).level.toNat) (hf : flowFault (getCtx (slotStart h.ctx s) h.ctx) w = none)
    (hr : resumes (getCtx (slotStart h.ctx s) h.ctx) w = none)
    (hk : iMajor w = 0x38 → recorded (getCtx (slotStart h.ctx s) h.ctx) = false) : canIssue h w s = true := by
  simp only [atSlot, Bool.and_eq_true] at hs
  obtain ⟨slot, _⟩ := hs
  have keeps : (!(decide (iMajor w = 0x38) && Machine.recorded (getCtx (slotStart h.ctx s) h.ctx))) = true := by
    by_cases e : iMajor w = 0x38
    · simp [hk e]
    · simp [e]
  simp only [canIssue, slot, he, decide_eq_true hg, hl, hf, hr, keeps]
  rfl

/-- Settles O5: nil and p0 are read off their definitions; with p0 as guard the guard's value is 1, so that the slot is used only (with
invert) or runs the instruction (without); and a single due landing is applied at the slot. -/
theorem nilAndTheFixedPredicateRead : Obligations.NilAndTheFixedPredicateRead := by
  refine ⟨?_, ?_, ?_, ?_⟩
  · exact fun x => ⟨rfl, by decide, by decide, by decide, pGet_zero x, pSet_zero x,
      fun n m v hn => by simp only [pGet_pSet, hn, ne_eq, not_false_eq_true, and_true]⟩
  · intro i h w s hd hw hs hp hv he
    obtain ⟨body, hx⟩ := exec_issues hd hw
    rw [hx, issueOut_guardFalse hs he (by rw [hp, hv, pGet_zero])]
  · intro h w s y hs hp hv he hl hf hr hk
    exact canIssue_of_atSlot hs he (by rw [hp, hv, pGet_zero]; decide) hl hf hr hk
  · intro c l n s hl ht ha hf hb hd hs m
    rw [slotStart, applyDue_pred hl ht ha hf hb hd hs, pGet_pSet]
    rfl

end Sys2Proof.Proofs

/-! SUPPORT. Instruction words decode to the instructions that they encode (R122 to R147). -/

namespace Sys2Proof.Proofs

open Sys2Proof.Machine

/-! ## Fields of concatenations

The library's lemmas on `extractLsb'` and `getLsbD` of `++`, with the sum of the widths left out of the index of `simp`, so that they rewrite words
whose width is written as a numeral. -/

@[simp] theorem extract_append_low {v w start len : Nat} (x : BitVec v) (y : BitVec w) (h : start + len ≤ w) :
    BitVec.extractLsb' (n := no_index (v + w)) start len (HAppend.hAppend (γ := no_index (BitVec (v + w))) x y) = y.extractLsb' start len :=
  BitVec.extractLsb'_append_eq_of_add_le h

@[simp] theorem extract_append_high {v w start len : Nat} (x : BitVec v) (y : BitVec w) (h : w ≤ start) :
    BitVec.extractLsb' (n := no_index (v + w)) start len (HAppend.hAppend (γ := no_index (BitVec (v + w))) x y) =
      x.extractLsb' (start - w) len :=
  BitVec.extractLsb'_append_eq_of_le h

@[simp] theorem bit_append_low {v w i : Nat} (x : BitVec v) (y : BitVec w) (h : i < w) :
    BitVec.getLsbD (w := no_index (v + w)) (HAppend.hAppend (γ := no_index (BitVec (v + w))) x y) i = y.getLsbD i :=
  BitVec.getLsbD_append.trans (if_pos h)

@[simp] theorem bit_append_high {v w i : Nat} (x : BitVec v) (y : BitVec w) (h : w ≤ i) :
    BitVec.getLsbD (w := no_index (v + w)) (HAppend.hAppend (γ := no_index (BitVec (v + w))) x y) i = x.getLsbD (i - w) :=
  BitVec.getLsbD_append.trans (if_neg (Nat.not_lt.mpr h))

@[simp] theorem b1_bit (b : Bool) : (b1 b).getLsbD 0 = b := by
  cases b <;> rfl

/-- The major of a bit instruction says its tier (R134). -/
theorem bitMajor_bit (b : Bool) : (if b then 0x11#8 else 0x10#8).getLsbD 0 = b := by
  cases b <;> rfl

theorem bitMajor_fmt (b : Bool) : fmtOf (if b then 0x11#8 else 0x10#8).toNat = some .bt := by
  cases b <;> rfl

/-! ## What is read back from the word of each format (R123) -/

section
variable (maj minor : BitVec 8) (h : Hd)

theorem encA_reads (f : FA) : let w := encA maj minor h f
    w.extractLsb' 40 8 = maj ∧ wordHd h.ctx w = h ∧ w.extractLsb' 0 8 = minor ∧ wordA w = f := by
  simp [-BitVec.getLsbD_eq_getElem, encA, encHd, wordHd, wordA]

theorem encI_reads (op : BitVec 4) (f : FI) : let w := encI maj op h f
    w.extractLsb' 40 8 = maj ∧ wordHd h.ctx w = h ∧ w.extractLsb' 21 4 = op ∧ wordI w = f := by
  simp [-BitVec.getLsbD_eq_getElem, encI, encHd, wordHd, wordI]

theorem encW_reads (hi : Bool) (f : FW) : let w := encW hi h f
    w.extractLsb' 40 8 = 0x03 ∧ wordHd h.ctx w = h ∧ w.extractLsb' 25 1 = b1 hi ∧ wordW w = f := by
  simp [-BitVec.getLsbD_eq_getElem, encW, encHd, wordHd, wordW]

theorem encP_reads (f : FP) : let w := encP minor h f
    w.extractLsb' 40 8 = 0x0C ∧ wordHd h.ctx w = h ∧ w.extractLsb' 0 8 = minor ∧ wordP w = f := by
  simp [-BitVec.getLsbD_eq_getElem, encP, encHd, wordHd, wordP]

theorem encPI_reads (op : BitVec 4) (f : FPI) : let w := encPI op h f
    w.extractLsb' 40 8 = 0x0D ∧ wordHd h.ctx w = h ∧ w.extractLsb' 24 4 = op ∧ wordPI w = f := by
  simp [-BitVec.getLsbD_eq_getElem, encPI, encHd, wordHd, wordPI]

theorem encPL_reads (f : FPL) : let w := encPL minor h f
    w.extractLsb' 40 8 = 0x0E ∧ wordHd h.ctx w = h ∧ w.extractLsb' 0 8 = minor ∧ wordPL w = f := by
  simp [-BitVec.getLsbD_eq_getElem, encPL, encHd, wordHd, wordPL]

theorem encBT_reads (op : BitVec 3) (f : FBT) : let w := encBT op h f
    w.extractLsb' 40 8 = (if f.bitx then 0x11#8 else 0x10#8) ∧ wordHd h.ctx w = h ∧ w.extractLsb' 25 3 = op ∧ wordBT w = f := by
  simp [-BitVec.getLsbD_eq_getElem, encBT, encHd, wordHd, wordBT, bitMajor_bit]

theorem encM_reads (op : BitVec 2) (f : FM) : let w := encM maj op h f
    w.extractLsb' 40 8 = maj ∧ wordHd h.ctx w = h ∧ w.extractLsb' 24 2 = op ∧ wordM w = f := by
  simp [-BitVec.getLsbD_eq_getElem, encM, encHd, wordHd, wordM]

theorem encMA_reads (op : BitVec 2) (f : FMA) : let w := encMA op h f
    w.extractLsb' 40 8 = 0x1A ∧ wordHd h.ctx w = h ∧ w.extractLsb' 24 2 = op ∧ wordMA w = f := by
  simp [-BitVec.getLsbD_eq_getElem, encMA, encHd, wordHd, wordMA]

theorem encB_reads (f : FB) : let w := encB maj h f
    w.extractLsb' 40 8 = maj ∧ wordHd h.ctx w = h ∧ wordB w = f := by
  simp [-BitVec.getLsbD_eq_getElem, encB, encHd, wordHd, wordB]

theorem encL_reads (f : FL) : let w := encL h f
    w.extractLsb' 40 8 = 0x23 ∧ wordHd h.ctx w = h ∧ wordL w = f := by
  simp [-BitVec.getLsbD_eq_getElem, encL, encHd, wordHd, wordL]

theorem encC_reads (f : FC) : let w := encC maj h f
    w.extractLsb' 40 8 = maj ∧ wordHd h.ctx w = h ∧ wordC w = f := by
  simp [-BitVec.getLsbD_eq_getElem, encC, encHd, wordHd, wordC]

theorem encX_reads (f : FX) : let w := encX maj h f
    w.extractLsb' 40 8 = maj ∧ wordHd h.ctx w = h ∧ wordX w = f := by
  simp [-BitVec.getLsbD_eq_getElem, encX, encHd, wordHd, wordX]

end

/-! ## Decoding the word of each format (R132 to R144) -/

section
variable {maj minor : BitVec 8} {h : Hd}

theorem decodeWord_encA {f : FA} (fmt : fmtOf maj.toNat = some .a) (ok : encOk (encA maj minor h f) 0xFF = true) :
    decodeWord h.ctx (encA maj minor h f) = pickOpc opcodesA maj.toNat minor.toNat h f := by
  obtain ⟨hm, hh, ho, hf⟩ := encA_reads maj minor h f
  simp only [decodeWord, ok, fmt, hm, hh, ho, hf, Bool.not_true, Bool.false_eq_true, if_false]

theorem decodeWord_encI {op : BitVec 4} {f : FI} (fmt : fmtOf maj.toNat = some .i) (ok : encOk (encI maj op h f) 0xFF = true) :
    decodeWord h.ctx (encI maj op h f) = pickOpc opcodesI maj.toNat op.toNat h f := by
  obtain ⟨hm, hh, ho, hf⟩ := encI_reads maj h op f
  simp only [decodeWord, ok, fmt, hm, hh, ho, hf, Bool.not_true, Bool.false_eq_true, if_false]

theorem decodeWord_encW {hi : Bool} {f : FW} (ok : encOk (encW hi h f) 0xFF = true) :
    decodeWord h.ctx (encW hi h f) = pickOpc opcodesW (0x03 : BitVec 8).toNat (b1 hi).toNat h f := by
  obtain ⟨hm, hh, ho, hf⟩ := encW_reads h hi f
  have fmt : fmtOf (0x03 : BitVec 8).toNat = some .w := rfl
  simp only [decodeWord, ok, fmt, hm, hh, ho, hf, Bool.not_true, Bool.false_eq_true, if_false]

theorem decodeWord_encP {f : FP} (ok : encOk (encP minor h f) 0xFF = true) :
    decodeWord h.ctx (encP minor h f) = pickOpc opcodesP (0x0C : BitVec 8).toNat minor.toNat h f := by
  obtain ⟨hm, hh, ho, hf⟩ := encP_reads minor h f
  have fmt : fmtOf (0x0C : BitVec 8).toNat = some .p := rfl
  simp only [decodeWord, ok, fmt, hm, hh, ho, hf, Bool.not_true, Bool.false_eq_true, if_false]

theorem decodeWord_encPI {op : BitVec 4} {f : FPI} (ok : encOk (encPI op h f) 0xFF = true) :
    decodeWord h.ctx (encPI op h f) = pickOpc opcodesPI (0x0D : BitVec 8).toNat op.toNat h f := by
  obtain ⟨hm, hh, ho, hf⟩ := encPI_reads h op f
  have fmt : fmtOf (0x0D : BitVec 8).toNat = some .pi := rfl
  simp only [decodeWord, ok, fmt, hm, hh, ho, hf, Bool.not_true, Bool.false_eq_true, if_false]

theorem decodeWord_encPL {f : FPL} (ok : encOk (encPL minor h f) 0xFF = true) :
    decodeWord h.ctx (encPL minor h f) = pickOpc opcodesPL (0x0E : BitVec 8).toNat minor.toNat h f := by
  obtain ⟨hm, hh, ho, hf⟩ := encPL_reads minor h f
  have fmt : fmtOf (0x0E : BitVec 8).toNat = some .pl := rfl
  simp only [decodeWord, ok, fmt, hm, hh, ho, hf, Bool.not_true, Bool.false_eq_true, if_false]

theorem decodeWord_encBT {op : BitVec 3} {f : FBT} (ok : encOk (encBT op h f) 0xFF = true) :
    decodeWord h.ctx (encBT op h f) = pickOpc opcodesBT 0x10 op.toNat h f := by
  obtain ⟨hm, hh, ho, hf⟩ := encBT_reads h op f
  simp only [decodeWord, ok, bitMajor_fmt, hm, hh, ho, hf, Bool.not_true, Bool.false_eq_true, if_false]

theorem decodeWord_encM {op : BitVec 2} {f : FM} (fmt : fmtOf maj.toNat = some .m) (ok : encOk (encM maj op h f) 0xFF = true) :
    decodeWord h.ctx (encM maj op h f) = pickOpc opcodesM maj.toNat op.toNat h f := by
  obtain ⟨hm, hh, ho, hf⟩ := encM_reads maj h op f
  simp only [decodeWord, ok, fmt, hm, hh, ho, hf, Bool.not_true, Bool.false_eq_true, if_false]

theorem decodeWord_encMA {op : BitVec 2} {f : FMA} (ok : encOk (encMA op h f) 0xFF = true) :
    decodeWord h.ctx (encMA op h f) = pickOpc opcodesMA (0x1A : BitVec 8).toNat op.toNat h f := by
  obtain ⟨hm, hh, ho, hf⟩ := encMA_reads h op f
  have fmt : fmtOf (0x1A : BitVec 8).toNat = some .ma := rfl
  simp only [decodeWord, ok, fmt, hm, hh, ho, hf, Bool.not_true, Bool.false_eq_true, if_false]

theorem decodeWord_encB {f : FB} (fmt : fmtOf maj.toNat = some .b) (ok : encOk (encB maj h f) 0xFF = true) :
    decodeWord h.ctx (encB maj h f) = pickOpc opcodesB maj.toNat 0 h f := by
  obtain ⟨hm, hh, hf⟩ := encB_reads maj h f
  simp only [decodeWord, ok, fmt, hm, hh, hf, Bool.not_true, Bool.false_eq_true, if_false]

theorem decodeWord_encL {f : FL} (ok : encOk (encL h f) 0xFF = true) :
    decodeWord h.ctx (encL h f) = pickOpc opcodesL (0x23 : BitVec 8).toNat 0 h f := by
  obtain ⟨hm, hh, hf⟩ := encL_reads h f
  have fmt : fmtOf (0x23 : BitVec 8).toNat = some .l := rfl
  simp only [decodeWord, ok, fmt, hm, hh, hf, Bool.not_true, Bool.false_eq_true, if_false]

theorem decodeWord_encC {f : FC} (fmt : fmtOf maj.toNat = some .c) (ok : encOk (encC maj h f) 0xFF = true) :
    decodeWord h.ctx (encC maj h f) = if maj.toNat = 0x28 ∧ f.crn = 0x3C0 then some (.tbLoRead h f) else
      pickOpc opcodesC maj.toNat 0 h f := by
  obtain ⟨hm, hh, hf⟩ := encC_reads maj h f
  have crn : (encC maj h f).extractLsb' 0 12 = f.crn := congrArg FC.crn hf
  simp only [decodeWord, ok, fmt, hm, hh, hf, crn, Bool.not_true, Bool.false_eq_true, if_false]

theorem decodeWord_encX {f : FX} (fmt : fmtOf maj.toNat = some .x) (ok : encOk (encX maj h f) 0xFF = true) :
    decodeWord h.ctx (encX maj h f) = if maj.toNat ≥ 0xF8 then some (.extn h (maj.extractLsb' 0 3) f) else
      pickOpc opcodesX maj.toNat 0 h f := by
  obtain ⟨hm, hh, hf⟩ := encX_reads maj h f
  have port : (encX maj h f).extractLsb' 40 3 = maj.extractLsb' 0 3 := by simp [encX, encHd]
  simp only [decodeWord, ok, fmt, hm, hh, hf, port, Bool.not_true, Bool.false_eq_true, if_false]

end

/-- A well-formed instruction has a defined encoding (R145). -/
theorem encOk_of_wellFormed {i : Instr} {w : BitVec 48} (wf : wellFormed i = true) (hw : encodeWord i = some w) : encOk w 0xFF = true := by
  simp only [wellFormed, hw, Bool.and_eq_true] at wf
  exact wf.1

/-- The read of TB_LO is the command of its own row (R615). -/
theorem crn_of_wellFormed_crd {h : Hd} {f : FC} (wf : wellFormed (.crd h f) = true) : f.crn ≠ 0x3C0 := by
  simp only [wellFormed, encodeWord, Bool.and_eq_true, decide_eq_true_eq] at wf
  exact wf.2

theorem crn_of_wellFormed_tbLoRead {h : Hd} {f : FC} (wf : wellFormed (.tbLoRead h f) = true) : f.crn = 0x3C0 := by
  simp only [wellFormed, encodeWord, Bool.and_eq_true, decide_eq_true_eq] at wf
  exact wf.2

/-- A customer major carries its port number (R139). -/
theorem extMajor_reads (n : BitVec 3) : let maj := (0xF8 : BitVec 8) + n.setWidth 8
    fmtOf maj.toNat = some .x ∧ maj.toNat ≥ 0xF8 ∧ maj.extractLsb' 0 3 = n := by
  revert n
  decide

/-- Settles O4: the word of each format gives back its major, its minor, its guard and its fields, and the list of the format's opcodes gives back the
instruction; the two rows that CRD is split into are told apart by the number that they read, and EXTn by the low bits of its major.
The instructions that no line below names are those of format A. -/
theorem encodedInstructionsDecode : Obligations.EncodedInstructionsDecode := by
  intro i h w wf hd hw
  have ok := encOk_of_wellFormed wf hw
  cases i with (cases hd <;> cases hw)
  | andi _ _ | ori _ _ | xori _ _ | shli _ _ | shri _ _ | sari _ _ | addi _ _ | subi _ _ => exact decodeWord_encI rfl ok
  | ldi _ _ | ldih _ _ => exact decodeWord_encW ok
  | cmpeq _ _ | cmpne _ _ | cmpeql _ _ | cmplt _ _ | cmple _ _ | cmpgt _ _ | cmpge _ _ | ttype _ _ | tptr _ _ | timm _ _ | tlist _ _
  | tnum _ _ => exact decodeWord_encP ok
  | cmpeqi _ _ | cmpnei _ _ | cmpeqli _ _ | cmplti _ _ | cmplei _ _ | cmpgti _ _ | cmpgei _ _ => exact decodeWord_encPI ok
  | pand _ _ | por _ _ | pxor _ _ | pandn _ _ | pnot _ _ | pmov _ _ | pflag _ _ => exact decodeWord_encPL ok
  | bget _ _ | bput _ _ | bset _ _ | bclr _ _ | btas _ _ => exact decodeWord_encBT ok
  | ld _ _ | st _ _ | zline _ _ | clean _ _ | flush _ _ | pref _ _ => exact decodeWord_encM rfl ok
  | lr _ _ | sc _ _ | tas _ _ => exact decodeWord_encMA ok
  | br _ _ | call _ _ => exact decodeWord_encB rfl ok
  | loop _ _ => exact decodeWord_encL ok
  | cprobe _ _ | cins _ _ | cdel _ _ | cscan _ _ | rsub _ _ | rstat _ _ => exact decodeWord_encX rfl ok
  | cwr _ _ => exact decodeWord_encC rfl ok
  | crd _ f => exact (decodeWord_encC rfl ok).trans (if_neg fun both => crn_of_wellFormed_crd wf both.2)
  | tbLoRead h f =>
    have same : { f with crn := 0x3C0 } = f := by rw [← crn_of_wellFormed_tbLoRead wf]
    rw [decodeWord_encC rfl ok, if_pos ⟨rfl, rfl⟩, same]
  | extn _ n _ =>
    obtain ⟨fmt, high, port⟩ := extMajor_reads n
    rw [decodeWord_encX fmt ok, if_pos high, port]
  | _ => exact decodeWord_encA rfl ok

end Sys2Proof.Proofs

/-! SUPPORT. Reserved encodings, false guards and minimum levels (R108, R146 to R148). -/

namespace Sys2Proof.Proofs

open Sys2Proof.Machine Sys2Proof.Expected Sys2Proof.Laws

/-- With nothing due at its boundary, an instruction goes through the order of R148 in its slot. -/
theorem issueOut_atSlot {h : Hd} {w : BitVec 48} {body : X Adv} {s : State} (hs : atSlot h s = true) :
    issueOut h w body s = .next (slotRun h w body (slotStart h.ctx s)) := by
  simp only [atSlot, Bool.and_eq_true, decide_eq_true_eq, Option.isNone_iff_eq_none, Bool.not_eq_true'] at hs
  obtain ⟨⟨⟨⟨⟨⟨⟨⟨⟨⟨⟨⟨run0, iss⟩, flip⟩, inv⟩, file⟩, run⟩, park⟩, _⟩, bnd⟩, want⟩, _⟩, _⟩, _⟩ := hs
  simp only [slotStart] at *
  simp [issueOut, issue, run0, iss, flip, inv, file, run, park, bnd, want]

/-- In such a slot none is skipped, the segment has not ended, and no FP exception is pending. -/
theorem atSlot_quiet {h : Hd} {s : State} (hs : atSlot h s = true) :
    (getCtx (slotStart h.ctx s) h.ctx).skip = false ∧ (getCtx (slotStart h.ctx s) h.ctx).flow.past = false ∧
      firstFp (getCtx (slotStart h.ctx s) h.ctx) = none := by
  simp only [atSlot, Bool.and_eq_true, Option.isNone_iff_eq_none, Bool.not_eq_true'] at hs
  obtain ⟨⟨⟨_, skip⟩, past⟩, fp⟩ := hs
  exact ⟨skip, past, fp⟩

/-- An exception with no DISPINFO is delivered at the instruction's own address (R336). -/
theorem raiseAt_own {c : CtxId} (w : BitVec 48) {code : BitVec 8} {info : Datum} {s : State} (hf : firstFp (getCtx s c) = none) :
    .next (raiseAt c w { code := code, info := info } s s) = traps c code info s := by
  simp [raiseAt, hf, traps]

/-- Settles O6: in its slot an instruction meets the three conditions in the order of R148, whatever its body. -/
theorem reservedFalseAndPrivilegedInstructions : Obligations.ReservedFalseAndPrivilegedInstructions := by
  intro i h w s hd hw hs t x
  obtain ⟨body, hx⟩ := exec_issues hd hw
  obtain ⟨skip, past, fp⟩ := atSlot_quiet hs
  refine ⟨fun bad => ?_, fun ok guard => ?_, fun ok guard low => ?_⟩
  · rw [hx, issueOut_atSlot hs, ← raiseAt_own w fp]
    simp [slotRun, past, t, bad]
  · rw [hx, issueOut_guardFalse hs ok guard]
  · rw [hx, issueOut_atSlot hs, ← raiseAt_own w fp]
    simp [slotRun, past, skip, t, x, ok, guard, low]

end Sys2Proof.Proofs

/-! SUPPORT. Loads, stores, lists and objects (R130, R180 to R184, R451): operands and addresses that pass their checks, and memory phases that are
served in their slot. -/

namespace Sys2Proof.Proofs

open Sys2Proof.Machine Sys2Proof.Expected Sys2Proof.Laws

/-! ## Operands and addresses of the rules -/

theorem obj_eq_some {x : Ctx} {r : BitVec 5} {ok : List (BitVec 6)} {o : Cell} :
    obj x r ok = some o ↔ opnd x r = some o ∧ badCell o = false ∧ cTyp o ≠ tUNSET ∧ ok.contains (cTyp o) = true := by
  simp only [obj, Option.bind_eq_bind, Option.bind_eq_some_iff, need_eq_some, Bool.and_eq_true, Bool.not_eq_true', decide_eq_true_eq, and_assoc,
    Option.some.injEq, exists_const]
  exact ⟨fun ⟨a, h1, h2, h3, h4, e⟩ => e ▸ ⟨h1, h2, h3, h4⟩, fun ⟨h1, h2, h3, h4⟩ => ⟨o, h1, h2, h3, h4, rfl⟩⟩

theorem ea_eq_some {x : Ctx} {r : BitVec 5} {d : Int} {va : VAddr} :
    ea x r d = some va ↔ ∃ a, opnd x r = some a ∧ adrOk a = true ∧ vAdd (cDat a) d = some va := by
  simp [ea, Option.bind_eq_some_iff, need_eq_some]

theorem consAdr_eq_some {x : Ctx} {r : BitVec 5} {d : Int} {va : VAddr} :
    consAdr x r d = some va ↔ ∃ a, obj x r [tCONS] = some a ∧ (cDat a).getLsbD 0 = false ∧ vAdd (cDat a) d = some va := by
  simp [consAdr, Option.bind_eq_some_iff, need_eq_some]

theorem rawAdr_ld {x : Ctx} {h : Hd} {f : FM} {a : Cell} (ha : opnd x f.adr = some a) : rawAdr x (.ld h f) = decide (cTyp a = tRAW) := by
  simp [rawAdr, ha]

theorem rawAdr_st {x : Ctx} {h : Hd} {f : FM} {a : Cell} (ha : opnd x f.adr = some a) : rawAdr x (.st h f) = decide (cTyp a = tRAW) := by
  simp [rawAdr, ha]

/-! ## Checks that pass -/

section
variable {c : CtxId} {t : State}

/-- A single operand that is set and well formed (R149, checks 1 and 2). -/
theorem xOne_opnd {r : BitVec 5} {a : Cell} (ha : opnd (getCtx t c) r = some a) (ua : cTyp a ≠ tUNSET) (ba : badCell a = false) :
    xOne c r t = .ok a t := by
  rw [xOne, x_bind_ok (wRead_opnd ha), x_bind_ok (chkUnset_pass 0 t ua), if_neg (by simp [ba])]
  rfl

/-- What an address register holds is set, and is no EXTP. -/
theorem adrOk_spec {a : Cell} (ok : adrOk a = true) :
    badCell a = false ∧ cTyp a ≠ tUNSET ∧ cTyp a ≠ tEXTP ∧
      ((isPtr (cTyp a) && decide (cTyp a ≠ tFWD)) || decide (cTyp a = tRAW)) = true := by
  simp only [adrOk, Bool.and_eq_true, Bool.or_eq_true, Bool.not_eq_true', decide_eq_true_eq] at ok ⊢
  obtain ⟨bad, ⟨⟨ptr, fwd⟩, extp⟩ | raw⟩ := ok
  · refine ⟨bad, fun unset => ?_, extp, .inl ⟨ptr, fwd⟩⟩
    rw [unset] at ptr
    exact absurd ptr (by decide)
  · simp [bad, raw]

theorem xAdr_ok {r : BitVec 5} {a : Cell} (ha : opnd (getCtx t c) r = some a) (ok : adrOk a = true) : xAdr c r t = .ok a t := by
  obtain ⟨bad, unset, extp, adr⟩ := adrOk_spec ok
  rw [xAdr, x_bind_ok (xOne_opnd ha unset bad), if_neg extp, if_pos adr]
  rfl

theorem xEa_ok {base va : VAddr} {d : Int} {k : Acc} (h : vAdd base d = some va) : xEa c base d k t = .ok va t := by
  rw [xEa, h]
  rfl

theorem chkObject_pass {o : Cell} {ok : List (BitVec 6)} (tb : BitVec 6) (h : ok.contains (cTyp o) = true) :
    chkObject o ok tb t = .ok () t := by
  rw [chkObject, if_pos h, x_pure]

theorem xConsAdr_even {o : Cell} (h : (cDat o).getLsbD 0 = false) : xConsAdr o t = .ok () t := by
  rw [xConsAdr, h]
  rfl

theorem xOne_obj {r : BitVec 5} {ok : List (BitVec 6)} {o : Cell} (ho : obj (getCtx t c) r ok = some o) : xOne c r t = .ok o t := by
  obtain ⟨ha, ba, ua, _⟩ := obj_eq_some.mp ho
  exact xOne_opnd ha ua ba

theorem chkObject_obj {r : BitVec 5} {ok : List (BitVec 6)} {o : Cell} (tb : BitVec 6) (ho : obj (getCtx t c) r ok = some o) :
    chkObject o ok tb t = .ok () t := by
  obtain ⟨_, _, _, mem⟩ := obj_eq_some.mp ho
  exact chkObject_pass tb mem

/-- An object with a cell that is only copied (R47). -/
theorem xObjCopy_ok {ra rb : BitVec 5} {ok : List (BitVec 6)} {o v : Cell} (ho : obj (getCtx t c) ra ok = some o)
    (hv : opnd (getCtx t c) rb = some v) : xObjCopy c ra rb ok t = .ok (o, v) t := by
  obtain ⟨ha, ba, ua, _⟩ := obj_eq_some.mp ho
  rw [xObjCopy, x_bind_ok (wRead_opnd ha), x_bind_ok (wRead_opnd hv), x_bind_ok (chkUnset_pass 0 t ua), if_neg (by simp [ba])]
  exact (x_bind_ok (chkObject_obj _ ho)).trans (x_pure _ t)

/-- An object with an index (R182). -/
theorem xVecOps_ok {f : FA} {o k : Cell} (ho : obj (getCtx t c) f.sa [tVEC, tSYM, tFUNC, tINST, tFACT] = some o)
    (hk : opnd (getCtx t c) f.sb = some k) (fk : cTyp k = tFIX) : xVecOps c f t = .ok (o, k) t := by
  obtain ⟨ha, ba, ua, _⟩ := obj_eq_some.mp ho
  have ck : chkTwo o k t = .ok () t := chkTwo_pass t ua (by simp [fk]) ba (badCell_fix fk)
  rw [xVecOps, x_bind_ok (xTwo_opnd ha hk ck), if_neg (by simp [fk])]
  exact (x_bind_ok (chkObject_obj _ ho)).trans (x_pure _ t)

/-! ## Memory phases that are served at once (R101) -/

theorem landW_seq (d : Nat) (r : BitVec 5) (v : Cell) : landW c d r v t = .ok () (landSeq c [(d, .word r, v)] t) :=
  land_seq ..

/-- A cell that is no bad pointer, or that w0 discards, lands as it is (R494). -/
theorem xDeliver_plain {w : BitVec 48} {d : Nat} {dst : BitVec 5} {v : Cell} {field : Option VAddr}
    (h : dst = 0 ∨ isBad (blockOf t c) v = false) : xDeliver c w d dst v field t = .ok () (landSeq c [(d, .word dst, v)] t) := by
  have plain : ¬ (dst ≠ 0 ∧ isBad (blockOf t c) v = true) := by
    rintro ⟨set, bad⟩
    rcases h with zero | good
    · exact set zero
    · exact Bool.false_ne_true (good.symm.trans bad)
  rw [xDeliver, x_bind_ok (x_get t), if_neg plain, landW_seq]

end

section
variable {c : CtxId} {s t u b : State} {w : BitVec 48} {va : VAddr} {dst : BitVec 5} {v o hdr k : Cell} {pa : PAddr} {mt : Nat}

theorem memBasic_ldRaw (hl : xLoad c false va s = .ok (v, pa, mt) t) :
    memBasic c false w (.ldRaw va dst) s = .ok .seq (landSeq c [(4, .word dst, v)] t) := by
  simp only [memBasic]
  rw [x_bind_ok (xCtx_eq c s), x_bind_ok hl, x_bind_ok (landW_seq ..), x_pure]

theorem memBasic_load (hl : xLoad c false va s = .ok (v, pa, mt) t) (hb : dst = 0 ∨ isBad (blockOf t c) v = false) :
    memBasic c false w (.load va dst false) s = .ok .seq (landSeq c [(4, .word dst, v)] t) := by
  simp only [memBasic]
  rw [x_bind_ok (xCtx_eq c s), if_neg (by decide), x_bind_ok hl, x_bind_ok (xDeliver_plain hb), x_pure]

theorem memBasic_vref (hh : xHeader c false o s = .ok hdr t) (pos : 0 ≤ (cDat k).toInt) (len : (cDat k).toNat + 1 ≤ hdrLen hdr)
    (ha : vAdd (cDat o) ((cDat k).toNat + 1) = some va) (hl : xLoad c false va t = .ok (v, pa, mt) u)
    (hb : dst = 0 ∨ isBad (blockOf u c) v = false) :
    memBasic c false w (.vref o k dst) s = .ok .seq (landSeq c [(4, .word dst, v)] u) := by
  simp only [memBasic]
  rw [x_bind_ok (xCtx_eq c s), x_bind_ok hh, if_neg (by omega), x_bind_ok (xEa_ok ha), x_bind_ok hl, x_bind_ok (xDeliver_plain hb), x_pure]

theorem memBasic_sym {off : Nat} (hh : xHeader c false o s = .ok hdr t) (ha : vAdd (cDat o) off = some va)
    (hl : xLoad c false va t = .ok (v, pa, mt) u) (hb : dst = 0 ∨ isBad (blockOf u c) v = false) :
    memBasic c false w (.sym o off dst) s = .ok .seq (landSeq c [(4, .word dst, v)] u) := by
  simp only [memBasic]
  rw [x_bind_ok (xCtx_eq c s), x_bind_ok hh, x_bind_ok (xEa_ok ha), x_bind_ok hl, x_bind_ok (xDeliver_plain hb), x_pure]

theorem memBasic_hlen (hh : xHeader c false o s = .ok hdr t) :
    memBasic c false w (.hlen o dst) s = .ok .seq (landSeq c [(4, .word dst, mkCell 0 tFIX (dat (hdrLen hdr)))] t) := by
  simp only [memBasic]
  rw [x_bind_ok (xCtx_eq c s), x_bind_ok hh, x_bind_ok (landW_seq ..), x_pure]
  rfl

/-! ## Entries of the store buffer (R451 to R453) -/

theorem sbPut_mem {e : SbEntry} (h : sbPut c e s = some t) : t.mem = s.mem := by
  unfold sbPut at h
  dsimp only at h
  split at h
  · cases h
    rfl
  · split at h
    · cases h
    · cases h
      rfl

theorem sbPutAll_mem {es : List SbEntry} (h : sbPutAll c es s = ([], t)) : t.mem = s.mem := by
  induction es generalizing s with
  | nil =>
    cases h
    rfl
  | cons e es ih =>
    simp only [sbPutAll] at h
    split at h
    · next r hr => exact (ih h).trans (sbPut_mem hr)
    · cases h

/-- A store that waits in the buffer has changed no byte of memory. -/
theorem buffered_mem {bar : Bool} (h : Buffered bar c va pa mt v s t) : t.mem = s.mem := by
  refine (sbPutAll_mem h).trans ?_
  split <;> rfl

/-- Entries that find room, the last of them no write of a tier-2 bit (R110, R453). -/
theorem xStores_room {via : Option Via} {ks : List SbKind} (h : sbPutAll c (ks.map (sbEnt c (getCtx s c).sbars via)) s = ([], t))
    (hk : tripOf (getCtx s c).skein (ks.map (sbEnt c (getCtx s c).sbars via)) = none) : xStores c via ks s = .ok () t := by
  rw [xStores, xEntries, xMod_eq]
  simp [h, hk]

/-- The last entry of a store is its cell's or its card's. -/
theorem tripOf_store (sk : SkId) (n : Nat) (via : Option Via) (bar : Bool) {kind : SbKind} (hk : ∀ q i x, kind ≠ .bit2 q i x) :
    tripOf sk ((kind :: (if bar then cardKinds s c va pa v else [])).map (sbEnt c n via)) = none := by
  have plain : tripOf sk [sbEnt c n via kind] = none := by
    cases kind with
    | bit2 q i x => exact absurd rfl (hk q i x)
    | _ => rfl
  cases bar with
  | false => exact plain
  | true =>
    simp only [cardKinds, if_true]
    split
    · rfl
    · exact plain

/-- A store at a translated address that finds room enters the buffer, and does nothing else (R451, R465). -/
theorem xStoreB_buffered {bar : Bool} (h : Buffered bar c va pa mt v s t) : xStoreB bar c va pa mt v s = .ok () t := by
  simp only [Buffered, storeEnts] at h
  simp only [xStoreB]
  by_cases normal : mt = 0
  · simp only [normal, true_or, if_true] at h ⊢
    exact xStores_room h (tripOf_store _ _ _ _ nofun)
  · by_cases device : mt = 1
    · simp only [device, Nat.one_ne_zero, or_true, if_true, if_false] at h ⊢
      exact xStores_room h (tripOf_store _ _ _ _ nofun)
    · simp only [normal, device, or_self, if_false] at h ⊢
      exact xStores_room (by simpa using h) (tripOf_store _ _ _ _ nofun)

theorem xStore_buffered (hx : xlate c (getCtx s c).level false va .write s = .ok (pa, mt) t) (h : Buffered true c va pa mt v t u) :
    xStore c false va v s = .ok () u := by
  rw [xStore, x_bind_ok (xCtx_eq c s), x_bind_ok hx, xStoreP, xStoreB_buffered h]

theorem memBasic_stRaw (hx : xlate c (getCtx s c).level false va .write s = .ok (pa, mt) t) (h : Buffered false c va pa mt v t u) :
    memBasic c false w (.stRaw va v) s = .ok .seq u := by
  simp only [memBasic]
  rw [x_bind_ok (xCtx_eq c s), x_bind_ok hx, x_bind_ok (xStoreB_buffered h), x_pure]

theorem memBasic_store (hx : xlate c (getCtx s c).level false va .write s = .ok (pa, mt) t) (h : Buffered true c va pa mt v t u) :
    memBasic c false w (.store va v) s = .ok .seq u := by
  simp only [memBasic]
  rw [x_bind_ok (xCtx_eq c s), x_bind_ok (xStore_buffered hx h), x_pure]

theorem memBasic_vset (hh : xHeader c false o s = .ok hdr t) (pos : 0 ≤ (cDat k).toInt) (len : (cDat k).toNat + 1 ≤ hdrLen hdr)
    (ha : vAdd (cDat o) ((cDat k).toNat + 1) = some va) (hx : xlate c (getCtx t c).level false va .write t = .ok (pa, mt) u)
    (h : Buffered true c va pa mt v u b) : memBasic c false w (.vset o k v) s = .ok .seq b := by
  simp only [memBasic]
  rw [x_bind_ok (xCtx_eq c s), x_bind_ok hh, if_neg (by omega), x_bind_ok (xEa_ok ha), x_bind_ok (xStore_buffered hx h), x_pure]

theorem memBasic_setsym (hh : xHeader c false o s = .ok hdr t) (ha : vAdd (cDat o) 2 = some va)
    (hx : xlate c (getCtx t c).level false va .write t = .ok (pa, mt) u) (h : Buffered true c va pa mt v u b) :
    memBasic c false w (.setsym o v) s = .ok .seq b := by
  simp only [memBasic]
  rw [x_bind_ok (xCtx_eq c s), x_bind_ok hh, x_bind_ok (xEa_ok ha), x_bind_ok (xStore_buffered hx h), x_pure]

end

/-! ## Instructions that load (R180 to R184) -/

section
variable {h : Hd} {i : Instr} {w : BitVec 48} {s t u b : State} {va : VAddr} {dst : BitVec 5} {v o hdr : Cell} {pa : PAddr} {mt : Nat}

/-- What CAR and CDR do with a CONS. -/
theorem xCarCdr_ok {f : FA} {d : Nat} (ha : consAdr (getCtx s h.ctx) f.sa d = some va) (hl : xLoad h.ctx false va s = .ok (v, pa, mt) t)
    (hb : f.dst = 0 ∨ isBad (blockOf t h.ctx) v = false) :
    xCarCdr h f w d s = .ok .seq (landSeq h.ctx [(4, .word f.dst, v)] t) := by
  obtain ⟨a, ho, even, ea⟩ := consAdr_eq_some.mp ha
  obtain ⟨_, _, _, cons⟩ := obj_eq_some.mp ho
  have notNil : isNil a = false := by simp_all [isNil]
  rw [xCarCdr, x_bind_ok (xOne_obj ho), notNil, if_neg (by decide), x_bind_ok (chkObject_obj 0 ho), x_bind_ok (xConsAdr_even even),
    x_bind_ok (xEa_ok ea), xMemOp_ok (memBasic_load hl hb)]

/-- CAR and CDR of nil make no access (R181). -/
theorem xCarCdr_nil {f : FA} {d : Nat} (ha : opnd (getCtx s h.ctx) f.sa = some nilCell) :
    xCarCdr h f w d s = .ok .seq (landSeq h.ctx [(4, .word f.dst, nilCell)] s) := by
  rw [xCarCdr, x_bind_ok (xOne_opnd ha (by decide) (by decide)), if_pos (by decide), x_bind_ok (landW_seq ..), x_pure]

/-- The body of each instruction that loads one cell lands that cell (R180, R181, R184, R525). -/
theorem loadOf_body (hd : headOf i = some h) (hw : encodeWord i = some w) (ho : loadOf (getCtx s h.ctx) i = some (va, dst))
    (hl : xLoad h.ctx false va s = .ok (v, pa, mt) t)
    (hb : dst = 0 ∨ rawAdr (getCtx s h.ctx) i = true ∨ isBad (blockOf t h.ctx) v = false) :
    ∃ body, (∀ s, exec i s = issueOut h w body s) ∧ body s = .ok .seq (landSeq h.ctx [(4, .word dst, v)] t) := by
  cases i with (cases hd <;> cases hw)
  | ld _ f =>
    refine ⟨_, fun _ => rfl, ?_⟩
    simp only [loadOf, Option.map_eq_some_iff, Prod.mk.injEq] at ho
    obtain ⟨va, he, rfl, rfl⟩ := ho
    obtain ⟨a, ha, ok, ea⟩ := ea_eq_some.mp he
    rw [x_bind_ok (xAdr_ok ha ok), x_bind_ok (xEa_ok (d := dispInt f.disp) ea)]
    rw [rawAdr_ld ha] at hb
    by_cases raw : cTyp a = tRAW
    · rw [if_pos raw, xMemOp_ok (memBasic_ldRaw hl)]
    · rw [if_neg raw, xMemOp_ok (memBasic_load hl (hb.imp_right fun r => r.resolve_left (by simpa using raw)))]
  | car _ f | cdr _ f =>
    refine ⟨_, fun _ => rfl, ?_⟩
    simp only [loadOf, Option.map_eq_some_iff, Prod.mk.injEq] at ho
    obtain ⟨va, ha, rfl, rfl⟩ := ho
    exact xCarCdr_ok ha hl (by simpa [rawAdr] using hb)
  | ldloc _ f =>
    refine ⟨_, fun _ => rfl, ?_⟩
    simp only [loadOf, Option.map_eq_some_iff, Prod.mk.injEq] at ho
    obtain ⟨a, ha, rfl, rfl⟩ := ho
    rw [x_bind_ok (xOne_obj ha), x_bind_ok (chkObject_obj 0 ha), xMemOp_ok (memBasic_load hl (by simpa [rawAdr] using hb))]
  | _ => cases ho

/-- The fields that VREF, SYMVAL and SYMFN name (R182, R183). -/
theorem fieldLoad_vref {x : Ctx} {f : FA} {off : Nat} {idx : Bool} :
    fieldLoad x (.vref h f) = some (o, off, idx, dst) ↔ ∃ k, obj x f.sa [tVEC, tSYM, tFUNC, tINST, tFACT] = some o ∧ opnd x f.sb = some k ∧
      cTyp k = tFIX ∧ 0 ≤ (cDat k).toInt ∧ (cDat k).toNat + 1 = off ∧ true = idx ∧ f.dst = dst := by
  simp only [fieldLoad, Option.bind_eq_bind, Option.bind_eq_some_iff, need_eq_some, fixOpnd_eq_some, decide_eq_true_eq, Option.some.injEq,
    Prod.mk.injEq, exists_const]
  constructor
  · rintro ⟨o, ho, _, ⟨k, hk, fk, rfl⟩, pos, rfl, rest⟩
    exact ⟨k, ho, hk, fk, pos, rest⟩
  · rintro ⟨k, ho, hk, fk, pos, rest⟩
    exact ⟨o, ho, _, ⟨k, hk, fk, rfl⟩, pos, rfl, rest⟩

/-- What SYMVAL and SYMFN do with a symbol. -/
theorem xSymRead_ok {f : FA} {off : Nat} (ho : obj (getCtx s h.ctx) f.sa [tSYM] = some o) (hh : xHeader h.ctx false o s = .ok hdr t)
    (ha : vAdd (cDat o) off = some va) (hl : xLoad h.ctx false va t = .ok (v, pa, mt) u) (hb : f.dst = 0 ∨ isBad (blockOf u h.ctx) v = false) :
    xSymRead h f w off s = .ok .seq (landSeq h.ctx [(4, .word f.dst, v)] u) := by
  rw [xSymRead, x_bind_ok (xOne_obj ho), x_bind_ok (chkObject_obj 0 ho), xMemOp_ok (memBasic_sym hh ha hl hb)]

/-- The body of each instruction that loads a field lands the field's cell after the header check (R182, R183). -/
theorem fieldLoad_body {off : Nat} {idx : Bool} (hd : headOf i = some h) (hw : encodeWord i = some w)
    (ho : fieldLoad (getCtx s h.ctx) i = some (o, off, idx, dst)) (hh : xHeader h.ctx false o s = .ok hdr t)
    (len : idx = true → off ≤ hdrLen hdr) (ha : vAdd (cDat o) off = some va) (hl : xLoad h.ctx false va t = .ok (v, pa, mt) u)
    (hb : dst = 0 ∨ isBad (blockOf u h.ctx) v = false) :
    ∃ body, (∀ s, exec i s = issueOut h w body s) ∧ body s = .ok .seq (landSeq h.ctx [(4, .word dst, v)] u) := by
  cases i with (cases hd <;> cases hw)
  | vref _ f =>
    refine ⟨_, fun _ => rfl, ?_⟩
    obtain ⟨k, ob, hk, fk, pos, rfl, rfl, rfl⟩ := fieldLoad_vref.mp ho
    rw [x_bind_ok (xVecOps_ok ob hk fk), xMemOp_ok (memBasic_vref hh pos (len rfl) (by exact_mod_cast ha) hl hb)]
  | symval _ f | symfn _ f =>
    refine ⟨_, fun _ => rfl, ?_⟩
    simp only [fieldLoad, Option.map_eq_some_iff, Prod.mk.injEq] at ho
    obtain ⟨o, ho, rfl, rfl, _, rfl⟩ := ho
    exact xSymRead_ok ho hh ha hl hb
  | _ => cases ho

end

/-- Settles O16: in each clause the operand checks pass, the memory phase is served in the slot, and what it read lands. -/
theorem loadsLandTheirCell : Obligations.LoadsLandTheirCell := by
  refine ⟨?_, ?_, ?_, ?_⟩
  · intro i h w s t va dst v pa mt ⟨hd, hw, hi⟩ ho hl hb
    obtain ⟨body, he, hr⟩ := loadOf_body hd hw ho hl hb
    rw [he, issueOut_done hi hr]
  · intro i h w s ls hd hw hi hl
    cases i with (cases hd <;> cases hw)
    | car _ f | cdr _ f =>
      obtain ⟨nil, hl⟩ := Option.ite_none_right_eq_some.mp hl
      cases hl
      exact issueOut_lands hi (xCarCdr_nil nil)
    | _ => cases hl
  · intro i h w s t u o hdr v off idx va dst pa mt ⟨hd, hw, hi⟩ ho hh len ha hl hb
    obtain ⟨body, he, hr⟩ := fieldLoad_body hd hw ho hh len ha hl hb
    rw [he, issueOut_done hi hr]
  · intro h f w s t o hdr ⟨_, hw, hi⟩ ho hh
    cases hw
    refine issueOut_done hi ?_
    rw [x_bind_ok (xOne_obj ho), x_bind_ok (chkObject_obj 0 ho), xMemOp_ok (memBasic_hlen hh)]

/-! ## Instructions that store (R181 to R184, R451) -/

section
variable {h : Hd} {i : Instr} {w : BitVec 48} {s t u b : State} {va : VAddr} {v o hdr : Cell} {pa : PAddr} {mt : Nat}

theorem xSetCarCdr_ok {f : FA} {d : Nat} (ha : consAdr (getCtx s h.ctx) f.sa d = some va) (hv : opnd (getCtx s h.ctx) f.sb = some v)
    (hx : xlate h.ctx (getCtx s h.ctx).level false va .write s = .ok (pa, mt) t) (hb : Buffered true h.ctx va pa mt v t u) :
    xSetCarCdr h f w d s = .ok .seq u := by
  obtain ⟨a, ho, even, ea⟩ := consAdr_eq_some.mp ha
  rw [xSetCarCdr, x_bind_ok (xObjCopy_ok ho hv), x_bind_ok (xConsAdr_even even), x_bind_ok (xEa_ok ea), xMemOp_ok (memBasic_store hx hb)]

/-- The body of each instruction that stores one cell puts its entries into the store buffer (R181, R184, R451, R525). -/
theorem storeOf_body (hd : headOf i = some h) (hw : encodeWord i = some w) (ho : storeOf (getCtx s h.ctx) i = some (va, v))
    (hx : xlate h.ctx (getCtx s h.ctx).level false va .write s = .ok (pa, mt) t)
    (hb : Buffered (!rawAdr (getCtx s h.ctx) i) h.ctx va pa mt v t u) :
    ∃ body, (∀ s, exec i s = issueOut h w body s) ∧ body s = .ok .seq u := by
  cases i with (cases hd <;> cases hw)
  | st _ f =>
    refine ⟨_, fun _ => rfl, ?_⟩
    simp only [storeOf, Option.bind_eq_bind, Option.bind_eq_some_iff, Option.some.injEq, Prod.mk.injEq] at ho
    obtain ⟨va, he, v, hv, rfl, rfl⟩ := ho
    obtain ⟨a, ha, ok, ea⟩ := ea_eq_some.mp he
    rw [x_bind_ok (xAdr_ok ha ok), x_bind_ok (xEa_ok (d := dispInt f.disp) ea), x_bind_ok (wRead_opnd hv)]
    rw [rawAdr_st ha] at hb
    by_cases raw : cTyp a = tRAW
    · rw [if_pos raw, xMemOp_ok (memBasic_stRaw hx (by rwa [decide_eq_true raw] at hb))]
    · rw [if_neg raw, xMemOp_ok (memBasic_store hx (by rwa [decide_eq_false raw] at hb))]
  | setcar _ f | setcdr _ f =>
    refine ⟨_, fun _ => rfl, ?_⟩
    simp only [storeOf, Option.bind_eq_bind, Option.bind_eq_some_iff, Option.some.injEq, Prod.mk.injEq] at ho
    obtain ⟨va, ha, v, hv, rfl, rfl⟩ := ho
    exact xSetCarCdr_ok ha hv hx hb
  | stloc _ f =>
    refine ⟨_, fun _ => rfl, ?_⟩
    simp only [storeOf, Option.bind_eq_bind, Option.bind_eq_some_iff, Option.some.injEq, Prod.mk.injEq] at ho
    obtain ⟨o, ho, v, hv, rfl, rfl⟩ := ho
    rw [x_bind_ok (xObjCopy_ok ho hv), xMemOp_ok (memBasic_store hx hb)]
  | _ => cases ho

/-- The field that VSET names (R182). -/
theorem fieldStore_vset {x : Ctx} {f : FA} {off : Nat} {idx : Bool} :
    fieldStore x (.vset h f) = some (o, off, idx, v) ↔ ∃ k, obj x f.sa [tVEC, tSYM, tFUNC, tINST, tFACT] = some o ∧ opnd x f.sb = some k ∧
      cTyp k = tFIX ∧ 0 ≤ (cDat k).toInt ∧ (cDat k).toNat + 1 = off ∧ true = idx ∧ opnd x f.dst = some v := by
  simp only [fieldStore, Option.bind_eq_bind, Option.bind_eq_some_iff, need_eq_some, fixOpnd_eq_some, decide_eq_true_eq, Option.some.injEq,
    Prod.mk.injEq, exists_const]
  constructor
  · rintro ⟨o, ho, _, ⟨k, hk, fk, rfl⟩, v, hv, pos, rfl, hoff, hidx, rfl⟩
    exact ⟨k, ho, hk, fk, pos, hoff, hidx, hv⟩
  · rintro ⟨k, ho, hk, fk, pos, hoff, hidx, hv⟩
    exact ⟨o, ho, _, ⟨k, hk, fk, rfl⟩, v, hv, pos, rfl, hoff, hidx, rfl⟩

/-- The body of each instruction that stores a field puts its entries into the store buffer after the header check (R182, R183). -/
theorem fieldStore_body {off : Nat} {idx : Bool} (hd : headOf i = some h) (hw : encodeWord i = some w)
    (ho : fieldStore (getCtx s h.ctx) i = some (o, off, idx, v)) (hh : xHeader h.ctx false o s = .ok hdr t)
    (len : idx = true → off ≤ hdrLen hdr) (ha : vAdd (cDat o) off = some va)
    (hx : xlate h.ctx (getCtx t h.ctx).level false va .write t = .ok (pa, mt) u) (hb : Buffered true h.ctx va pa mt v u b) :
    ∃ body, (∀ s, exec i s = issueOut h w body s) ∧ body s = .ok .seq b := by
  cases i with (cases hd <;> cases hw)
  | vset _ f =>
    refine ⟨_, fun _ => rfl, ?_⟩
    obtain ⟨k, ob, hk, fk, pos, rfl, rfl, hv⟩ := fieldStore_vset.mp ho
    rw [x_bind_ok (xVecOps_ok ob hk fk), x_bind_ok (wRead_opnd hv),
      xMemOp_ok (memBasic_vset hh pos (len rfl) (by exact_mod_cast ha) hx hb)]
  | setsymval _ f =>
    refine ⟨_, fun _ => rfl, ?_⟩
    simp only [fieldStore, Option.bind_eq_bind, Option.bind_eq_some_iff, Option.some.injEq, Prod.mk.injEq] at ho
    obtain ⟨o, ho, v, hv, rfl, rfl, _, rfl⟩ := ho
    rw [x_bind_ok (xObjCopy_ok ho hv), xMemOp_ok (memBasic_setsym hh ha hx hb)]
  | _ => cases ho

end

/-- Settles O17: in each clause the operand checks pass, and the memory phase puts the store's entries into the buffer, which is all that changes. -/
theorem storesWaitInTheStoreBuffer : Obligations.StoresWaitInTheStoreBuffer := by
  refine ⟨?_, ?_⟩
  · intro i h w s t u va v pa mt ⟨hd, hw, hi⟩ ho hx hb
    obtain ⟨body, he, hr⟩ := storeOf_body hd hw ho hx hb
    exact ⟨by rw [he, issueOut_done hi hr], buffered_mem hb⟩
  · intro i h w s t u b o hdr v off idx va pa mt ⟨hd, hw, hi⟩ ho hh len ha hx hb
    obtain ⟨body, he, hr⟩ := fieldStore_body hd hw ho hh len ha hx hb
    exact ⟨by rw [he, issueOut_done hi hr], buffered_mem hb⟩

end Sys2Proof.Proofs

/-! SUPPORT. Extension messages (R140 to R144, R568, R591). -/

namespace Sys2Proof.Proofs

open Sys2Proof.Machine Sys2Proof.Expected Sys2Proof.Laws

/-! ## Sending -/

/-- A request on the fabric changes the power state only (R640). -/
theorem fabric_eq_setPwr (a b : BitVec 2) (s : State) : ∃ f, fabric a b s = setPwr f s := by
  have traf : ∃ f, traffic (route a b) s = setPwr f s := by
    unfold traffic
    split
    · exact ⟨_, rfl⟩
    · exact ⟨id, rfl⟩
  obtain ⟨f, hf⟩ := traf
  unfold fabric
  dsimp only
  rw [hf]
  split
  · exact ⟨f, rfl⟩
  · exact ⟨fun p => { f p with sectors := (f p).sectors &&& ~~~route a b }, rfl⟩

theorem linkDead_of_linkUp {s : State} (h : linkUp s = true) : linkDead s = false := by
  simp only [linkUp, Bool.and_eq_true, decide_eq_true_eq, Bool.not_eq_true'] at h
  obtain ⟨⟨act, perst⟩, bme⟩ := h
  simp [linkDead, act, perst, bme]

/-- What the sending of a message leaves (R140, R141): the message on the link and among the outstanding ones, its number counted, and its context
parked for the reply. -/
def sentMsg (m : ExtMsg) (w : BitVec 48) (back : Flow) (s : State) : State :=
  linkSend (.write ((mapGet 0 s.host.extTgt m.n.toNat : BitVec 59) ++ (0 : BitVec 5)) (extWords m) false false false)
    { updCtx m.ctx (fun x => { x with park := some (.ext m.seq w back) }) { s with extSeq := s.extSeq + 1 } with extOut := s.extOut ++ [m] }

theorem sentMsg_park (m : ExtMsg) (w : BitVec 48) (back : Flow) (s : State) :
    (getCtx (sentMsg m w back s) m.ctx).park = some (.ext m.seq w back) :=
  congrArg Ctx.park (getCtx_updCtx m.ctx (fun x => { x with park := some (.ext m.seq w back) }) { s with extSeq := s.extSeq + 1 })

/-- The message that a context's EXTn makes (R140). -/
def extMsgOf (c : CtxId) (n : BitVec 3) (a b : Cell) (func : BitVec 21) (s : State) : ExtMsg :=
  { seq := s.extSeq, gen := if (getCtx s c).hv then (getHank s (getCtx s c).hank).gen else 0, ctx := c, cgen := (getCtx s c).gen, n := n
    func := func, cella := a, cellb := b, hv := (getCtx s c).hv, hank := (getCtx s c).hank, due := s.tb + 1000 * s.host.extTmo.toNat }

/-- While the link is up, and the context's stores are visible, its message is sent. -/
theorem exec_extensionMessageSend {c : CtxId} {n : BitVec 3} {a b : Cell} {func : BitVec 21} {dst : BitVec 5} {w : BitVec 48} {back : Flow}
    {s : State} (hp : (getCtx s c).park = some (.mem (.extn n a b func dst) w back)) (hs : sbEmpty s c = true) (hl : linkUp s = true) :
    ∃ f, exec (.extensionMessageSend c) s = .next (sentMsg (extMsgOf c n a b func s) w back (setPwr f s)) := by
  obtain ⟨f, hf⟩ := fabric_eq_setPwr (skSector (getCtx s c).skein) hostSector s
  refine ⟨f, ?_⟩
  change execExtensionMessageSend c s = _
  simp only [execExtensionMessageSend, hp, hs, hl, linkDead_of_linkUp hl, hf, Bool.not_true, Bool.false_eq_true, if_false]
  rfl

/-! ## Replies -/

/-- A host write is performed while the block is served (R643, R722). -/
theorem hostWr_served {f : State → State} {s : State} (h : served s = true) : hostWr f s = f s := by
  simp only [served, Bool.and_eq_true, decide_eq_true_eq, Bool.not_eq_true'] at h
  obtain ⟨⟨⟨⟨act, perst⟩, d3⟩, bring⟩, sleep⟩ := h
  rw [hostWr, hostDo, if_neg (by simp [act, perst, d3])]
  split
  · next mode => exact absurd mode bring
  · next mode => exact absurd mode sleep
  · rfl

theorem extStale_eq_discarded (hv : Bool) (k : BitVec 6) (gen : BitVec 16) (s : State) : extStale hv k gen s = discarded hv k gen s := rfl

/-- A reply of status 0 delivers its cell where the cell is one that a reply may carry, and no bad pointer (R141, R143). -/
theorem extAccept_cell {c : CtxId} {v : Cell} {s : State} (reta : cTyp (sealCell v) ≠ tRETA) (fwd : cTyp (sealCell v) ≠ tFWD)
    (res : isReserved (cTyp (sealCell v)) = false) (bad : isBad (blockOf s c) (sealCell v) = false) :
    extAccept c 0 v s = resumeParked c (deliverBy c (fun t => match t with
      | .word _ => some (sealCell v)
      | _ => none) s) := by
  have plain : ¬ (cTyp (sealCell v) = tRETA ∨ cTyp (sealCell v) = tFWD ∨ isReserved (cTyp (sealCell v)) = true) := by
    simp only [reta, fwd, res, Bool.false_eq_true, or_self, not_false_eq_true]
  exact (if_neg plain).trans (if_neg fun both => Bool.false_ne_true (bad ▸ both.1))

/-- A reply that meets the conditions of its outstanding message is accepted for it (R142). -/
theorem extReply_accepted {seq : BitVec 32} {gen : BitVec 16} {status : BitVec 8} {v : Cell} {m : ExtMsg} {s : State}
    (hm : (s.extOut.find? fun m => m.seq = seq) = some m) (hg : m.gen = gen) (hh : m.hv = true → (getHank s m.hank).gen = gen)
    (ht : s.tb < m.due) : extReply seq gen status v s =
      extAccept m.ctx status v (reach hostSector (getCtx s m.ctx).skein { s with extOut := s.extOut.filter fun n => n.seq ≠ seq }) := by
  simp only [extReply, hm]
  rw [if_pos ⟨hg, hh, ht⟩]

theorem extReply_refused {seq : BitVec 32} {gen : BitVec 16} {status : BitVec 8} {v : Cell} {m : ExtMsg} {s : State}
    (hm : (s.extOut.find? fun m => m.seq = seq) = some m)
    (hr : m.due ≤ s.tb ∨ m.gen ≠ gen ∨ m.hv = true ∧ (getHank s m.hank).gen ≠ gen) :
    extReply seq gen status v s = discarded m.hv m.hank gen s := by
  simp only [extReply, hm]
  rw [if_neg, extStale_eq_discarded]
  rintro ⟨hg, hh, ht⟩
  rcases hr with late | old | ⟨hv, ended⟩
  · omega
  · exact old hg
  · exact ended (hh hv)

theorem exec_extreply {seq : BitVec 32} {gen : BitVec 16} {status : BitVec 8} {v : Cell} {s : State} (h : served s = true) :
    exec (.extreply seq gen status v) s = .next (extReply seq gen status v s) :=
  congrArg _ (hostWr_served h)

/-- Settles O30: the send, the replies that match and those that do not, and the timeout are branches of their commands, which the conditions of the
clauses select. -/
theorem extensionMessagesAreSentAndAnswered : Obligations.ExtensionMessagesAreSentAndAnswered := by
  refine ⟨?_, ?_, ?_, ?_⟩
  · intro c n a b func dst w back s x m hp hs hl
    obtain ⟨f, hx⟩ := exec_extensionMessageSend hp hs hl
    exact ⟨_, hx, rfl, rfl, rfl, sentMsg_park .., rfl⟩
  · intro seq gen v m s hs hm u
    refine ⟨fun hg hh ht reta fwd res bad => ?_, fun hr => ?_⟩
    · exact (exec_extreply hs).trans (congrArg _ ((extReply_accepted hm hg hh ht).trans (extAccept_cell reta fwd res bad)))
    · rw [exec_extreply hs, extReply_refused hm hr]
  · intro seq gen status v s hs hm
    refine ⟨fun hg => ?_, fun m hg => ?_⟩
    · rw [exec_extreply hs]
      simp [extReply, hm, hg, extStale]
    · rw [exec_extreply hs]
      simp [extReply, hm, hg, extStale_eq_discarded]
  · intro seq m s hm he
    subst he
    have waits : exec (.extensionTimeout m.seq) s = .next (if s.tb < m.due then s else extExpire m s) := by
      change execExtensionTimeout m.seq s = _
      simp only [execExtensionTimeout, hm]
    exact ⟨fun ht => waits.trans (congrArg _ (if_pos ht)), fun ht => waits.trans (congrArg _ (if_neg (Nat.not_lt.mpr ht)))⟩

end Sys2Proof.Proofs

/-! SUPPORT. Fields of instruction words as numbers, and bodies that raise an exception: the first check of R149 that fails, with its
DISPINFO (R154). -/

namespace Sys2Proof.Proofs

open Sys2Proof.Machine Sys2Proof.Expected Sys2Proof.Laws

/-! ## Fields of words as numbers (R122, R123) -/

/-- A field of a number that is a bit vector's. -/
theorem bits_toNat {n : Nat} (w : BitVec n) (lo len : Nat) : bits w.toNat lo len = (w.extractLsb' lo len).toNat := by
  simp [bits, Nat.shiftRight_eq_div_pow]

theorem iMajor_encA (maj minor : BitVec 8) (h : Hd) (f : FA) : iMajor (encA maj minor h f) = maj.toNat := by
  obtain ⟨major, -⟩ := encA_reads maj minor h f
  rw [iMajor, bits_toNat, major]

theorem minor_encA (maj minor : BitVec 8) (h : Hd) (f : FA) : bits (encA maj minor h f).toNat 0 8 = minor.toNat := by
  obtain ⟨-, -, field, -⟩ := encA_reads maj minor h f
  rw [bits_toNat, field]

/-! ## Bodies that raise -/

theorem x_bind_error {α β : Type} {x : X α} {f : α → X β} {s t : State} {e : Err} (h : x s = .error e t) : (x >>= f) s = .error e t := by
  rw [x_bind, h]

section
variable {h : Hd} {w : BitVec 48} {body : X Adv} {s : State}

/-- An instruction that can issue, and whose body changes nothing and raises an exception. -/
theorem issueOut_raises {e : Exc} (hi : canIssue h w s = true) (hb : body (slotStart h.ctx s) = .error (.exc e) (slotStart h.ctx s)) :
    issueOut h w body s = .next (raiseAt h.ctx w e (slotStart h.ctx s) (slotStart h.ctx s)) := by
  rw [issueOut_ok hi, hb]

theorem issueOut_traps {code : BitVec 8} {info : Datum} (hi : canIssue h w s = true)
    (hf : firstFp (getCtx (slotStart h.ctx s) h.ctx) = none)
    (hb : body (slotStart h.ctx s) = .error (.exc { code := code, info := info }) (slotStart h.ctx s)) :
    issueOut h w body s = traps h.ctx code info (slotStart h.ctx s) := by
  rw [issueOut_raises hi hb, raiseAt_own w hf]

/-- An instruction of format A has a DST field, so that every field of DISPINFO has its value (R154). -/
theorem setDisp_formatA {c : CtxId} (d : BitVec 2 × BitVec 6 × BitVec 6) (t : State) (hw : fmtOf (iMajor w) = some .a) :
    setDisp c w d t = setAx c 4 (dispInfo w d.1 d.2.1 d.2.2) t := by
  simp only [setDisp, hw]

theorem issueOut_trapsWith {code : BitVec 8} {reason : BitVec 2} {ta tb : BitVec 6} (hi : canIssue h w s = true)
    (hw : fmtOf (iMajor w) = some .a) (hf : firstFp (getCtx (slotStart h.ctx s) h.ctx) = none)
    (hb : body (slotStart h.ctx s) = .error (.exc { code := code, disp := some (reason, ta, tb) }) (slotStart h.ctx s)) :
    issueOut h w body s = trapsWith h.ctx code (dispInfo w reason ta tb) (slotStart h.ctx s) := by
  rw [issueOut_raises hi hb]
  simp [raiseAt, hf, setDisp_formatA _ _ hw, trapsWith]

end

/-! ## Checks of R149 that fail -/

section
variable {a b : Cell} {t : State}

theorem chkUnset_fails (i : Nat) (ha : cTyp a = tUNSET) : chkUnset a i t = .error (.exc { code := 0x10, info := dat i }) t := by
  rw [chkUnset, if_pos ha, xFault]

theorem chkTwo_unsetA (ua : cTyp a = tUNSET) : chkTwo a b t = .error (.exc { code := 0x10, info := 0 }) t :=
  x_bind_error (chkUnset_fails 0 ua)

theorem chkTwo_unsetB (ua : cTyp a ≠ tUNSET) (ub : cTyp b = tUNSET) : chkTwo a b t = .error (.exc { code := 0x10, info := 1 }) t :=
  (x_bind_ok (chkUnset_pass 0 t ua)).trans (x_bind_error (chkUnset_fails 1 ub))

theorem chkTwo_bad (ua : cTyp a ≠ tUNSET) (ub : cTyp b ≠ tUNSET) (hb : badCell a = true ∨ badCell b = true) :
    chkTwo a b t = .error (.exc { code := 0x11, disp := some (2, cTyp a, cTyp b) }) t := by
  rw [chkTwo, x_bind_ok (chkUnset_pass 0 t ua), x_bind_ok (chkUnset_pass 1 t ub), if_pos (by simpa using hb), typeFault]

theorem chkDispatch_fails {ta tb : BitVec 6} (hd : dispatches ta = true ∨ dispatches tb = true) :
    chkDispatch ta tb t = .error (.exc { code := 0x12, disp := some (0, ta, tb) }) t := by
  rw [chkDispatch, if_pos (by simpa using hd), dispTrap]

variable {c : CtxId}

theorem xTwo_fails {ra rb : BitVec 5} {e : Err} (ha : opnd (getCtx t c) ra = some a) (hb : opnd (getCtx t c) rb = some b)
    (hc : chkTwo a b t = .error e t) : xTwo c ra rb t = .error e t := by
  rw [xTwo, x_bind_ok (wRead_opnd ha), x_bind_ok (wRead_opnd hb), x_bind_error hc]

/-- A logical operation on a type outside its table (R172). -/
theorem xLogic_typeFault {dst : BitVec 5} {st : Bool} {op : Datum → Datum → Datum} (ht : fixRaw (cTyp a) = false ∨ fixRaw (cTyp b) = false) :
    xLogic c dst st op a b t = .error (.exc { code := 0x11, disp := some (2, cTyp a, cTyp b) }) t := by
  rw [xLogic, if_pos (by simpa using ht)]
  exact x_bind_error rfl

section
variable {w : BitVec 48} {d : Nat} {dst : BitVec 5} {st : Bool} {o : NOp}

/-- An arithmetic operation on an EXTI, EXTP or INST (R72). -/
theorem xArith_dispatches (ho : o ≠ .neg) (hd : dispatches (cTyp a) = true ∨ dispatches (cTyp b) = true) :
    xArith c w d dst st o a b t = .error (.exc { code := 0x12, disp := some (0, cTyp a, cTyp b) }) t := by
  simp only [xArith, ho, decide_false, Bool.false_eq_true, if_false]
  exact x_bind_error (chkDispatch_fails hd)

/-- An arithmetic operation on a type that is no number (R157). -/
theorem xArith_typeFault (ho : o ≠ .neg) (da : dispatches (cTyp a) = false) (db : dispatches (cTyp b) = false)
    (hn : isNum (cTyp a) = false ∨ isNum (cTyp b) = false) :
    xArith c w d dst st o a b t = .error (.exc { code := 0x11, disp := some (2, cTyp a, cTyp b) }) t := by
  simp only [xArith, ho, decide_false, Bool.false_eq_true, if_false]
  rw [x_bind_ok (chkDispatch_pass t da db), if_pos (by simpa using hn)]
  exact x_bind_error rfl

/-- A FIX result outside the range of R50 under OVT, with BIGP 0 (R161). -/
theorem xArith_overflows (ho : o ≠ .neg) (fa : cTyp a = tFIX) (fb : cTyp b = tFIX)
    (out : inFix (intOp o (cDat a).toInt (cDat b).toInt) = false) (bigp : (getCtx t c).genctl.getLsbD 0 = false)
    (ovt : (getCtx t c).genctl.getLsbD 1 = true) : xArith c w d dst st o a b t = .error (.exc { code := 0x20, info := 0 }) t := by
  simp only [xArith, ho, decide_false, Bool.false_eq_true, if_false]
  rw [x_bind_ok (chkDispatch_fix t fa fb), if_neg (by simp [fa, fb, isNum]), x_bind_ok (xCtx_eq c t), if_pos ⟨fa, .inr fb⟩,
    if_pos (by simp only [bigp, Bool.not_false, Bool.or_true]), if_pos (by simp only [fixVal, out, ovt, Bool.not_false, Bool.and_true])]
  exact x_bind_error rfl

end

end

/-! ## The operations with two interpreted operands -/

section
variable {h : Hd} {f : FA} {i : Instr} {w : BitVec 48}

/-- An arithmetic operation on operands that pass checks 1 and 2. -/
theorem xArith2_checked {a b : Cell} {t : State} {d : Nat} {o : NOp} (ha : opnd (getCtx t h.ctx) f.sa = some a)
    (hb : opnd (getCtx t h.ctx) f.sb = some b) (hc : chkTwo a b t = .ok () t) :
    xArith2 h f w d o t = xArith h.ctx w d f.dst f.s o a b t := by
  rw [xArith2, x_bind_ok (xTwo_opnd ha hb hc)]

/-- A logical operation on operands that pass checks 1 and 2. -/
theorem xLogic2_checked {c : CtxId} {a b : Cell} {t : State} {op : Datum → Datum → Datum} (ha : opnd (getCtx t c) f.sa = some a)
    (hb : opnd (getCtx t c) f.sb = some b) (hc : chkTwo a b t = .ok () t) : xLogic2 f c op t = xLogic c f.dst f.s op a b t := by
  rw [xLogic2, x_bind_ok (xTwo_opnd ha hb hc)]

theorem arith2_body (hi : i ∈ arith2 h f) (hw : encodeWord i = some w) :
    fmtOf (iMajor w) = some .a ∧ ∃ d o, o ≠ NOp.neg ∧ ∀ s, exec i s = issueOut h w (xArith2 h f w d o) s := by
  simp only [arith2, List.mem_cons, List.not_mem_nil, or_false] at hi
  rcases hi with rfl | rfl | rfl <;> cases hw
  · exact ⟨by rw [iMajor_encA]; rfl, 2, .add, by decide, fun _ => rfl⟩
  · exact ⟨by rw [iMajor_encA]; rfl, 2, .sub, by decide, fun _ => rfl⟩
  · exact ⟨by rw [iMajor_encA]; rfl, 4, .mul, by decide, fun _ => rfl⟩

theorem logical2_body (hi : i ∈ logical2 h f) (hw : encodeWord i = some w) :
    fmtOf (iMajor w) = some .a ∧ ∃ op, ∀ s, exec i s = issueOut h w (xLogic2 f h.ctx op) s := by
  simp only [logical2, List.mem_cons, List.not_mem_nil, or_false] at hi
  rcases hi with rfl | rfl | rfl | rfl <;> cases hw <;> exact ⟨by rw [iMajor_encA]; rfl, _, fun _ => rfl⟩

/-- Each of them begins with checks 1 and 2 on both operands. -/
theorem twoOperand_body (hi : i ∈ arith2 h f ++ logical2 h f) (hw : encodeWord i = some w) :
    fmtOf (iMajor w) = some .a ∧ ∃ k, ∀ s, exec i s = issueOut h w (xTwo h.ctx f.sa f.sb >>= k) s := by
  rcases List.mem_append.mp hi with hi | hi
  · obtain ⟨fmt, _, _, _, hx⟩ := arith2_body hi hw
    exact ⟨fmt, _, hx⟩
  · obtain ⟨fmt, _, hx⟩ := logical2_body hi hw
    exact ⟨fmt, _, hx⟩

end

/-- Settles O7: the body reads and checks both operands before anything else, so that the first check that fails raises its exception with the
state of the slot's start. -/
theorem operandsAreCheckedInOrder : Obligations.OperandsAreCheckedInOrder := by
  intro i h f w s a b hi hd hw ok t x fp ha hb bad
  obtain ⟨fmt, k, hx⟩ := twoOperand_body hi hw
  refine ⟨fun ua => ?_, fun ua ub => ?_, fun ua ub mal => ?_,
    fun ua ub ba bb => ⟨fun hm dis => ?_, fun hm da db num => ?_, fun hm raw => ?_⟩, fun hadd fa fb out bigp ovt => ?_⟩
  · rw [hx, issueOut_traps ok fp (x_bind_error (xTwo_fails ha hb (chkTwo_unsetA ua)))]
  · rw [hx, issueOut_traps ok fp (x_bind_error (xTwo_fails ha hb (chkTwo_unsetB ua ub)))]
  · rw [hx, issueOut_trapsWith ok fmt fp (x_bind_error (xTwo_fails ha hb (chkTwo_bad ua ub mal)))]
  · obtain ⟨_, d, o, ho, hx⟩ := arith2_body hm hw
    rw [hx, issueOut_trapsWith ok fmt fp ((xArith2_checked ha hb (chkTwo_pass t ua ub ba bb)).trans (xArith_dispatches ho dis))]
  · obtain ⟨_, d, o, ho, hx⟩ := arith2_body hm hw
    rw [hx, issueOut_trapsWith ok fmt fp ((xArith2_checked ha hb (chkTwo_pass t ua ub ba bb)).trans (xArith_typeFault ho da db num))]
  · obtain ⟨_, op, hx⟩ := logical2_body hm hw
    rw [hx, issueOut_trapsWith ok fmt fp ((xLogic2_checked ha hb (chkTwo_pass t ua ub ba bb)).trans (xLogic_typeFault raw))]
  · subst hadd
    cases hw
    exact issueOut_traps ok fp ((xArith2_checked ha hb (chkTwo_fix t fa fb)).trans (xArith_overflows (by decide) fa fb out bigp ovt))

end Sys2Proof.Proofs

/-! SUPPORT. Fields and type tests of any cell (R174, R177). -/

namespace Sys2Proof.Proofs

open Sys2Proof.Machine Sys2Proof.Expected Sys2Proof.Laws

/-- A field instruction reads its operand and checks nothing (R174). -/
theorem xField_lands {c : CtxId} {f : FA} {v : Cell} {t : State} (r : Cell → Cell) (hv : opnd (getCtx t c) f.sa = some v) :
    xField c f r t = .ok .seq (landSeq c [(1, .word f.dst, r v)] t) := by
  rw [xField, x_bind_ok (wRead_opnd hv), x_bind_ok (landW_seq ..), x_pure]

/-- What a field instruction that takes its slot lands. -/
theorem issueOut_field {h : Hd} {f : FA} {w : BitVec 48} {s : State} {v : Cell} (r : Cell → Cell) (hi : canIssue h w s = true)
    (hv : opnd (getCtx (slotStart h.ctx s) h.ctx) f.sa = some v) :
    issueOut h w (xField h.ctx f r) s = .next (slotResult h.ctx .seq [(1, .word f.dst, r v)] (slotStart h.ctx s)) :=
  issueOut_lands hi (xField_lands r hv)

theorem exec_typeof (h : Hd) (f : FA) (s : State) :
    exec (.typeof h f) s = issueOut h (encA 0x01 0x10 h f) (xField h.ctx f fun a => fixCell ((cTyp a).setWidth 48)) s := rfl

theorem exec_colourof (h : Hd) (f : FA) (s : State) :
    exec (.colourof h f) s = issueOut h (encA 0x01 0x11 h f) (xField h.ctx f fun a => fixCell ((cCol a).setWidth 48)) s := rfl

theorem exec_datumof (h : Hd) (f : FA) (s : State) :
    exec (.datumof h f) s = issueOut h (encA 0x01 0x12 h f) (xField h.ctx f fun a => rawCell (cDat a)) s := rfl

/-- The truth of a type test, by the table of the rules. -/
theorem test_opnd {x : Ctx} {f : FP} {v : Cell} {q : BitVec 6 → Datum → Bool} {b : Bool} (hv : opnd x f.sa = some v)
    (hq : q (cTyp v) (cDat v) = true ↔ b = true) : test x f q = some (Expected.pred f.pd b) := by
  rw [test, hv, Option.map_some, Bool.eq_iff_iff.mpr hq]

/-- An instruction that takes its slot lands the bit that the table of the rules gives it. -/
theorem compares_lands {h : Hd} {i : Instr} {w : BitVec 48} {s : State} {pd : BitVec 3} {b : Bool} (hi : Takes i h w s)
    (hl : compares (getCtx (slotStart h.ctx s) h.ctx) i = some (Expected.pred pd b)) :
    exec i s = .next (slotResult h.ctx .seq [(2, .pred pd, if b then 1 else 0)] (slotStart h.ctx s)) := by
  obtain ⟨hd, hw, ok⟩ := hi
  exact comparisonsLandATruthValue i h w s _ hd hw ok hl

/-- The type tests have no SB (R125): a word of one of them with another SB than w0 is reserved (R145). -/
theorem encOk_typeTest {minor : BitVec 8} {h : Hd} {f : FP} (e : BitVec 8) (hm : 0x10 ≤ minor.toNat) (hb : f.sb ≠ 0) :
    encOk (encP minor h f) e = false := by
  obtain ⟨major, -, field, reads⟩ := encP_reads minor h f
  have sb : bits (encP minor h f).toNat 21 5 ≠ 0 := by
    rw [bits_toNat, show (encP minor h f).extractLsb' 21 5 = f.sb from congrArg FP.sb reads]
    exact fun zero => hb (BitVec.eq_of_toNat_eq zero)
  have fmt : fmtOf (iMajor (encP minor h f)) = some .p := by rw [iMajor, bits_toNat, major]; rfl
  have test : bits (encP minor h f).toNat 0 8 = minor.toNat := by rw [bits_toNat, field]
  simp only [encOk, fmt, test, if_neg (show ¬ minor.toNat ≤ 6 by omega), sb, decide_false, Bool.and_false, Bool.false_and, ite_self]

/-- Settles O11: the bodies of these instructions read their operand and make no check. -/
theorem typeTestsAcceptEveryCell : Obligations.TypeTestsAcceptEveryCell := by
  refine ⟨?_, ?_, ?_⟩
  · intro h f w s v t fix hv
    refine ⟨?_, ?_, ?_⟩ <;> rintro ⟨_, hw, ok⟩ <;> cases hw
    · rw [exec_typeof, issueOut_field _ ok hv]
      simp only [fix, BitVec.ofNat_toNat]
      rfl
    · rw [exec_colourof, issueOut_field _ ok hv]
      simp only [fix, BitVec.ofNat_toNat]
      rfl
    · rw [exec_datumof, issueOut_field _ ok hv]
      rfl
  · intro h f w s v t n lands hv
    refine ⟨fun hi => compares_lands hi ?_, fun hi => compares_lands hi ?_, fun hi => compares_lands hi ?_, fun hi => compares_lands hi ?_,
      fun hi => compares_lands hi ?_⟩
    all_goals
      simp only [compares]
      refine test_opnd hv ?_
      simp only [Bool.or_eq_true, Bool.and_eq_true, decide_eq_true_eq]
      simp [n, cTyp, cDat, ← BitVec.toNat_inj, or_assoc, or_left_comm]
  · intro h f i w e hi hw hb
    simp only [List.mem_cons, List.not_mem_nil, or_false] at hi
    rcases hi with rfl | rfl | rfl | rfl | rfl <;> cases hw <;> exact encOk_typeTest e (by decide) hb

end Sys2Proof.Proofs

/-! SUPPORT. Operations on F32 operands and FP-class instructions (R153, R155, R158, R168, R195 to R199): results that land with the exceptions that
they raised, none of which is enabled. -/

namespace Sys2Proof.Proofs

open Sys2Proof.Machine Sys2Proof.Expected Sys2Proof.Laws

/-! ## The slot of a float operation (R153) -/

/-- The state with exceptions collected in FPFLAGS. -/
def fpCollected (c : CtxId) (fl : BitVec 5) (s : State) : State := updCtx c (fun x => { x with fpflags := x.fpflags ||| fl }) s

/-- A body makes landings, collects exceptions, and goes on to the next instruction. -/
def FloatLands (c : CtxId) (body : X Adv) (ls : Lands) (fl : BitVec 5) (t : State) : Prop :=
  body t = .ok .seq (landSeq c ls (fpCollected c fl t))

theorem issueOut_floatLands {h : Hd} {w : BitVec 48} {body : X Adv} {s : State} {ls : Lands} {fl : BitVec 5} (hi : canIssue h w s = true)
    (hb : FloatLands h.ctx body ls fl (slotStart h.ctx s)) :
    issueOut h w body s = .next (slotResult h.ctx .seq ls (fpCollected h.ctx fl (slotStart h.ctx s))) := by
  obtain ⟨hr, hp, hw⟩ := canIssue_spec hi
  rw [issueOut_done hi hb,
    slotDone_landSeq (by simpa [fpCollected] using hr) (by simpa [fpCollected] using hp) (by simpa [fpCollected] using hw)]

/-! ## Operands that the spindle computes with (R155) -/

theorem fixOrF32_spec {ty : BitVec 6} (h : ty = tFIX ∨ ty = tF32) :
    ty ≠ tUNSET ∧ ty ≠ tCHAR ∧ dispatches ty = false ∧ isNum ty = true ∧ isHeavy ty = false := by
  rcases h with rfl | rfl <;> decide

theorem f32s_spec {a b : Cell} (h : f32s a b = true) :
    (cTyp a = tF32 ∨ cTyp b = tF32) ∧ (cTyp a = tFIX ∨ cTyp a = tF32) ∧ (cTyp b = tFIX ∨ cTyp b = tF32) ∧ badCell a = false ∧
      badCell b = false := by
  simp only [f32s, Bool.and_eq_true, Bool.or_eq_true, decide_eq_true_eq, Bool.not_eq_true'] at h
  obtain ⟨⟨⟨⟨some32, ta⟩, tb⟩, ba⟩, bb⟩ := h
  exact ⟨some32, ta, tb, ba, bb⟩

theorem chkTwo_f32s {a b : Cell} (t : State) (h : f32s a b = true) : chkTwo a b t = .ok () t := by
  obtain ⟨_, ta, tb, ba, bb⟩ := f32s_spec h
  exact chkTwo_pass t (fixOrF32_spec ta).1 (fixOrF32_spec tb).1 ba bb

/-! ## Arithmetic (R157, R158, R168) -/

/-- A cell as a number is an F32 or an integer. -/
theorem cellNum_cases (v : Cell) : (cTyp v = tF32 ∧ ∃ x, cellNum v = .s32 x) ∨ (cTyp v ≠ tF32 ∧ ∃ i, cellNum v = .int i) := by
  by_cases h : cTyp v = tF32
  · exact .inl ⟨h, _, if_pos h⟩
  · exact .inr ⟨h, _, if_neg h⟩

/-- The result of an operation on an F32 operand is an F32 (R157). -/
theorem numOp_f32 (rm : BitVec 2) {o : NOp} {a b : Cell} (h : cTyp a = tF32 ∨ (o ≠ .neg ∧ cTyp b = tF32)) :
    ∃ r fl, numOp rm o (cellNum a) (cellNum b) = (.s32 r, fl) := by
  rcases cellNum_cases a with ⟨_, x, ha⟩ | ⟨na, i, ha⟩ <;> rcases cellNum_cases b with ⟨_, y, hb⟩ | ⟨nb, j, hb⟩
  · simp [numOp, ha, hb]
  · simp [numOp, ha, hb]
  · have ho : o ≠ .neg := (h.resolve_left na).1
    simp [numOp, ha, hb, ho]
  · exact absurd (h.resolve_left na).2 nb

/-- What an operation lands as an F32, with STATUS for the status form, and the exceptions that it raises. -/
def f32Out (x : Ctx) (d : Nat) (dst : BitVec 5) (s : Bool) (o : NOp) (a b : Cell) : Lands × BitVec 5 :=
  let r := numOp (rmOf x) o (cellNum a) (cellNum b)
  ((d, .word dst, f32Of r.1) :: stat s (flagsOf (numZN r.1).1 (numZN r.1).2 false false false), r.2)

section
variable {c : CtxId} {t : State} {w : BitVec 48}

/-- An operation on an F32, alone or with a FIX or an F32, is rounded on the spindle (R155). For NEG the second operand is not read. -/
theorem xArith_floats {d : Nat} {dst : BitVec 5} {st : Bool} {o : NOp} {a b : Cell} (ta : cTyp a = tFIX ∨ cTyp a = tF32)
    (tb : o = .neg ∨ cTyp b = tFIX ∨ cTyp b = tF32) (f32 : cTyp a = tF32 ∨ (o ≠ .neg ∧ cTyp b = tF32))
    (hq : (f32Out (getCtx t c) d dst st o a b).2 &&& fpEnables (getCtx t c) = 0) :
    FloatLands c (xArith c w d dst st o a b) (f32Out (getCtx t c) d dst st o a b).1 (f32Out (getCtx t c) d dst st o a b).2 t := by
  obtain ⟨_, _, da, na, la⟩ := fixOrF32_spec ta
  have second : dispatches (if o = .neg then 0 else cTyp b) = false ∧ (!decide (o = .neg) && !isNum (if o = .neg then 0 else cTyp b)) = false ∧
      isHeavy (if o = .neg then 0 else cTyp b) = false := by
    by_cases ho : o = .neg
    · simp [ho, dispatches, isHeavy]
    · obtain ⟨_, _, db, nb, lb⟩ := fixOrF32_spec (tb.resolve_left ho)
      simp [ho, db, nb, lb]
  obtain ⟨hd, hn, hl⟩ := second
  obtain ⟨r, fl, hr⟩ := numOp_f32 (rmOf (getCtx t c)) f32
  have notFix : ¬ (cTyp a = tFIX ∧ (o = .neg ∨ (if o = .neg then 0 else cTyp b) = tFIX)) := by
    rintro ⟨fa, h⟩
    obtain ⟨ho, fb⟩ := f32.resolve_left (by rw [fa]; decide)
    rw [if_neg ho, fb] at h
    exact h.elim ho (by decide)
  simp only [f32Out, hr] at hq ⊢
  simp only [FloatLands, xArith, decide_eq_true_eq]
  rw [x_bind_ok (chkDispatch_pass t da hd), if_neg (by simp only [na, hn, Bool.not_true, Bool.or_false, Bool.false_eq_true, not_false_iff]),
    x_bind_ok (xCtx_eq c t), if_neg notFix, la, hl, if_neg (by decide)]
  simp only [hr]
  exact (x_bind_ok (landFp_quiet _ hq)).trans (x_pure ..)

/-! ## Comparisons (R166, R167) -/

/-- An ordered comparison with an F32 is answered on the spindle. -/
theorem xOrd_floats {a b : Cell} (d : CDst) (r : Rel) (h : f32s a b = true)
    (hq : (numRel r (cellNum a) (cellNum b)).2 &&& fpEnables (getCtx t c) = 0) :
    FloatLands c (xOrd c w d r a b) (cmpLand d (numRel r (cellNum a) (cellNum b)).1) (numRel r (cellNum a) (cellNum b)).2 t := by
  obtain ⟨_, ta, tb, _, _⟩ := f32s_spec h
  obtain ⟨_, ca, da, na, la⟩ := fixOrF32_spec ta
  obtain ⟨_, cb, db, nb, lb⟩ := fixOrF32_spec tb
  rw [FloatLands, xOrd, x_bind_ok (chkTwo_f32s t h), x_bind_ok (chkDispatch_pass t da db), if_neg (fun both => ca both.1), na, nb, la, lb,
    if_neg (by decide), if_neg (by decide)]
  exact (x_bind_ok (landFp_quiet _ hq)).trans (x_pure ..)

/-! ## The operands of the rules, and the bodies that read them -/

/-- A form of the table: two operands, each of them a register's or an immediate, and what is made of them. -/
def f32Form (p q : Option Cell) (g : Cell → Cell → Lands × BitVec 5) : Option (Lands × BitVec 5) := do
  let a ← p
  let b ← q
  need (f32s a b)
  some (g a b)

theorem f32Form_eq_some {p q : Option Cell} {g : Cell → Cell → Lands × BitVec 5} {z : Lands × BitVec 5} :
    f32Form p q g = some z ↔ ∃ a b, p = some a ∧ q = some b ∧ f32s a b = true ∧ g a b = z := by
  simp [f32Form, Option.bind_eq_some_iff, need_eq_some]

/-- What an ordered comparison lands, and the exceptions that it raises. -/
def ordOut (r : Rel) (l : Bool → Lands) (a b : Cell) : Lands × BitVec 5 :=
  (l (numRel r (cellNum a) (cellNum b)).1, (numRel r (cellNum a) (cellNum b)).2)

variable {ls : Lands} {fl : BitVec 5}

theorem xArith_f32s {d : Nat} {dst : BitVec 5} {st : Bool} {o : NOp} {a b : Cell} (ho : o ≠ .neg) (h : f32s a b = true)
    (hz : f32Out (getCtx t c) d dst st o a b = (ls, fl)) (hq : fl &&& fpEnables (getCtx t c) = 0) :
    FloatLands c (xArith c w d dst st o a b) ls fl t := by
  obtain ⟨some32, ta, tb, _, _⟩ := f32s_spec h
  cases hz
  exact xArith_floats ta (.inr tb) (some32.imp_right fun f32 => ⟨ho, f32⟩) hq

theorem arithRegs_floats {h : Hd} {f : FA} {d : Nat} {o : NOp} (ho : o ≠ .neg) (hq : fl &&& fpEnables (getCtx t h.ctx) = 0)
    (hz : f32Form (opnd (getCtx t h.ctx) f.sa) (opnd (getCtx t h.ctx) f.sb) (f32Out (getCtx t h.ctx) d f.dst f.s o) = some (ls, fl)) :
    FloatLands h.ctx (xArith2 h f w d o) ls fl t := by
  obtain ⟨a, b, ha, hb, h32, out⟩ := f32Form_eq_some.mp hz
  exact (xArith2_checked ha hb (chkTwo_f32s t h32)).trans (xArith_f32s ho h32 out hq)

theorem arithImm_floats {h : Hd} {f : FI} {o : NOp} (ho : o ≠ .neg) (hq : fl &&& fpEnables (getCtx t h.ctx) = 0)
    (hz : f32Form (opnd (getCtx t h.ctx) f.sa) (some (immFix f.imm)) (f32Out (getCtx t h.ctx) 2 f.dst f.s o) = some (ls, fl)) :
    FloatLands h.ctx (xArithI h f w o) ls fl t := by
  obtain ⟨a, b, ha, hb, h32, out⟩ := f32Form_eq_some.mp hz
  cases hb
  rw [FloatLands, xArithI, x_bind_ok (wRead_opnd ha), x_bind_ok (chkTwo_f32s t h32)]
  exact xArith_f32s ho h32 out hq

/-- NEG of an F32 (R157, R168). -/
theorem neg_floats {f : FA} (hq : fl &&& fpEnables (getCtx t c) = 0)
    (hz : (do let a ← opnd (getCtx t c) f.sa
              need (decide (cTyp a = tF32) && !badCell a)
              some (f32Out (getCtx t c) 2 f.dst f.s .neg a nilCell)) = some (ls, fl)) :
    FloatLands c (xOne c f.sa >>= fun a => xArith c w 2 f.dst f.s .neg a nilCell) ls fl t := by
  simp only [Option.bind_eq_bind, Option.bind_eq_some_iff, need_eq_some, Bool.and_eq_true, decide_eq_true_eq, Bool.not_eq_true',
    Option.some.injEq, exists_const] at hz
  obtain ⟨a, ha, ⟨f32, ba⟩, out⟩ := hz
  cases out
  rw [FloatLands, x_bind_ok (xOne_opnd ha (by rw [f32]; decide) ba)]
  exact xArith_floats (.inr f32) (.inl rfl) (.inl f32) hq

theorem ordRegs_floats {ra rb : BitVec 5} {d : CDst} {l : Bool → Lands} (r : Rel) (hl : ∀ v, l v = cmpLand d v)
    (hq : fl &&& fpEnables (getCtx t c) = 0)
    (hz : f32Form (opnd (getCtx t c) ra) (opnd (getCtx t c) rb) (ordOut r l) = some (ls, fl)) :
    FloatLands c (xRegs c ra rb >>= fun v => xOrd c w d r v.1 v.2) ls fl t := by
  obtain ⟨a, b, ha, hb, h32, out⟩ := f32Form_eq_some.mp hz
  cases out
  rw [FloatLands, x_bind_ok (xRegs_opnd ha hb), hl]
  exact xOrd_floats d r h32 hq

theorem ordImm_floats {ra : BitVec 5} {imm : BitVec 24} {d : CDst} {l : Bool → Lands} (r : Rel) (hl : ∀ v, l v = cmpLand d v)
    (hq : fl &&& fpEnables (getCtx t c) = 0)
    (hz : f32Form (opnd (getCtx t c) ra) (some (immFix imm)) (ordOut r l) = some (ls, fl)) :
    FloatLands c (wRead c ra >>= fun a => xOrd c w d r a (immFix imm)) ls fl t := by
  obtain ⟨a, b, ha, hb, h32, out⟩ := f32Form_eq_some.mp hz
  cases hb
  cases out
  rw [FloatLands, x_bind_ok (wRead_opnd ha), hl]
  exact xOrd_floats d r h32 hq

/-- The body of each generic operation of the table lands what the table says (R155, R158, R168). -/
theorem f32Forms_body {i : Instr} {h : Hd} (hd : headOf i = some h) (hw : encodeWord i = some w)
    (hz : f32Forms (getCtx t h.ctx) i = some (ls, fl)) (hq : fl &&& fpEnables (getCtx t h.ctx) = 0) :
    ∃ body, (∀ s, exec i s = issueOut h w body s) ∧ FloatLands h.ctx body ls fl t := by
  cases i with (cases hd <;> cases hw)
  | add _ f | sub _ f | mul _ f => exact ⟨_, fun _ => rfl, arithRegs_floats (by decide) hq hz⟩
  | neg _ f => exact ⟨_, fun _ => rfl, neg_floats hq hz⟩
  | addi _ f | subi _ f => exact ⟨_, fun _ => rfl, arithImm_floats (by decide) hq hz⟩
  | lt _ f => exact ⟨_, fun _ => rfl, ordRegs_floats .lt (truth_eq f.dst) hq hz⟩
  | le _ f => exact ⟨_, fun _ => rfl, ordRegs_floats .le (truth_eq f.dst) hq hz⟩
  | gt _ f => exact ⟨_, fun _ => rfl, ordRegs_floats .gt (truth_eq f.dst) hq hz⟩
  | ge _ f => exact ⟨_, fun _ => rfl, ordRegs_floats .ge (truth_eq f.dst) hq hz⟩
  | cmplt _ f => exact ⟨_, fun _ => rfl, ordRegs_floats .lt (pred_eq f.pd) hq hz⟩
  | cmple _ f => exact ⟨_, fun _ => rfl, ordRegs_floats .le (pred_eq f.pd) hq hz⟩
  | cmpgt _ f => exact ⟨_, fun _ => rfl, ordRegs_floats .gt (pred_eq f.pd) hq hz⟩
  | cmpge _ f => exact ⟨_, fun _ => rfl, ordRegs_floats .ge (pred_eq f.pd) hq hz⟩
  | cmplti _ f => exact ⟨_, fun _ => rfl, ordImm_floats .lt (pred_eq f.pd) hq hz⟩
  | cmplei _ f => exact ⟨_, fun _ => rfl, ordImm_floats .le (pred_eq f.pd) hq hz⟩
  | cmpgti _ f => exact ⟨_, fun _ => rfl, ordImm_floats .gt (pred_eq f.pd) hq hz⟩
  | cmpgei _ f => exact ⟨_, fun _ => rfl, ordImm_floats .ge (pred_eq f.pd) hq hz⟩
  | _ => cases hz

end

/-! ## FP-class instructions (R195 to R199) -/

/-- The FP-class instructions with their minor codes (R195). -/
def fpForms (h : Hd) (f : FA) : List (Nat × Instr) :=
  [(0x00, .fadd h f), (0x01, .fsub h f), (0x02, .fmul h f), (0x03, .fdiv h f), (0x04, .fmin h f), (0x05, .fmax h f), (0x06, .fneg h f),
    (0x07, .fabs h f), (0x08, .fmov h f), (0x09, .fsqrt h f), (0x10, .fcmp h f), (0x20, .ffromw h f), (0x21, .ftof32 h f),
    (0x22, .ftofix h f)]

/-- What an FP-class instruction reads of the word registers: FFROMW a FIX or an F32, the others nothing. -/
def FpOperand (x : Ctx) (f : FA) (m : Nat) (v : Cell) : Prop :=
  if m = 0x20 then opnd x f.sa = some v ∧ badCell v = false ∧ (cTyp v = tFIX ∨ cTyp v = tF32) else v = nilCell

section
variable {h : Hd} {f : FA} {w : BitVec 48} {t u : State} {v : Cell} {r : FpRes} {m : Nat}

theorem fpOperand_light (hv : FpOperand (getCtx t h.ctx) f m v) : isHeavy (cTyp v) = false := by
  unfold FpOperand at hv
  split at hv
  · obtain ⟨_, _, ty⟩ := hv
    obtain ⟨_, _, _, _, light⟩ := fixOrF32_spec ty
    exact light
  · rw [hv]
    decide

/-- The owner of the file computes on the spindle (R199). -/
theorem xFp_owned (hz : fpsaZero (getCtx t h.ctx) = false) (own : (getSp t (ctxSp (getCtx t h.ctx))).fpOwner = some h.ctx)
    (light : isHeavy (cTyp v) = false) (hc : fpCompute h.ctx (bits w.toNat 0 8) f.dst f.sa f.sb (cellNum v) t = .ok r t)
    (hq : r.flags &&& fpEnables (getCtx t h.ctx) = 0) : FloatLands h.ctx (xFp h f w v) r.lands r.flags t := by
  simp only [FloatLands, xFp]
  rw [x_bind_ok (xCtx_eq h.ctx t), hz, if_neg (by decide), x_bind_ok (x_get t), if_neg (fun other => other own), light, if_neg (by decide),
    x_bind_ok hc]
  exact (x_bind_ok (landFp_quiet _ hq)).trans (x_pure ..)

/-- FFROMW checks its word operand, and is then an FP-class instruction like the others. -/
theorem ffromw_body (h : Hd) (f : FA) : ∃ body, (∀ s, exec (.ffromw h f) s = issueOut h (encA 0x30 0x20 h f) body s) ∧
    ∀ t v, fpsaZero (getCtx t h.ctx) = false → FpOperand (getCtx t h.ctx) f 0x20 v → body t = xFp h f (encA 0x30 0x20 h f) v t := by
  refine ⟨_, fun _ => rfl, fun t v hz hv => ?_⟩
  obtain ⟨ha, ba, ty⟩ := hv
  obtain ⟨ua, _, _, na, _⟩ := fixOrF32_spec ty
  rw [x_bind_ok (xCtx_eq h.ctx t), hz, if_neg (by decide)]
  refine (x_bind_ok (xOne_opnd ha ua ba)).trans ?_
  rw [na]
  rfl

/-- The word of an FP-class instruction names its minor code, and its body is the one they share. -/
theorem fpForms_body {i : Instr} (hi : (m, i) ∈ fpForms h f) (hw : encodeWord i = some w) :
    bits w.toNat 0 8 = m ∧ ∃ body, (∀ s, exec i s = issueOut h w body s) ∧
      ∀ t v, fpsaZero (getCtx t h.ctx) = false → FpOperand (getCtx t h.ctx) f m v → body t = xFp h f w v t := by
  by_cases hm : m = 0x20
  · have word : i = .ffromw h f := by simpa [fpForms, hm] using hi
    subst word hm
    cases hw
    exact ⟨minor_encA .., ffromw_body h f⟩
  · have file : ∀ t v, fpsaZero (getCtx t h.ctx) = false → FpOperand (getCtx t h.ctx) f m v → xFp h f w nilCell t = xFp h f w v t := by
      intro t v _ hv
      rw [FpOperand, if_neg hm] at hv
      rw [hv]
    simp only [fpForms, List.mem_cons, Prod.mk.injEq, List.not_mem_nil, hm, false_and, false_or, or_false] at hi
    rcases hi with ⟨rfl, rfl⟩ | ⟨rfl, rfl⟩ | ⟨rfl, rfl⟩ | ⟨rfl, rfl⟩ | ⟨rfl, rfl⟩ | ⟨rfl, rfl⟩ | ⟨rfl, rfl⟩ | ⟨rfl, rfl⟩ | ⟨rfl, rfl⟩ |
      ⟨rfl, rfl⟩ | ⟨rfl, rfl⟩ | ⟨rfl, rfl⟩ | ⟨rfl, rfl⟩ <;> cases hw <;> exact ⟨minor_encA .., _, fun _ => rfl, file⟩

end

/-- Settles O15: an operation on an F32 and an FP-class instruction of the owner of the file compute on the spindle, and with no exception
enabled what they computed lands. -/
theorem floatingPointLandsRoundedResults : Obligations.FloatingPointLandsRoundedResults := by
  refine ⟨?_, ?_⟩
  · rintro i h w s ls fl ⟨hd, hw, ok⟩ hz hq
    obtain ⟨body, hx, hb⟩ := f32Forms_body hd hw hz hq
    rw [hx, issueOut_floatLands ok hb]
    rfl
  · rintro i h f m w s v r hi ⟨_, hw, ok⟩ t x hz own hv hc hq
    obtain ⟨minor, body, hx, hb⟩ := fpForms_body hi hw
    have lands : FloatLands h.ctx body r.lands r.flags t :=
      (hb t v hz hv).trans (xFp_owned hz own (fpOperand_light hv) (by rw [minor]; exact hc) hq)
    rw [hx, issueOut_floatLands ok lands]
    rfl

end Sys2Proof.Proofs

/-! SUPPORT. Table bases, and control registers whose writes have effects of their own (R198, R201, R256, R312, R318, R365, R380, R485, R556). -/

namespace Sys2Proof.Proofs

open Sys2Proof.Machine Sys2Proof.Expected Sys2Proof.Laws

/-! ## Table bases (R318, R485, R556) -/

/-- A write of a table base that the block serves is performed when its numbers are FREE. -/
theorem baseWrite_free {ok : State → Bool} {f : State → State} {s : State} (h : served s = true) (free : ok s = true) :
    hostWr (baseWrite ok f) s = f s := by
  rw [hostWr_served h, baseWrite, if_pos free]

/-- Otherwise it is discarded and counted. -/
theorem baseWrite_busy {ok : State → Bool} {f : State → State} {s : State} (h : served s = true) (busy : ok s = false) :
    hostWr (baseWrite ok f) s = logOnly 0x2A 4 39 0 none none 0 s := by
  rw [hostWr_served h, baseWrite, if_neg (by simp [busy])]

/-! ## Writes that land, and writes that a hank's grant refuses (R95, R365, R380, R554) -/

section
variable {c : CtxId} {n : Nat} {v : Datum} {s : State}

theorem landNow_exists (h : exists_ c s = true) : landNow c n v s = crLand c n v s := by
  simp only [exists_, Bool.and_eq_true, decide_eq_true_eq] at h
  exact if_neg (not_or.mpr h)

/-- A context that no hank owns has no grant to meet. -/
theorem crGrant_own (h : (getCtx s c).hv = false) : crGrant s (getCtx s c) n v = none := by
  rw [crGrant, h]
  rfl

theorem grantWrite_own (h : exists_ c s = true) (hv : (getCtx s c).hv = false) : grantWrite c n v s = crLand c n v s := by
  simp only [grantWrite, crGrant_own hv, landNow_exists h]

theorem grantWrite_refused {i : Datum} (h : exists_ c s = true) (run : (getCtx s c).st = .running)
    (hg : crGrant s (getCtx s c) n v = some i) : grantWrite c n v s = raiseAt c 0 { code := 0x5C, info := i } s s := by
  simp only [exists_, Bool.and_eq_true, decide_eq_true_eq] at h
  simp only [grantWrite, hg]
  exact if_pos ⟨run, h.1⟩

/-! ## SPILL (R201) -/

/-- A line entry of the save area: eight cells of the image of the f file. -/
def spillEntry (c : CtxId) (s : State) (j : Nat) : SbEntry :=
  { ctx := c, sbar := (getCtx s c).sbars
    kind := .line (lineOf (fpCell (getCtx s c) (8 * j))) ((upto 8).map fun i =>
      ((fpCell (getCtx s c) (8 * j + i)).toNat, (fpImage (getSp s (ctxSp (getCtx s c)))).getD (8 * j + i) 0)) }

/-- The owner of a written file saves it by four line entries that find room. -/
theorem spillFile_room {u : State} (own : (getSp s (ctxSp (getCtx s c))).fpOwner = some c)
    (written : (getSp s (ctxSp (getCtx s c))).fpWritten = true) (area : fpsaZero (getCtx s c) = false)
    (room : sbPutAll c ((upto 4).map (spillEntry c s)) s = ([], u)) :
    spillFile c s = updCtx c (fun x => { x with fpSaved := true }) u := by
  have saves : ¬ ((getSp s (ctxSp (getCtx s c))).fpOwner ≠ some c ∨ (!(getSp s (ctxSp (getCtx s c))).fpWritten) = true ∨
      fpsaZero (getCtx s c) = true) := by simp [own, written, area]
  unfold spillEntry at room
  simp only [spillFile]
  rw [if_neg saves, room]
  rfl

/-- A context that neither parks nor waits runs on. -/
theorem settle_none (hp : (getCtx s c).park = none) (hw : (getCtx s c).wait = none) : settle c s = s := by
  simp [settle, hp, hw]

end

/-- Settles O35: a write of a table base is performed or discarded by one condition, and a write of a special register lands by its own row of
the writes, unless the grant of its context's hank refuses it. -/
theorem tableBasesAndSpecialRegisters : Obligations.TableBasesAndSpecialRegisters := by
  refine ⟨?_, ?_, ?_⟩
  · intro v s hs en base drop
    refine ⟨fun free => ⟨?_, ?_⟩, fun busy => ⟨?_, ?_⟩, fun free => ?_, fun busy => ?_⟩
    · exact congrArg _ (baseWrite_free hs free)
    · exact congrArg _ (baseWrite_free hs free)
    · exact congrArg _ (baseWrite_busy hs busy)
    · exact congrArg _ (baseWrite_busy hs busy)
    · exact congrArg _ (baseWrite_free (ok := allHanksFree) hs free)
    · exact congrArg _ (baseWrite_busy (ok := allHanksFree) hs busy)
  · exact fun c v i s hc run => ⟨fun hg => congrArg _ (grantWrite_refused hc run hg), fun hg => congrArg _ (grantWrite_refused hc run hg),
      fun hg => congrArg _ (grantWrite_refused hc run hg), fun hg => congrArg _ (grantWrite_refused hc run hg)⟩
  · intro c v s hc hv
    refine ⟨?_, fun u own written area _ room hp hw => ?_, ?_, ?_, ?_, ?_⟩
    · exact congrArg _ (grantWrite_own hc hv)
    · have lands : landNow c 0x049 2 s = updCtx c (fun x => { x with fpSaved := true }) u :=
        (landNow_exists hc).trans (spillFile_room own written area room)
      change Host.Outcome.next (settle c (landNow c 0x049 2 s)) = _
      rw [lands, settle_none (by simpa using hp) (by simpa using hw)]
    · exact congrArg _ (landNow_exists hc)
    · exact congrArg _ (grantWrite_own hc hv)
    · exact congrArg _ (grantWrite_own hc hv)
    · exact congrArg _ (grantWrite_own hc hv)

end Sys2Proof.Proofs

/-! SUPPORT. Branches, calls, returns and LOOP (R203 to R207, R211 to R219, R224): code addresses and stack pointers that pass their checks, and the
memory phases of calls and returns that are served in their slot. -/

namespace Sys2Proof.Proofs

open Sys2Proof.Machine Sys2Proof.Expected Sys2Proof.Laws

/-- A check that passes, or is not made, goes on with the rest of the body. -/
theorem x_check_pass {β : Type} {p : Prop} [Decidable p] {check : X Unit} {rest : Unit → X β} {s : State} (h : p → check s = .ok () s) :
    (if p then check >>= rest else rest ()) s = rest () s := by
  split
  · next made => exact x_bind_ok (h made)
  · rfl

/-! ## Code addresses (R131, R204) -/

/-- The instruction address of a RAW, LOC or CODE cell (R204). -/
def CodeAdr (v : Cell) (tgt : VAddr) : Prop :=
  ((cTyp v = tRAW ∨ cTyp v = tLOC) ∧ tgt = cDat v) ∨ (cTyp v = tCODE ∧ vAdd (cDat v) 1 = some tgt)

/-- A cell that names code or a place on the stack is set and well formed whatever its datum (R149). -/
theorem transfer_wellFormed {v : Cell} (hv : cTyp v ∈ [tRAW, tLOC, tCODE, tFUNC]) : cTyp v ≠ tUNSET ∧ badCell v = false := by
  simp only [List.mem_cons, List.not_mem_nil, or_false] at hv
  rcases hv with ty | ty | ty | ty <;> simp [badCell, isMalformed, isReserved, ty]

theorem CodeAdr.typ_mem {v : Cell} {tgt : VAddr} (hv : CodeAdr v tgt) : cTyp v ∈ [tRAW, tLOC, tCODE, tFUNC] := by
  rcases hv with ⟨ty | ty, _⟩ | ⟨ty, _⟩ <;> simp [ty]

section
variable {c : CtxId} {s t u v b : State} {tgt : VAddr}

theorem xCode_ok {a : VAddr} {d : Int} (ht : vAdd a d = some tgt) : xCode a d s = .ok tgt s := by
  rw [xCode, ht]
  rfl

theorem xBTarget_ok {f : FB} (ht : vAdd (getCtx s c).flow.pc f.disp.toInt = some tgt) : xBTarget c f s = .ok tgt s := by
  rw [xBTarget, x_bind_ok (xCtx_eq c s)]
  exact xCode_ok ht

theorem xCallRoom_ok (room : vOff (getCtx s c).flow.pc ≤ 2 ^ 40 - 4) : xCallRoom c s = .ok () s := by
  rw [xCallRoom, x_bind_ok (xCtx_eq c s), if_neg (Nat.not_lt.mpr room), x_pure]

theorem xCodeAdr_ok {r : BitVec 5} {a : Cell} (ha : opnd (getCtx s c) r = some a) (hc : CodeAdr a tgt) : xCodeAdr c r s = .ok tgt s := by
  obtain ⟨set, wf⟩ := transfer_wellFormed hc.typ_mem
  rw [xCodeAdr, x_bind_ok (xOne_opnd ha set wf)]
  rcases hc with ⟨ty, rfl⟩ | ⟨ty, next⟩
  · rw [if_pos ty, x_pure]
  · rw [if_neg (by simp [ty]), if_pos ty, xCode_ok next]

/-! ## The stack (R211 to R219) -/

theorem xSp_ok {α : Type} {sp : Cell} {k : X α} (ty : cTyp sp = tLOC ∨ cTyp sp = tRAW) : xSp sp k s = k s := by
  rw [xSp, if_pos ty]

/-- The push of a call: its RETA enters the store buffer, and the lowered stack pointer lands (R213). -/
theorem xPush_ok {sp : Cell} {pa : PAddr} (ty : cTyp sp = tLOC ∨ cTyp sp = tRAW)
    (range : xStackRange c (vAddW (cDat sp) (-1)) s = .ok () s)
    (hx : xlateNormal c (getCtx s c).level false (vAddW (cDat sp) (-1)) .write s = .ok pa t)
    (hb : Buffered true c (vAddW (cDat sp) (-1)) pa 0 (mkCell 0 tRETA (vAddW (getCtx s c).flow.pc 3)) t u) :
    xPush c false tgt sp s =
      .ok (.branch tgt false) (landSeq c [(3, .word 31, withAddr sp (vAddW (cDat sp) (-1)))] u) := by
  rw [xPush, x_bind_ok (xCtx_eq c s), xSp_ok ty, x_bind_ok range, x_bind_ok hx, xStoreP, x_bind_ok (xStoreB_buffered hb),
    x_bind_ok (landW_seq ..), x_pure]

theorem memBasic_call (w : BitVec 48) (sp : Cell) : memBasic c false w (.call tgt sp) s = xPush c false tgt sp s := by
  simp only [memBasic]
  rw [x_bind_ok (xCtx_eq c s)]

/-- FCALL pushes once its target is resolved, with w31 as it was at the slot (R204, R213). -/
theorem memBasic_fcall {w : BitVec 48} {f sp : Cell} (hf : xFuncEntry c false w f s = .ok tgt t) (hsp : verify sp = some (sp, false)) :
    memBasic c false w (.fcall f sp) s = xPush c false tgt sp t := by
  have checked : wCheck c 31 sp t = .ok sp t := by simp only [wCheck, hsp]
  simp only [memBasic]
  rw [x_bind_ok (xCtx_eq c s), x_bind_ok hf, x_bind_ok checked]

/-- The pop of RET (R216): the RETA is read and overwritten, and the raised stack pointer lands. -/
theorem memBasic_ret {w : BitVec 48} {sp r : Cell} {pa pw : PAddr} (ty : cTyp sp = tLOC ∨ cTyp sp = tRAW)
    (range : xStackRange c (cDat sp) s = .ok () s) (hx : xlateNormal c (getCtx s c).level false (cDat sp) .read s = .ok pa t)
    (hr : xNormal c false false (cDat sp) pa t = .ok r u) (reta : cTyp r = tRETA)
    (hw : xlateNormal c (getCtx s c).level false (cDat sp) .write u = .ok pw v) (hb : Buffered true c (cDat sp) pw 0 unsetCell v b) :
    memBasic c false w (.ret sp) s = .ok (.branch (cDat r) true) (landSeq c [(3, .word 31, withAddr sp (vAddW (cDat sp) 1))] b) := by
  simp only [memBasic]
  rw [x_bind_ok (xCtx_eq c s), xSp_ok ty, x_bind_ok range, x_bind_ok hx, x_bind_ok hr, if_neg (not_not_intro reta), x_bind_ok hw, xStoreP,
    x_bind_ok (xStoreB_buffered hb), x_bind_ok (landW_seq ..), x_pure]

/-- TCALL checks the RETA at its stack pointer, which lands where SB named it (R219). -/
theorem memBasic_tcall {w : BitVec 48} {a sp r : Cell} {pa : PAddr} {set : Bool} (hc : CodeAdr a tgt) (ty : cTyp sp = tLOC ∨ cTyp sp = tRAW)
    (range : xStackRange c (cDat sp) s = .ok () s) (hx : xlateNormal c (getCtx s c).level false (cDat sp) .read s = .ok pa t)
    (hr : xNormal c false false (cDat sp) pa t = .ok r u) (reta : cTyp r = tRETA) :
    memBasic c false w (.tcall a sp set) s = .ok (.branch tgt true) (if set then landSeq c [(3, .word 31, sp)] u else u) := by
  simp only [memBasic]
  refine (x_bind_ok (xCtx_eq c s)).trans ((x_bind_ok (a := tgt) (t := s) ?resolve).trans ?transfer)
  case resolve =>
    rcases hc with ⟨ty, rfl⟩ | ⟨ty, next⟩
    · rw [if_neg (by rcases ty with ty | ty <;> simp [ty]), if_neg (by rcases ty with ty | ty <;> simp [ty]), x_pure]
    · rw [if_neg (by simp [ty]), if_pos ty, next]
      rfl
  case transfer =>
    rw [xSp_ok ty, x_bind_ok range, x_bind_ok hx, x_bind_ok hr, if_neg (not_not_intro reta)]
    cases set with
    | false => rfl
    | true => exact (x_bind_ok (landW_seq ..)).trans (x_pure ..)

/-! ## Loop registers (R224) -/

/-- LOOP's addresses (R224), stated of the function and not of its value at an address: the kernel would evaluate the bound of the offset, which
is 2^40, to compare the two values. -/
theorem xLoopAdr_eq :
    xLoopAdr = fun pc (d : Nat) => (vAdd pc d).elim (β := X Datum) (fun s => .ok (dat (freshNat s).1) (freshNat s).2) pure := by
  delta xLoopAdr
  funext pc d
  generalize vAdd pc d = next
  cases next <;> rfl

/-- The address that a loop register takes changes no context. -/
theorem xLoopAdr_ctx {pc : VAddr} {d : Nat} {a : Datum} (ha : xLoopAdr pc d s = .ok a t) : getCtx t c = getCtx s c := by
  rw [xLoopAdr_eq] at ha
  cases next : vAdd pc d <;> simp only [next] at ha <;> cases ha <;> rfl

end

/-- Settles O20: the target of a branch, the count and the addresses of a LOOP pass their checks, and the body lands nothing. -/
theorem branchesAndLoopsMoveControl : Obligations.BranchesAndLoopsMoveControl := by
  refine ⟨?br, ?jr, ?loop⟩
  case br =>
    intro h f w s t ⟨_, hw, hi⟩ ht
    cases hw
    refine issueOut_lands hi ?_
    rw [x_bind_ok (xBTarget_ok ht), x_pure]
    rfl
  case jr =>
    intro h f w s a t ⟨_, hw, hi⟩ ha hc
    cases hw
    refine issueOut_lands hi ?_
    rw [x_bind_ok (xCodeAdr_ok ha hc), x_pure]
    rfl
  case loop =>
    intro h f w s t u n a e ⟨_, hw, hi⟩ hn idle ha he
    cases hw
    have same : getCtx u h.ctx = getCtx (slotStart h.ctx s) h.ctx := (xLoopAdr_ctx he).trans (xLoopAdr_ctx ha)
    obtain ⟨hr, hp, hwait⟩ := canIssue_spec hi
    refine (issueOut_done hi ((x_bind_ok (a := n) (t := slotStart h.ctx s) ?count).trans ?set)).trans
      (congrArg _ (slotDone_running (by simpa [same] using hr) (by simpa [same] using hp) (by simpa [same] using hwait)))
    case count =>
      rcases hn with ⟨imm, rfl⟩ | ⟨reg, fix, pos⟩
      · rw [if_pos imm, x_pure]
      · obtain ⟨k, hk, ty, rfl⟩ := fixOpnd_eq_some.mp fix
        rw [if_neg reg, x_bind_ok (wRead_opnd hk), x_bind_ok (chkUnset_pass 0 _ (by simp [ty])), if_neg (not_not_intro ty),
          if_neg (Int.not_lt.mpr pos)]
        rfl
    case set =>
      rw [x_bind_ok (xCtx_eq ..), if_neg (not_not_intro idle)]
      exact (x_bind_ok ha).trans ((x_bind_ok he).trans (x_bind_ok (xMod_eq ..)))

/-- Settles O21: the operands of a call or return pass their checks, and its memory phase on the stack is served in the slot. -/
theorem callsPushAndReturnsPop : Obligations.CallsPushAndReturnsPop := by
  refine ⟨?calls, ?ret, ?tcall⟩
  case calls =>
    intro i h w s r t u tgt sp pa ⟨_, hw, hi⟩ x a room hsp ty hc range hx hb
    have push : xPush h.ctx false tgt sp r = _ := xPush_ok ty range hx hb
    rcases hc with ⟨f, rfl, ht, rfl⟩ | ⟨f, v, rfl, hv, rfl, ht⟩ | ⟨f, v, rfl, hv, func, ht⟩ <;> cases hw <;> refine issueOut_done hi ?_
    · rw [x_bind_ok (xCallRoom_ok room), x_bind_ok (xBTarget_ok ht), x_bind_ok (wRead_opnd hsp),
        xMemOp_ok ((memBasic_call ..).trans push)]
    · rw [x_bind_ok (xCallRoom_ok room), x_bind_ok (xCodeAdr_ok hv ht), x_bind_ok (wRead_opnd hsp),
        xMemOp_ok ((memBasic_call ..).trans push)]
    · obtain ⟨set, wf⟩ := transfer_wellFormed (v := v) (by simp [func])
      obtain ⟨clean31, rfl⟩ := opnd_eq_some.mp hsp
      rw [x_bind_ok (xCallRoom_ok room), x_bind_ok (xOne_opnd hv set wf), if_neg (by simp [func]), if_neg (not_not_intro func)]
      exact (x_bind_ok (xCtx_eq ..)).trans (xMemOp_ok ((memBasic_fcall ht (of_decide_eq_true clean31)).trans push))
  case ret =>
    intro h f w s t u v b sp r pa pw ⟨_, hw, hi⟩ x hsp ty range hx hr reta hxw hb
    cases hw
    exact issueOut_done hi ((x_bind_ok (wRead_opnd hsp)).trans (xMemOp_ok (memBasic_ret ty range hx hr reta hxw hb)))
  case tcall =>
    intro h f w s t u a sp r tgt pa ⟨_, hw, hi⟩ x ha hsp ty hc range hx hr reta
    cases hw
    have mem : cTyp a ∈ [tRAW, tLOC, tCODE, tFUNC] := CodeAdr.typ_mem hc
    obtain ⟨set, wf⟩ := transfer_wellFormed mem
    obtain ⟨spSet, spWf⟩ := transfer_wellFormed (v := sp) (by rcases ty with ty | ty <;> simp [ty])
    have plain : ¬ (cTyp a = tINST ∨ cTyp a = tEXTP) := by rcases hc with ⟨ta | ta, _⟩ | ⟨ta, _⟩ <;> simp [ta]
    refine issueOut_done hi ?_
    rw [x_bind_ok (wRead_opnd ha), x_bind_ok (wRead_opnd hsp), x_bind_ok (chkUnset_pass 0 _ set)]
    refine (x_check_pass fun _ => chkUnset_pass 1 _ spSet).trans ?_
    refine (x_check_pass (absurd · (by simp [wf, spWf]))).trans ?_
    refine (x_check_pass (absurd · plain)).trans ?_
    refine (x_check_pass (absurd · (by rw [List.contains_iff_mem.mpr mem]; decide))).trans ?_
    refine (x_check_pass (absurd · fun ⟨_, loc, raw⟩ => ty.elim loc raw)).trans ?_
    refine (xMemOp_ok (memBasic_tcall hc ty range hx hr reta)).trans ?_
    simp only [decide_eq_true_eq, ite_not]

end Sys2Proof.Proofs

/-! SUPPORT. Twist units (R231 to R251): a unit's own rules, the micro-traps of a safe point, and the datapath of a microword. -/

namespace Sys2Proof.Proofs

open Sys2Proof.Machine Sys2Proof.Expected Sys2Proof.Laws

/-! ## Units -/

@[simp] theorem getUnit_setUnit (k : SkId) (u : BitVec 2) (x : TUnit) (s : State) : getUnit (setUnit k u x s) k u = x := by
  simp [getUnit, setUnit]

@[simp] theorem getUnit_updUnit (k : SkId) (u : BitVec 2) (f : TUnit → TUnit) (s : State) : getUnit (updUnit k u f s) k u = f (getUnit s k u) :=
  getUnit_setUnit ..

@[simp] theorem getUnit_updCtx (c : CtxId) (f : Ctx → Ctx) (s : State) (k : SkId) (u : BitVec 2) :
    getUnit (updCtx c f s) k u = getUnit s k u := rfl

@[simp] theorem getCtx_setUnit (k : SkId) (u : BitVec 2) (x : TUnit) (s : State) (c : CtxId) : getCtx (setUnit k u x s) c = getCtx s c := rfl

/-! ## Starting and admitting (R231, R234) -/

section
variable {k : SkId} {u : BitVec 2} {r : TwReq} {s : State}

/-- A free unit begins a new request at the routine's entry. -/
theorem exec_twistStart_new {entry : BitVec 14} {rest : List TwReq} (head : (getSk s k).twq = r :: rest) (free : (getUnit s k u).req = none)
    (on : (getUnit s k u).off = false) (stays : s.m.entering = false) (awake : s.mode ≠ .sleep) (new : r.cont = false) :
    exec (.twistStart k u entry) s = .next (setUnit k u
      { unitFree (getUnit s k u) with req := some { r with cont := false }, upc := entry, t := mapSet 0 (mapSet 0 [] 0 r.sa) 1 r.sb }
      (updSk k (fun y => { y with twq := rest }) s)) := by
  change execTwistStart k u entry s = _
  simp [execTwistStart, head, free, on, stays, awake, new]

/-- The oldest overflow request, kept in its context's record, enters a queue that has room. -/
theorem exec_overflowAdmission_record {d : CtxId} {rest : List CtxId} (oldest : (getSk s k).twOvf = d :: rest) (room : (getSk s k).twq.length < 64)
    (noSlot : (getCtx s d).deferred = none) (valid : (getCtx s d).ms.mv = true) (kind : (getCtx s d).ms.kind = 4)
    (req : (getCtx s d).ms.req = some r) :
    exec (.overflowAdmission k) s = .next (updSk k (fun y => { y with twq := y.twq ++ [r] })
      (updCtx d (fun x => { x with ms := {} }) (updSk k (fun y => { y with twOvf := rest }) s))) := by
  change execOverflowAdmission k s = _
  simp [execOverflowAdmission, oldest, Nat.not_le.mpr room, noSlot, valid, kind, req]

/-! ## Micro-traps (R243 to R248) -/

theorem atSafePoint_spec {up : BitVec 144} (h : atSafePoint k u up r s = true) :
    (getUnit s k u).req = some r ∧ (getUnit s k u).started = true ∧ (getUnit s k u).restore = none ∧
      safeFetch s (getUnit s k u).upc up = true ∧ twHeld s r = false := by
  simpa [atSafePoint, and_assoc] using h

/-- The state once a unit has written its routine's record and is free (R247, R248). -/
def trapTaken (k : SkId) (u : BitVec 2) (r : TwReq) (kind : BitVec 3) (s : State) : State :=
  updCtx r.ctx (fun x => { x with ms := unitRec s (getUnit s k u) r kind, hostReq := none, hostSent := false, ioVals := [] })
    (releaseClaim k (getCtx s r.ctx).hv (getCtx s r.ctx).hank (getUnit s k u).claim (setUnit k u (unitFree (getUnit s k u)) s))

theorem takeTrap_interrupt (noRecord : (getCtx s r.ctx).ms.mv = false) :
    takeTrap k u r 0 s = parkRedo r.ctx (trapTaken k u r 0 s) := by
  simp [takeTrap, noRecord, trapTaken, unitRelease]

theorem takeTrap_yield (noRecord : (getCtx s r.ctx).ms.mv = false) :
    takeTrap k u r 2 s = twAdmit k { r with cont := true } (trapTaken k u r 2 s) := by
  simp [takeTrap, noRecord, trapTaken, unitRelease]

theorem exec_microTrap_takes {up : BitVec 144} {kind : BitVec 3} (safe : atSafePoint k u up r s = true)
    (asked : trapKind s k (getUnit s k u) r = some kind) : exec (.microTrap k u up) s = .next (takeTrap k u r kind s) := by
  obtain ⟨req, started, restored, fetched, free⟩ := atSafePoint_spec safe
  change execMicroTrap k u up s = _
  simp [execMicroTrap, req, started, restored, fetched, free, asked]

theorem exec_twistYield_takes {up : BitVec 144} (safe : atSafePoint k u up r s = true)
    (asked : trapKind s k (getUnit s k u) r = some 2) : exec (.twistYield k u up) s = .next (takeTrap k u r 2 s) := by
  obtain ⟨req, started, restored, fetched, free⟩ := atSafePoint_spec safe
  change execTwistYield k u up s = _
  simp [execTwistYield, req, started, restored, fetched, free, asked]

end

/-- Settles O37: a free unit and a queue with room take their request at once, and a trap of either kind writes one record before its routine goes
back to its instruction or to the queue. -/
theorem twistUnitsStartYieldAndTrap : Obligations.TwistUnitsStartYieldAndTrap := by
  refine ⟨?start, ?overflow, ?trap⟩
  case start => exact fun k u entry r rest s => exec_twistStart_new
  case overflow => exact fun k d r rest s => exec_overflowAdmission_record
  case trap =>
    intro k u up r s safe noRecord t
    constructor <;> intro asked
    · rw [exec_microTrap_takes safe asked, takeTrap_interrupt noRecord]
      simp only [t, trapTaken, asked, if_true]
    · rw [exec_twistYield_takes safe asked, takeTrap_yield noRecord]
      simp [t, trapTaken, asked]

/-! ## The datapath of a microword (R236, R238): it keeps the request, memory, and the scratch cells that the word does not name -/

theorem tGet_tSet_other {i j : Nat} (v : Cell) (un : TUnit) (h : j ≠ i) : tGet (tSet i v un) j = tGet un j :=
  mapGet_mapSet_other 0 _ v h

section
variable (w : BitVec 144) (c : CtxId) (old un : TUnit) (s : State)

@[simp] theorem doCount_req : (doCount w old un).req = un.req := by
  unfold doCount
  dsimp only
  split <;> rfl

@[simp] theorem tGet_doCount (i : Nat) : tGet (doCount w old un) i = tGet un i := by
  unfold doCount
  dsimp only
  split <;> rfl

@[simp] theorem doLit_req : (doLit w un).req = un.req := by
  unfold doLit
  split <;> rfl

/-- A literal goes to the scratch cell that LD names. -/
theorem tGet_doLit_other {i : Nat} (h : i ≠ mw w 34 4) : tGet (doLit w un) i = tGet un i := by
  unfold doLit
  split
  · exact tGet_tSet_other _ _ h
  · rfl

@[simp] theorem doAlu_req : (doAlu w c old un s).1.req = un.req := by
  unfold doAlu
  dsimp only
  split <;> rfl

/-- The ALU writes the scratch cell that AD names, or none. -/
theorem tGet_doAlu_other {i : Nat} (h : i ≠ mw w 101 4) : tGet (doAlu w c old un s).1 i = tGet un i := by
  unfold doAlu
  dsimp only
  split
  · rfl
  · exact tGet_tSet_other _ _ h

@[simp] theorem doAlu_mem : (doAlu w c old un s).2.mem = s.mem := by
  unfold doAlu
  dsimp only
  split <;> rfl

end

/-! ## One microword -/

section
variable {k : SkId} {u : BitVec 2} {r : TwReq} {w : BitVec 144} {s t : State}

theorem x_set (s t : State) : (set t : X PUnit) s = .ok () t := rfl

/-- A routine that has begun and restores no record goes on as it stands. -/
theorem takeRecord_started (started : (getUnit s k u).started = true) (restored : (getUnit s k u).restore = none) :
    ∃ t, takeRecord k u r w s = .ok () t ∧ getUnit t k u = getUnit s k u ∧ t.mem = s.mem := by
  refine ⟨updUnit k u (fun x => { x with started := true, good := if x.started then x.good else goodOf s r.ctx }) s, ?_, ?_, rfl⟩
  · rw [takeRecord, x_bind_ok (x_get s)]
    simp only [restored, xMod_eq]
  · rw [getUnit_updUnit, started, if_pos rfl, ← started]

theorem plainWord_spec (h : plainWord w = true) : mw w 126 4 = 0 ∧ mw w 86 3 = 0 ∧ mw w 29 4 = 0 := by
  simpa [plainWord, and_assoc] using h

theorem nextUpc_plain (seq : mw w 126 4 = 0) (cond : Bool) (old : TUnit) :
    nextUpc w cond old = some (BitVec.ofNat 14 (mw w 130 14), old.stack, none) := by
  simp only [nextUpc, seq]

theorem xHeld_doMem_plain (mop : mw w 86 3 = 0) (old un : TUnit) : xHeld (doMem w r old) un s = .ok un s := by
  simp only [xHeld, doMem, mop, if_true, x_pure]

theorem xHeld_doXop_plain (xop : mw w 29 4 = 0) (old un : TUnit) : xHeld (doXop w r old) un s = .ok un s := by
  simp only [xHeld, doXop, xop, x_pure]

/-- A plain word of a routine that has begun raises nothing and leaves the routine running. -/
theorem runWord_plain (plain : plainWord w = true) (started : (getUnit s k u).started = true) (restored : (getUnit s k u).restore = none)
    (noStep : w.getLsbD 118 = false ∨ isWalk r = false) :
    ∃ t, runWord k u r w s = .ok none t ∧ (getUnit t k u).upc = BitVec.ofNat 14 (mw w 130 14) ∧ (getUnit t k u).req = (getUnit s k u).req ∧
      (getUnit t k u).sinceStart = (getUnit s k u).sinceStart + 1 ∧ (getUnit t k u).stack = (getUnit s k u).stack ∧
      (∀ i, i ≠ mw w 101 4 → i ≠ mw w 34 4 → tGet (getUnit t k u) i = tGet (getUnit s k u) i) ∧ t.mem = s.mem := by
  obtain ⟨seq, mop, xop⟩ := plainWord_spec plain
  obtain ⟨b, begun, sameUnit, sameMem⟩ := takeRecord_started (r := r) (w := w) started restored
  have noWalk : (w.getLsbD 118 && isWalk r) = false := by
    rcases noStep with h | h <;> rw [h] <;> simp
  rw [← sameUnit, ← sameMem, runWord, x_bind_ok begun, x_bind_ok (x_get b)]
  simp only [nextUpc_plain seq, seq, xop, noWalk, x_bind_ok (xHeld_doMem_plain mop _ _), x_bind_ok (x_get _), x_bind_ok (x_set _ _),
    x_bind_ok (xHeld_doXop_plain xop _ _), x_bind_ok (xMod_eq _ _), Nat.reduceEqDiff, decide_false, Bool.false_and, Bool.false_eq_true,
    or_self, if_false]
  refine ⟨_, rfl, ?upc, ?req, ?count, ?stack, fun i ad lit => ?scratch, doAlu_mem ..⟩ <;> rw [getUnit_updCtx, getUnit_setUnit]
  case req => exact (doAlu_req ..).trans ((doLit_req ..).trans (doCount_req ..))
  case scratch => exact (tGet_doAlu_other _ _ _ _ _ ad).trans ((tGet_doLit_other _ _ lit).trans (tGet_doCount ..))

/-- What `executes` says, in the words of the checks that MICROWORD makes. -/
theorem executes_spec {up : BitVec 144} (h : executes k u up r s = true) :
    let un := getUnit s k u
    let w := fetchWord s un.upc
    un.req = some r ∧ upcOk un.upc.toNat = true ∧ (!parityOk w || !parityOk up) = false ∧
      ¬(wordBad w = true ∨ ((!w.getLsbD 118) = true ∧ un.sinceSafe ≥ 256)) ∧ (w.getLsbD 118 && twHeld s r) = false ∧
      (if w.getLsbD 118 && un.started && un.restore.isNone then trapKind s k un r else none) = none ∧ (getCtx s r.ctx).hostReq = none := by
  simp only [executes, Bool.and_eq_true, Bool.not_eq_true', decide_eq_true_eq, Option.isNone_iff_eq_none] at h
  obtain ⟨⟨⟨⟨⟨⟨⟨req, address⟩, parity⟩, fetched⟩, formed⟩, near⟩, goes⟩, served⟩ := h
  simp only [req, address, parity, fetched, formed, served, true_and, and_true, Bool.not_true, Bool.or_self, Bool.false_eq_true, false_or]
  cases safe : (fetchWord s (getUnit s k u).upc).getLsbD 118 with
  | false =>
    rw [safe, Bool.false_or, decide_eq_true_eq] at near
    simp [near]
  | true =>
    rw [safe, Bool.true_and, Bool.or_eq_false_iff] at goes
    obtain ⟨free, quiet⟩ := goes
    simp only [free, Bool.true_and, Bool.not_true, Bool.false_eq_true, false_and, not_false_eq_true, true_and]
    split
    · next begun => simpa [begun] using quiet
    · rfl

/-- A microword that executes does what its fields say; a fault that its routine ends with is raised at the instruction. -/
theorem exec_microword_of_ok {up : BitVec 144} {e : Option Exc} (runs : executes k u up r s = true)
    (did : runWord k u r (fetchWord s (getUnit s k u).upc) s = .ok e t) :
    exec (.microword k u up) s = .next (e.elim t fun e => unitFault k u r e t) := by
  obtain ⟨req, address, parity, formed, goes, untrapped, served⟩ := executes_spec runs
  change execMicroword k u up s = _
  simp only [execMicroword, req, address, parity, goes, untrapped, served, if_neg formed, did, Bool.not_true, Bool.false_eq_true, if_false,
    Option.isSome_none]
  cases e <;> rfl

/-- A fetch that fails parity is made again, once (R240). -/
theorem exec_microword_parity {up : BitVec 144} (req : (getUnit s k u).req = some r) (address : upcOk (getUnit s k u).upc.toNat = true)
    (wrong : parityOk (fetchWord s (getUnit s k u).upc) = false ∨ parityOk up = false) :
    exec (.microword k u up) s = .next (if (getUnit s k u).retry then microFault k u r s else updUnit k u (fun x => { x with retry := true }) s) := by
  have fails : (!parityOk (fetchWord s (getUnit s k u).upc) || !parityOk up) = true := by
    simpa using wrong
  change execMicroword k u up s = _
  simp only [execMicroword, req, address, fails, Bool.not_true, Bool.false_eq_true, if_false, if_true]

end

/-- Settles O38: a plain word runs the datapath alone, which keeps what it does not name; any other word is what `runWord` answers, and the parity is
checked before it. -/
theorem microwordsExecute : Obligations.MicrowordsExecute := by
  refine ⟨?plain, fun k u up r s t e runs => ⟨exec_microword_of_ok runs, exec_microword_of_ok runs⟩, ?parity⟩
  case plain =>
    intro k u up r s un w runs plain started restored noStep
    obtain ⟨t, did, upc, req, count, stack, scratch, mem⟩ := runWord_plain (r := r) plain started restored noStep
    exact ⟨t, exec_microword_of_ok runs did, upc, req.trans (executes_spec runs).1, count, stack, scratch, mem⟩
  case parity =>
    intro k u up r s req address wrong
    rw [exec_microword_parity req address wrong]
    exact ⟨fun first => by rw [first]; rfl, fun again => by rw [again]; rfl⟩

end Sys2Proof.Proofs

/-! SUPPORT. The patch loader (R258 to R263, R729): what a condition and a record leave unchanged, and arrays that are written whole. -/

namespace Sys2Proof.Proofs

open Sys2Proof.Machine Sys2Proof.Expected Sys2Proof.Laws

/-! ## Arrays that are written whole -/

/-- Writing a list from index `n` on sets the cells from `n`, as many as the list has, and leaves every other cell alone. -/
theorem mapGet_foldl_zipIdx_from {α : Type} [DecidableEq α] (d : α) (l : List α) (n i : Nat) (m : SMap α) :
    mapGet d ((l.zipIdx n).foldl (fun m e => mapSet d m e.2 e.1) m) i =
      if n ≤ i then l[i - n]?.getD (mapGet d m i) else mapGet d m i := by
  induction l generalizing n m with
  | nil =>
    rw [List.zipIdx_nil, List.foldl_nil, List.getElem?_nil, Option.getD_none, ite_self]
  | cons a l ih =>
    rw [List.zipIdx_cons, List.foldl_cons, ih (n + 1)]
    rcases Nat.lt_trichotomy i n with before | here | after
    · rw [if_neg (by omega), if_neg (by omega), mapGet_mapSet_other d m a (Nat.ne_of_lt before)]
    · rw [if_neg (by omega), if_pos (by omega), here, mapGet_mapSet_same, Nat.sub_self, List.getElem?_cons_zero, Option.getD_some]
    · rw [if_pos (by omega), if_pos (by omega), mapGet_mapSet_other d m a (Nat.ne_of_gt after), show i - n = (i - (n + 1)) + 1 by omega,
        List.getElem?_cons_succ]

/-- An array written from a list holds the list, and the default after its end. -/
theorem mapGet_foldl_zipIdx {α : Type} [DecidableEq α] (d : α) (l : List α) (i : Nat) :
    mapGet d (l.zipIdx.foldl (fun m e => mapSet d m e.2 e.1) []) i = l.getD i d := by
  rw [mapGet_foldl_zipIdx_from, if_pos (Nat.zero_le i), Nat.sub_zero, List.getD_eq_getElem?_getD]
  rfl

/-! ## Conditions and records leave the patch loader alone (R674, R716) -/

/-- Two states agree on the patch loader, on what it has installed, on memory and on the contexts. -/
structure SamePatches (s t : State) : Prop where
  loader : t.m.patch = s.m.patch
  words : t.patch = s.patch
  matching : t.matchRegs = s.matchRegs
  generation : t.pgen = s.pgen
  count : t.nwords = s.nwords
  mem : t.mem = s.mem
  ctxs : t.ctxs = s.ctxs

theorem SamePatches.trans {s t u : State} (h : SamePatches s t) (g : SamePatches t u) : SamePatches s u :=
  ⟨g.loader.trans h.loader, g.words.trans h.words, g.matching.trans h.matching, g.generation.trans h.generation, g.count.trans h.count,
    g.mem.trans h.mem, g.ctxs.trans h.ctxs⟩

theorem condSet_samePatches (bit : Nat) (variant : Bool) (s : State) : SamePatches s (condSet bit variant s) := by
  unfold condSet
  repeat' split
  all_goals exact ⟨rfl, rfl, rfl, rfl, rfl, rfl, rfl⟩

theorem condClear_samePatches (bit : Nat) (s : State) : SamePatches s (condClear bit s) := by
  unfold condClear
  split <;> exact ⟨rfl, rfl, rfl, rfl, rfl, rfl, rfl⟩

theorem acceptRec_samePatches (r : ErrRec) (s : State) : SamePatches s (acceptRec r s) := by
  unfold acceptRec
  dsimp only
  split
  · exact ⟨rfl, rfl, rfl, rfl, rfl, rfl, rfl⟩
  · split <;> exact ⟨rfl, rfl, rfl, rfl, rfl, rfl, rfl⟩

/-- The record of a failed load, of severity 4, notifies no one (R713). -/
theorem logEvent_failed_samePatches (d u : Nat) (c : Option CtxId) (a : Option Nat) (x : Nat) (s : State) :
    SamePatches s (logEvent 0x1C 4 d u c a x s) :=
  SamePatches.trans (t := bump 0x1C s) ⟨rfl, rfl, rfl, rfl, rfl, rfl, rfl⟩ (acceptRec_samePatches _ _)

/-! ## The loader -/

/-- A failed load ends with its code, and installs nothing (R263, R729). -/
theorem loadFail_samePatches (code : Nat) (s : State) :
    SamePatches (updM (fun m => { m with patch := { m.patch with busy := false, code := BitVec.ofNat 8 code } }) s) (loadFail code s) :=
  (logEvent_failed_samePatches ..).trans (condSet_samePatches ..)

section
variable {s : State} {ms : List (BitVec 32)} {ws : List (BitVec 144)}

theorem loadGo_starts (idle : s.m.patch.busy = false) (unlocked : s.m.patch.locked = false) (early : s.m.patch.ran = false) :
    loadGo s = updM (fun m => { m with patch := { m.patch with busy := true, gaddr := m.patch.addr, glen := m.patch.len } }) s := by
  simp only [loadGo, idle, unlocked, early, Bool.false_eq_true, or_self, if_false]
  rfl

theorem loadGo_fails (idle : s.m.patch.busy = false) (late : s.m.patch.locked = true ∨ s.m.patch.ran = true) : loadGo s = loadFail 0x01 s := by
  simp [loadGo, idle, late]

/-- The state once a load that passed every check has installed its image (R261, R263). -/
def patchInstalled (ms : List (BitVec 32)) (ws : List (BitVec 144)) (s : State) : State :=
  updM (fun m => { m with patch := { m.patch with
    busy := false, code := 0, psvn := BitVec.ofNat 32 (leNat (slice (imageBytes s) 24 4)), pdig := Config.sha256 (imageBytes s)
    plain := decide (leNat (slice (imageBytes s) 17 1) % 2 = 0) } })
  { s with
    patch := ws.zipIdx.foldl (fun m e => mapSet 0 m e.2 e.1) []
    matchRegs := ms.zipIdx.foldl (fun m e => mapSet 0 m e.2 e.1) []
    pgen := BitVec.ofNat 8 (leNat (slice (imageBytes s) 16 1)), nwords := ws.length }

theorem exec_patchLoadComplete_installs (busy : s.m.patch.busy = true) (passed : imgCheck s = (0, ms, ws)) (unarmed : s.injArmed = none) :
    exec .patchLoadComplete s = .next (condClear 8 (patchInstalled ms ws s)) := by
  have keeps : injPatch (patchInstalled ms ws s) = patchInstalled ms ws s := by
    have unarmed : (patchInstalled ms ws s).injArmed = none := unarmed
    rw [injPatch, unarmed]
  change execPatchLoadComplete s = _
  rw [← keeps]
  simp only [execPatchLoadComplete, busy, passed, Bool.not_true, Bool.false_eq_true, if_false]
  rfl

theorem exec_patchLoadComplete_fails {c : Nat} (busy : s.m.patch.busy = true) (failed : imgCheck s = (c + 1, ms, ws)) :
    exec .patchLoadComplete s = .next (loadFail (c + 1) s) := by
  change execPatchLoadComplete s = _
  simp only [execPatchLoadComplete, busy, failed, Bool.not_true, Bool.false_eq_true, if_false]

end

/-- Settles O57: GO and LOCK are host writes that are served; what a load installs is read back from the arrays it writes whole, and a failed load
ends with its code, its record and its condition, none of which is an array. -/
theorem patchesLoadAndLock : Obligations.PatchesLoadAndLock := by
  intro s
  refine ⟨fun serves idle => ⟨fun unlocked early => ?starts, fun late => ?refused⟩, fun ms ws busy passed unarmed => ?installs,
    fun c ms ws busy failed => ?fails, fun serves => ?lock⟩
  case starts => exact congrArg _ ((hostWr_served serves).trans (loadGo_starts idle unlocked early))
  case refused =>
    have same := loadFail_samePatches 0x01 s
    exact ⟨_, congrArg Host.Outcome.next ((hostWr_served serves).trans (loadGo_fails idle late)), congrArg (·.code) same.loader, same.words,
      same.matching, same.generation⟩
  case installs =>
    have same := condClear_samePatches 8 (patchInstalled ms ws s)
    refine ⟨_, exec_patchLoadComplete_installs busy passed unarmed, congrArg (·.busy) same.loader, congrArg (·.code) same.loader, same.count,
      same.generation, fun i => ?_, fun i => ?_, same.mem, same.ctxs⟩
    · exact (congrArg (mapGet 0 · i) same.words).trans (mapGet_foldl_zipIdx 0 ws i)
    · exact (congrArg (mapGet 0 · i) same.matching).trans (mapGet_foldl_zipIdx 0 ms i)
  case fails =>
    have same := loadFail_samePatches (c + 1) s
    exact ⟨_, exec_patchLoadComplete_fails busy failed, congrArg (·.busy) same.loader, congrArg (·.code) same.loader, same.words, same.matching,
      same.generation, same.count, same.mem⟩
  case lock => exact congrArg _ (hostWr_served serves)

end Sys2Proof.Proofs

/-! SUPPORT. The state after reset (R38, R264, R643, R721). -/

namespace Sys2Proof.Proofs

open Sys2Proof.Machine Sys2Proof.Expected Sys2Proof.Laws

/-- No byte of memory is listed after reset, so that every cell is eight bytes of 0. -/
theorem cellAt_reset (a : PAddr) : cellAt State.reset a = 0 := by
  have byte (n : Nat) : mapGet (0 : BitVec 8) State.reset.mem n = 0 := rfl
  simp only [cellAt, byte]
  decide

/-- The cell of 64 zeros is UNSET and verifies: its check code is the check code of no bit (R38, R39). -/
theorem zeroCell_verifies : cTyp 0 = tUNSET ∧ verify 0 = some (0, false) :=
  ⟨by decide, verify_of_zero (by decide)⟩

/-- Settles O2: every field of the reset state is its default, and what is not listed reads as FREE or as 0. -/
theorem resetLeavesTheBlockInBringup : Obligations.ResetLeavesTheBlockInBringup := by
  refine ⟨rfl, rfl, fun _ => rfl, fun _ => rfl, rfl, rfl, rfl, rfl, rfl, rfl, reset_wf, fun a => ⟨cellAt_reset a, ?_⟩⟩
  rw [cellAt_reset]
  exact zeroCell_verifies

end Sys2Proof.Proofs

/-! SUPPORT. Barriers, waits, YIELD and SEND (R292 to R300, R457 to R459): what a slot leaves of a context that waits, and memory phases that
are served in their slot. -/

namespace Sys2Proof.Proofs

open Sys2Proof.Machine Sys2Proof.Expected Sys2Proof.Laws

/-! ## Reads of tier-2 bits (R459) -/

/-- Performing them changes the values of landings only. -/
theorem getCtx_bitsRead (c : CtxId) (f : Landing → Bool) (s : State) :
    getCtx (bitsRead c f s) c = { getCtx s c with land := (getCtx (bitsRead c f s) c).land } := by
  unfold bitsRead
  split
  · rw [getCtx_updCtx]
  · rfl

@[simp] theorem getSp_bitsRead (c : CtxId) (f : Landing → Bool) (s : State) (q : SpId) : getSp (bitsRead c f s) q = getSp s q := by
  unfold bitsRead
  split <;> rfl

/-- They raise nothing, and take no pending exception away. -/
theorem fpPending_bitsRead (c : CtxId) (f : Landing → Bool) (s : State) : fpPending (getCtx (bitsRead c f s) c) = fpPending (getCtx s c) := by
  unfold bitsRead
  split
  · rw [getCtx_updCtx]
    simp only [fpPending, List.any_map]
    congr 1
    funext l
    dsimp only [Function.comp]
    split
    · split <;> rfl
    · rfl
  · rfl

/-- Whether a context's stores are visible depends on its spindle and on what it is parked for. -/
theorem sbEmpty_congr {c : CtxId} {s t : State} (spindle : ∀ q, getSp t q = getSp s q) (place : spOf t c = spOf s c)
    (park : (getCtx t c).park = (getCtx s c).park) : sbEmpty t c = sbEmpty s c := by
  simp only [sbEmpty, sbWaits, spindle, place, park]

theorem sbEmpty_updCtx {c : CtxId} {f : Ctx → Ctx} {s : State} (place : ∀ x, ctxSp (f x) = ctxSp x) (park : ∀ x, (f x).park = x.park) :
    sbEmpty (updCtx c f s) c = sbEmpty s c :=
  sbEmpty_congr (fun q => getSp_updCtx c f s q) (by rw [spOf, getCtx_updCtx, place, spOf]) (by rw [getCtx_updCtx, park])

theorem sbEmpty_bitsRead (c : CtxId) (f : Landing → Bool) (s : State) : sbEmpty (bitsRead c f s) c = sbEmpty s c := by
  refine sbEmpty_congr (getSp_bitsRead c f s) ?_ ?_
  · rw [spOf, getCtx_bitsRead]
    rfl
  · rw [getCtx_bitsRead]

/-! ## After the slot -/

/-- A slot that lands nothing is settled once control has moved on and the quantum counts. -/
theorem slotDone_eq_settle (c : CtxId) (a : Adv) (s : State) : slotDone c a s = settle c (slotResult c a [] s) := by
  have place : spOf (updCtx c (fun x => { x with flow := advFlow x.flow a, issuedAt := s.m.clock }) s) c = spOf s c := by simp [spOf, ctxSp]
  simp only [slotDone, advance, updCtx_updCtx, place, slotResult, mkLands_nil, List.append_nil]

theorem getCtx_slotResult (c : CtxId) (a : Adv) (s : State) :
    getCtx (slotResult c a [] s) c = { getCtx s c with flow := advFlow (getCtx s c).flow a, issuedAt := s.m.clock } := by
  simp only [slotResult, getCtx_updSp, getCtx_updCtx, mkLands_nil, List.append_nil]

/-- A context that registers a wait, with no FP exception pending, waits: its reservation ends and its reads are performed (R292, R459). -/
theorem slotDone_waits {c : CtxId} {a : Adv} {s : State} (run : (getCtx s c).st = .running) (park : (getCtx s c).park = none)
    (wait : (getCtx s c).wait.isSome = true) (fp : fpPending (getCtx s c) = false) :
    slotDone c a s = beginWait c (updCtx c (fun x => { x with res := none, resHold := false })
      (bitsRead c (fun _ => true) (slotResult c a [] s))) := by
  have quiet : fpPending (getCtx (slotResult c a [] s) c) = false := by rw [getCtx_slotResult]; exact fp
  rw [slotDone_eq_settle, settle]
  simp only [quiet]
  simp only [getCtx_slotResult, run, park, wait, ne_eq, not_true_eq_false, if_false, Option.isSome_none, Bool.false_eq_true, if_true]

/-- The wait of an instruction, registered. -/
def waitSet (c : CtxId) (y : Wait) (s : State) : State := updCtx c (fun x => { x with wait := some y, wake := 0 }) s

/-- A registered wait has begun (R292, R295): its context's reservation ended, its tier-2 reads performed. -/
def waitBegun (c : CtxId) (y : Wait) (s : State) : State :=
  beginWait c (updCtx c (fun x => { x with res := none, resHold := false }) (bitsRead c (fun _ => true) (slotResult c .seq [] (waitSet c y s))))

theorem slotDone_waitSet {c : CtxId} {y : Wait} {s : State} (run : (getCtx s c).st = .running) (park : (getCtx s c).park = none)
    (fp : fpPending (getCtx s c) = false) : slotDone c .seq (waitSet c y s) = waitBegun c y s :=
  slotDone_waits (by rw [waitSet, getCtx_updCtx]; exact run) (by rw [waitSet, getCtx_updCtx]; exact park) (by rw [waitSet, getCtx_updCtx]; rfl)
    (by rw [waitSet, getCtx_updCtx]; exact fp)

section
variable {h : Hd} {w : BitVec 48} {body : X Adv} {s t : State}

/-- An instruction whose body leaves its context running, neither parked nor waiting. -/
theorem issueOut_runs (hi : canIssue h w s = true) (hb : body (slotStart h.ctx s) = .ok .seq t)
    (run : (getCtx t h.ctx).st = (getCtx (slotStart h.ctx s) h.ctx).st) (park : (getCtx t h.ctx).park = (getCtx (slotStart h.ctx s) h.ctx).park)
    (wait : (getCtx t h.ctx).wait = (getCtx (slotStart h.ctx s) h.ctx).wait) : issueOut h w body s = .next (slotResult h.ctx .seq [] t) := by
  obtain ⟨hr, hp, hw⟩ := canIssue_spec hi
  rw [issueOut_done hi hb, slotDone_running (run.trans hr) (park.trans hp) (wait.trans hw)]

/-- An instruction whose body registers a wait in a state that has its context as the slot began, but for landings. -/
theorem issueOut_waits {y : Wait} (hi : canIssue h w s = true) (hb : body (slotStart h.ctx s) = .ok .seq (waitSet h.ctx y t))
    (run : (getCtx t h.ctx).st = (getCtx (slotStart h.ctx s) h.ctx).st) (park : (getCtx t h.ctx).park = (getCtx (slotStart h.ctx s) h.ctx).park)
    (fp : fpPending (getCtx t h.ctx) = false) : issueOut h w body s = .next (waitBegun h.ctx y t) := by
  obtain ⟨hr, hp, _⟩ := canIssue_spec hi
  rw [issueOut_done hi hb, slotDone_waitSet (run.trans hr) (park.trans hp) fp]

end

/-! ## Memory phases (R292, R300, R457) -/

section
variable {c : CtxId} {w : BitVec 48} {s : State}

/-- FBAR of a context whose stores are visible, with no write-back to be accepted and no HOST store to be flushed (R425, R465). -/
theorem memBasic_fbar (empty : sbEmpty s c = true) (clean : (getCtx s c).cleans = []) (host : (getCtx s c).hostLast = none) :
    memBasic c false w .fbar s = .ok .seq (bitsRead c (fun _ => true) s) := by
  have cleans : (getCtx (bitsRead c (fun _ => true) s) c).cleans = [] := by rw [getCtx_bitsRead]; exact clean
  simp only [memBasic]
  rw [x_bind_ok (xCtx_eq c s), x_bind_ok (xMod_eq _ s), if_neg Bool.false_ne_true, x_bind_ok (x_get _), sbEmpty_bitsRead, empty, cleans,
    if_neg (by simp), host]
  rfl

/-- WAITB of a tier-2 bit that its context may name, with no write of its own to it and no DEVICE store in the buffer (R292, R454, R462). -/
theorem memBasic_waitb {v : Cell} {dl : Option Datum} (tier : brTier (cDat v) = 1)
    (grant : bitGrant s (getCtx s c) ((cDat v).extractLsb' 0 16).toNat = true) (dev : sbHasDev (getSp s (ctxSp (getCtx s c))) c = false)
    (own : bit2Forward (getSp s (ctxSp (getCtx s c))) c (brSkein (cDat v) (ctxSp (getCtx s c))) ((cDat v).extractLsb' 0 16) = none) :
    let key := (brSkein (cDat v) (ctxSp (getCtx s c)), (cDat v).extractLsb' 0 16)
    memBasic c false w (.waitb v dl) s =
      .ok .seq (waitSet c { bit := some (.t2 key.1 key.2), deadline := dl } (bitsRead c (fun l => l.bit = some key) s)) := by
  intro key
  simp only [memBasic]
  rw [x_bind_ok (xCtx_eq c s), x_bind_ok (a := ()) (t := waitSet c { bit := some (.t2 key.1 key.2), deadline := dl }
    (bitsRead c (fun l => l.bit = some key) s)) ?registers, x_pure]
  rw [xWaitb, x_bind_ok (xCtx_eq c s), x_bind_ok (x_get s)]
  refine (x_bind_ok (a := BitKey.t2 key.1 key.2) (t := bitsRead c (fun l => l.bit = some key) s) ?resolves).trans (xMod_eq _ _)
  rw [if_pos tier]
  refine (x_check_pass (absurd · (by rw [grant]; decide))).trans ?_
  refine (x_bind_ok (xMod_eq _ s)).trans ?_
  refine (x_check_pass (absurd · (by rw [dev]; decide))).trans ?_
  rw [own]
  rfl

/-- SEND of a context whose stores are visible posts its message (R300, R456). -/
theorem memBasic_send {d : CtxId} {v : Cell} (empty : sbEmpty s c = true) :
    memBasic c false w (.send d v) s = .ok .seq (sendPost c d v (updCtx c (fun x => { x with sendst := 7 }) s)) := by
  simp only [memBasic]
  rw [x_bind_ok (xCtx_eq c s), x_bind_ok (a := ()) (t := sendPost c d v (updCtx c (fun x => { x with sendst := 7 }) s)) ?posts, x_pure]
  rw [xSend, x_bind_ok (x_get s)]
  exact (x_check_pass (absurd · (by simp [empty]))).trans (xMod_eq _ s)

end

/-! ## The instructions -/

section
variable {h : Hd} {f : FA} {w : BitVec 48} {s : State}

theorem exec_lbar (ok : Takes (.lbar h f) h w s) :
    exec (.lbar h f) s = .next (slotResult h.ctx .seq [] (bitsRead h.ctx (fun _ => true) (slotStart h.ctx s))) := by
  obtain ⟨_, hw, hi⟩ := ok
  cases hw
  refine issueOut_runs hi ((x_bind_ok (xMod_eq ..)).trans (x_pure ..)) ?_ ?_ ?_ <;> rw [getCtx_bitsRead]

theorem exec_sbar (ok : Takes (.sbar h f) h w s) : exec (.sbar h f) s =
    .next (slotResult h.ctx .seq [] (updCtx h.ctx (fun x => { x with sbars := x.sbars + 1, hostFirst := true }) (slotStart h.ctx s))) := by
  obtain ⟨_, hw, hi⟩ := ok
  cases hw
  refine issueOut_runs hi ((x_bind_ok (xMod_eq ..)).trans (x_pure ..)) ?_ ?_ ?_ <;> rw [getCtx_updCtx]

/-- FBAR marks the next HOST store as the first, and then only performs reads (R457, R465). -/
theorem exec_fbar (ok : Takes (.fbar h f) h w s) (empty : sbEmpty (slotStart h.ctx s) h.ctx = true)
    (clean : (getCtx (slotStart h.ctx s) h.ctx).cleans = []) (host : (getCtx (slotStart h.ctx s) h.ctx).hostLast = none) :
    exec (.fbar h f) s = .next (slotResult h.ctx .seq []
      (bitsRead h.ctx (fun _ => true) (updCtx h.ctx (fun x => { x with hostFirst := true }) (slotStart h.ctx s)))) := by
  obtain ⟨_, hw, hi⟩ := ok
  cases hw
  refine issueOut_runs hi ((x_bind_ok (xMod_eq ..)).trans (xMemOp_ok (memBasic_fbar ?_ ?_ ?_))) ?_ ?_ ?_
  · rwa [sbEmpty_updCtx] <;> exact fun _ => rfl
  · rw [getCtx_updCtx]
    exact clean
  · rw [getCtx_updCtx]
    exact host
  all_goals rw [getCtx_bitsRead, getCtx_updCtx]

theorem exec_waitt {d : Datum} (ok : Takes (.waitt h f) h w s) (hd : fixOpnd (getCtx (slotStart h.ctx s) h.ctx) f.sa = some d)
    (fp : fpPending (getCtx (slotStart h.ctx s) h.ctx) = false) :
    exec (.waitt h f) s = .next (waitBegun h.ctx { deadline := some d } (slotStart h.ctx s)) := by
  obtain ⟨_, hw, hi⟩ := ok
  cases hw
  obtain ⟨v, hv, fix, rfl⟩ := fixOpnd_eq_some.mp hd
  refine issueOut_waits hi ?_ rfl rfl fp
  rw [x_bind_ok (xOne_opnd hv (by simp [fix]) (badCell_fix fix))]
  exact (x_check_pass (absurd fix)).trans ((x_bind_ok (xMod_eq ..)).trans (x_pure ..))

/-- The deadline operand of WAITB: w0 for none, or a FIX (R292). -/
def DeadlineOpnd (x : Ctx) (r : BitVec 5) (dl : Option Datum) : Prop :=
  r = 0 ∧ opnd x 0 = some nilCell ∧ dl = none ∨ r ≠ 0 ∧ dl = fixOpnd x r ∧ dl.isSome

/-- What WAITB reads of its deadline operand, and that the checks made of it pass. -/
theorem DeadlineOpnd.reads {x : Ctx} {r : BitVec 5} {dl : Option Datum} (hd : DeadlineOpnd x r dl) :
    ∃ b, opnd x r = some b ∧ (r ≠ 0 → cTyp b = tFIX) ∧ (if r = 0 then none else some (cDat b)) = dl := by
  rcases hd with ⟨rfl, nil, rfl⟩ | ⟨set, rfl, isSome⟩
  · exact ⟨nilCell, nil, (absurd rfl ·), if_pos rfl⟩
  · obtain ⟨d, hd⟩ := Option.isSome_iff_exists.mp isSome
    obtain ⟨b, hb, fix, rfl⟩ := fixOpnd_eq_some.mp hd
    exact ⟨b, hb, fun _ => fix, (if_neg set).trans hd.symm⟩

theorem badCell_bitref {v : Cell} (ty : cTyp v = tBITREF) (ok : badBitref (cDat v) = false) : badCell v = false := by
  simp [badCell, isMalformed, isReserved, ty, ok]

theorem exec_waitb {v : Cell} {dl : Option Datum} (ok : Takes (.waitb h f) h w s)
    (hv : opnd (getCtx (slotStart h.ctx s) h.ctx) f.sa = some v) (ty : cTyp v = tBITREF) (wf : badBitref (cDat v) = false)
    (tier : brTier (cDat v) = 1) (grant : bitGrant (slotStart h.ctx s) (getCtx (slotStart h.ctx s) h.ctx) ((cDat v).extractLsb' 0 16).toNat = true)
    (dev : sbHasDev (getSp (slotStart h.ctx s) (ctxSp (getCtx (slotStart h.ctx s) h.ctx))) h.ctx = false)
    (own : bit2Forward (getSp (slotStart h.ctx s) (ctxSp (getCtx (slotStart h.ctx s) h.ctx))) h.ctx
      (brSkein (cDat v) (ctxSp (getCtx (slotStart h.ctx s) h.ctx))) ((cDat v).extractLsb' 0 16) = none)
    (fp : fpPending (getCtx (slotStart h.ctx s) h.ctx) = false) (hd : DeadlineOpnd (getCtx (slotStart h.ctx s) h.ctx) f.sb dl) :
    let key := (brSkein (cDat v) (ctxSp (getCtx (slotStart h.ctx s) h.ctx)), (cDat v).extractLsb' 0 16)
    exec (.waitb h f) s = .next (waitBegun h.ctx { bit := some (.t2 key.1 key.2), deadline := dl }
      (bitsRead h.ctx (fun l => l.bit = some key) (slotStart h.ctx s))) := by
  intro key
  obtain ⟨_, hw, hi⟩ := ok
  cases hw
  obtain ⟨b, hb, fix, rfl⟩ := hd.reads
  have tier0 : brTier (cDat v) ≠ 0 := by omega
  refine issueOut_waits hi ?_ (by rw [getCtx_bitsRead]) (by rw [getCtx_bitsRead]) ((fpPending_bitsRead ..).trans fp)
  rw [x_bind_ok (wRead_opnd hv), x_bind_ok (wRead_opnd hb), x_bind_ok (chkUnset_pass 0 _ (by simp [ty]))]
  refine (x_check_pass fun set => chkUnset_pass 1 _ (by simp [fix set])).trans ?_
  refine (x_check_pass (absurd · ?wellFormed)).trans ?_
  case wellFormed =>
    rw [badCell_bitref ty wf, Bool.false_or, Bool.and_eq_true, decide_eq_true_eq]
    exact fun ⟨set, bad⟩ => Bool.false_ne_true ((badCell_fix (fix set)).symm.trans bad)
  refine (x_check_pass (absurd · ?typed)).trans ?_
  case typed => exact fun bad => bad.elim (· ty) fun bad => bad.elim tier0 fun ⟨set, other⟩ => other (fix set)
  exact xMemOp_ok (memBasic_waitb tier grant dev own)

/-- YIELD goes on where no peer is READY, and otherwise takes the context off its ply (R298). -/
theorem exec_yield_alone (ok : Takes (.yield h f) h w s)
    (alone : peerReady (slotStart h.ctx s) (ctxSp (getCtx (slotStart h.ctx s) h.ctx)) (getCtx (slotStart h.ctx s) h.ctx) = false) :
    exec (.yield h f) s = .next (slotResult h.ctx .seq [] (slotStart h.ctx s)) := by
  obtain ⟨_, hw, hi⟩ := ok
  cases hw
  refine issueOut_runs hi ?_ rfl rfl rfl
  rw [x_bind_ok (xCtx_eq ..), x_bind_ok (x_get _), alone]
  rfl

theorem exec_yield_peer (ok : Takes (.yield h f) h w s)
    (peer : peerReady (slotStart h.ctx s) (ctxSp (getCtx (slotStart h.ctx s) h.ctx)) (getCtx (slotStart h.ctx s) h.ctx) = true)
    (fp : fpPending (getCtx (slotStart h.ctx s) h.ctx) = false) :
    exec (.yield h f) s = .next (slotDone h.ctx .seq (makeReady h.ctx (offPly h.ctx (slotStart h.ctx s)))) := by
  obtain ⟨_, hw, hi⟩ := ok
  cases hw
  refine issueOut_done hi ?_
  rw [x_bind_ok (xCtx_eq ..), x_bind_ok (x_get _), peer, fp]
  rfl

theorem exec_send {d : Datum} {v : Cell} (ok : Takes (.send h f) h w s) (hd : fixOpnd (getCtx (slotStart h.ctx s) h.ctx) f.sa = some d)
    (hv : opnd (getCtx (slotStart h.ctx s) h.ctx) f.sb = some v) (range : d.toNat ≤ 65535)
    (first : (getCtx (slotStart h.ctx s) h.ctx).sendWait = []) (free : (getCtx (slotStart h.ctx s) h.ctx).sendst ≠ 7)
    (empty : sbEmpty (slotStart h.ctx s) h.ctx = true) : exec (.send h f) s =
      .next (slotDone h.ctx .seq (sendPost h.ctx (d.extractLsb' 0 16) v (updCtx h.ctx (fun x => { x with sendst := 7 }) (slotStart h.ctx s)))) := by
  obtain ⟨_, hw, hi⟩ := ok
  cases hw
  obtain ⟨a, ha, fix, rfl⟩ := fixOpnd_eq_some.mp hd
  have small : (cDat a).toInt = (cDat a).toNat := BitVec.toInt_eq_toNat_of_lt (by omega)
  have regs : xRegs2 h.ctx f.sa f.sb (slotStart h.ctx s) = .ok (a, v) (slotStart h.ctx s) := by
    rw [xRegs2, x_bind_ok (wRead_opnd ha), x_bind_ok (wRead_opnd hv), x_pure]
  refine issueOut_done hi ?_
  rw [x_bind_ok regs, x_bind_ok (chkUnset_pass 0 _ (by simp [fix]))]
  refine (x_check_pass (absurd fix)).trans ((x_check_pass (absurd · ?inRange)).trans ((x_bind_ok (xCtx_eq ..)).trans ?_))
  case inRange =>
    dsimp only
    omega
  rw [if_neg (not_or.mpr ⟨free, not_not_intro first⟩)]
  exact xMemOp_ok (memBasic_send empty)

end

/-- Settles O26: the operands of each instruction pass their checks, its body performs what the rules say in the slot, and the slot then goes on, or
its context waits. -/
theorem barriersWaitsAndMessagesComplete : Obligations.BarriersWaitsAndMessagesComplete := by
  refine ⟨fun h f w s => ⟨exec_lbar, exec_sbar, exec_fbar⟩, fun h f w s => ⟨fun d => exec_waitt, ?waitb, ?yield, fun d v => exec_send⟩⟩
  case waitb =>
    intro v b ok hv ty wf tier hb grant dev own fp dl hd
    subst hb
    exact exec_waitb ok hv ty wf tier grant dev own fp hd
  case yield => exact fun ok => ⟨exec_yield_alone ok, exec_yield_peer ok⟩

end Sys2Proof.Proofs

/-! SUPPORT. Plies and readiness (R282 to R291, R295): which context a spindle issues next, and when a context gives way or wakes. -/

namespace Sys2Proof.Proofs

open Sys2Proof.Machine Sys2Proof.Expected Sys2Proof.Laws

/-! ## Contexts listed after a write -/

/-- A pair listed after a write of a key is the one written or was listed before. -/
theorem mem_mapSet_cases {α : Type} [DecidableEq α] {d : α} {m : SMap α} {k : Nat} {v : α} {p : Nat × α} (h : p ∈ mapSet d m k v) :
    p = (k, v) ∨ p ∈ m := by
  unfold mapSet at h
  split at h
  · exact .inr (mem_mapDel h)
  · exact (mem_mapIns h).imp_right mem_mapDel

section
variable {q : SpId} {c d : CtxId} {s : State}

/-! ## Plies (R282 to R288) -/

/-- The state once the context prepared on the idle ply issues (R284). -/
def pliesFlipped (q : SpId) (d : CtxId) (s : State) : State :=
  updCtx d (fun x => { x with st := .running }) (updSp q (fun p => { p with issB := !p.issB, prepared := false, quantum := 0 }) s)

theorem flipPlies_idle (idle : idleCtx (getSp s q) = some d) : flipPlies q s = pliesFlipped q d s := by
  simp only [flipPlies, idle]
  rfl

theorem dropIdle_none (idle : idleCtx (getSp s q) = none) : dropIdle q s = s := by
  simp only [dropIdle, idle]

theorem readyPrepared_none (idle : idleCtx (getSp s q) = none) : readyPrepared s q = none := by
  simp only [readyPrepared, idle]

/-- The context that may take over stands on the idle ply. -/
theorem idleCtx_of_readyPrepared (h : readyPrepared s q = some d) : idleCtx (getSp s q) = some d := by
  simp only [readyPrepared] at h
  split at h
  · next e idle => exact idle.trans (Option.ite_none_right_eq_some.mp h).2
  · cases h

theorem flipPlies_prepared (h : readyPrepared s q = some d) : flipPlies q s = pliesFlipped q d s :=
  flipPlies_idle (idleCtx_of_readyPrepared h)

theorem keptReady_eq (on : issuingCtx (getSp s q) = some c) :
    keptReady s q = if (getCtx s c).st = .ready ∧ !heldByFlip s (getCtx s c) then some c else none := by
  simp only [keptReady, on]

/-- PLY_PREPARE loads the best READY context into an empty idle ply, unless the one of the kept ply comes first (R280, R284, R287). -/
theorem exec_plyPrepare_loads {n : Nat} {x : Ctx} (iss : issuing s = true) (serves : outOfService s q = false) (rst : (getSp s q).rst = none)
    (awake : (getSk s (spSk q)).parked = false) (best : bestReady s (readyOff s q) = some (n, x)) (idle : idleCtx (getSp s q) = none)
    (first : keptFirst s q x = false) : exec (.plyPrepare q none) s = .next (loadIdle q (BitVec.ofNat 16 n) s) := by
  change execPlyPrepare q none s = _
  simp [execPlyPrepare, iss, serves, awake, rst, best, idle, first, dropIdle_none idle]

/-! ## SWITCH_IN (R282, R284, R288) -/

section
variable (iss : issuing s = true) (serves : outOfService s q = false) (rst : (getSp s q).rst = none)
include iss serves rst

theorem exec_switchIn_empty (on : issuingCtx (getSp s q) = none) (prep : readyPrepared s q = some d) :
    exec (.switchIn q) s = .next (pliesFlipped q d s) := by
  change execSwitchIn q s = _
  simp [execSwitchIn, iss, serves, rst, on, prep, flipPlies_prepared prep]

/-- The issuing ply of a context that does not run. -/
theorem exec_switchIn_kept (on : issuingCtx (getSp s q) = some c) (stands : (getCtx s c).st ≠ .running) :
    exec (.switchIn q) s = .next (switchKept q c s) := by
  change execSwitchIn q s = _
  simp [execSwitchIn, iss, serves, rst, on, stands]

/-- A prepared context of a higher priority takes over from the running one. -/
theorem exec_switchIn_preempts (on : issuingCtx (getSp s q) = some c) (run : (getCtx s c).st = .running)
    (free : heldByFlip s (getCtx s c) = false) (inval : (getCtx s c).invHold = false) (boost : (getCtx s c).boost = false)
    (prep : readyPrepared s q = some d) (higher : effPrio s (getCtx s d) > (getCtx s c).prio.toNat) :
    exec (.switchIn q) s = .next (preempt q c s) := by
  change execSwitchIn q s = _
  simp [execSwitchIn, iss, serves, rst, on, run, free, inval, boost, prep, higher]

end

/-- A kept context that is not READY, or is held, gives its ply up to the prepared one. -/
theorem switchKept_away (kept : keptReady s q = none) (prep : readyPrepared s q = some d) (fp : fpPending (getCtx s c) = false) :
    switchKept q c s = dropIdle q (pliesFlipped q d s) := by
  simp only [switchKept, kept, prep, fp, Bool.false_eq_true, if_false, flipPlies_prepared prep]

/-- So does one that is READY, where the prepared one comes first. -/
theorem switchKept_outranked (kept : keptReady s q = some c) (prep : readyPrepared s q = some d) (fp : fpPending (getCtx s c) = false)
    (rank : outranks s (getCtx s c) (getCtx s d) = false) : switchKept q c s = dropIdle q (pliesFlipped q d s) := by
  simp only [switchKept, kept, prep, fp, rank, Bool.or_self, Bool.false_eq_true, if_false, flipPlies_prepared prep]

/-- A READY context runs on on its kept ply where it comes first, has an FP exception to report, or has no peer prepared. -/
theorem switchKept_stays (kept : keptReady s q = some c)
    (stays : ∀ d, readyPrepared s q = some d → fpPending (getCtx s c) = true ∨ outranks s (getCtx s c) (getCtx s d) = true) :
    switchKept q c s = runKept c s := by
  cases prep : readyPrepared s q with
  | none => simp only [switchKept, kept, prep]
  | some d => simp only [switchKept, kept, prep, Bool.or_eq_true, stays d prep, if_true]

/-- Whether or not it is held, a READY context that the prepared one outranks gives its ply up. -/
theorem switchKept_gives (on : issuingCtx (getSp s q) = some c) (prep : readyPrepared s q = some d) (fp : fpPending (getCtx s c) = false)
    (rank : outranks s (getCtx s c) (getCtx s d) = false) : switchKept q c s = dropIdle q (pliesFlipped q d s) := by
  by_cases ready : (getCtx s c).st = .ready ∧ !heldByFlip s (getCtx s c)
  · exact switchKept_outranked ((keptReady_eq on).trans (if_pos ready)) prep fp rank
  · exact switchKept_away ((keptReady_eq on).trans (if_neg ready)) prep fp

/-- Without an FP exception to report, the running context is READY behind its equals, off its ply (R283, R348). -/
theorem preempt_prepared (prep : readyPrepared s q = some d) (fp : fpPending (getCtx s c) = false) :
    preempt q c s = makeReady c (dropIdle q (pliesFlipped q d s)) := by
  simp only [preempt, fp, Bool.false_eq_true, if_false, flipPlies_prepared prep]

/-! ## QUANTUM_EXPIRY (R289, R290) -/

/-- A context is back at its own priority. -/
def boostEnded (c : CtxId) (s : State) : State := updCtx c (fun x => { x with boost := false }) s

/-- The end of a boost prepares nothing and takes nothing away. -/
theorem readyPrepared_boostEnded : readyPrepared (boostEnded c s) q = readyPrepared s q := by
  have same (d : CtxId) : (getCtx (boostEnded c s) d).st = (getCtx s d).st ∧
      heldByFlip (boostEnded c s) (getCtx (boostEnded c s) d) = heldByFlip s (getCtx s d) := by
    by_cases hd : d = c
    · subst hd
      rw [boostEnded, getCtx_updCtx]
      exact ⟨rfl, rfl⟩
    · rw [boostEnded, getCtx_updCtx_other _ _ hd]
      exact ⟨rfl, rfl⟩
  simp only [readyPrepared, same]
  rfl

/-- The prepared context is not the running one. -/
theorem getCtx_boostEnded_prepared (prep : readyPrepared s q = some d) (run : (getCtx s c).st = .running) :
    getCtx (boostEnded c s) d = getCtx s d := by
  refine getCtx_updCtx_other _ _ fun same => ?_
  subst same
  simp [readyPrepared, idleCtx_of_readyPrepared prep, run] at prep

theorem readyOn_boostEnded (run : (getCtx s c).st = .running) (none : readyOn s q = []) : readyOn (boostEnded c s) q = [] := by
  rw [readyOn, List.filter_eq_nil_iff] at none ⊢
  intro p hp
  rcases mem_mapSet_cases hp with rfl | hp
  · simp [run]
  · exact none p hp

section
variable (on : issuingCtx (getSp s q) = some c) (run : (getCtx s c).st = .running) (free : heldByFlip s (getCtx s c) = false)
  (inval : (getCtx s c).invHold = false) (counts : s.quantum ≠ 0) (expired : s.quantum.toNat ≤ (getSp s q).quantum)
include on run free inval counts expired

/-- When its quantum expires, a context gives way to a prepared one of at least its priority. -/
theorem exec_quantumExpiry_gives (prep : readyPrepared s q = some d) (least : effPrio s (getCtx s d) ≥ (getCtx s c).prio.toNat) :
    exec (.quantumExpiry q) s = .next (preempt q c (boostEnded c s)) := by
  have prepared : readyPrepared (boostEnded c s) q = some d := readyPrepared_boostEnded.trans prep
  have prio : effPrio (boostEnded c s) (getCtx (boostEnded c s) d) = effPrio s (getCtx s d) := by
    rw [getCtx_boostEnded_prepared prep run]
    rfl
  have ticks : ¬s.quantum = 0#16 := counts
  unfold boostEnded at prepared prio ⊢
  change execQuantumExpiry q s = _
  simp [execQuantumExpiry, on, run, free, inval, ticks, Nat.not_lt.mpr expired, prepared, prio, least]

/-- Without a peer its count restarts. -/
theorem exec_quantumExpiry_restarts (alone : readyOn s q = []) (idle : idleCtx (getSp s q) = none) :
    exec (.quantumExpiry q) s = .next (updSp q (fun p => { p with quantum := 0 }) (boostEnded c s)) := by
  have prepared : readyPrepared (boostEnded c s) q = none := readyPrepared_boostEnded.trans (readyPrepared_none idle)
  have peers : readyOn (boostEnded c s) q = [] := readyOn_boostEnded run alone
  have ticks : ¬s.quantum = 0#16 := counts
  unfold boostEnded at prepared peers ⊢
  change execQuantumExpiry q s = _
  simp [execQuantumExpiry, on, run, free, inval, ticks, Nat.not_lt.mpr expired, prepared, peerReady, peers]

end

/-! ## Starved, stolen and timed contexts (R290, R291, R295) -/

/-- What a spindle may take from the busiest of its skein. -/
def stealable (s : State) (q b : SpId) : List (Nat × Ctx) :=
  (readyOn s b).filter fun e =>
    decide (e.2.pin.toNat ≤ 1) && e.2.mig.isNone && canMove s (BitVec.ofNat 16 e.1) true && spAllowed s e.2.hv e.2.hank q

theorem exec_stealing_takes {b : SpId} {n : Nat} {x : Ctx} (idle : readyOn s q = []) (serves : outOfService s q = false)
    (busy : busiest s (spSk q) = some b) (first : oldest (stealable s q b) = some (n, x)) :
    exec (.stealing q) s = .next (startMove (BitVec.ofNat 16 n)
      (updCtx (BitVec.ofNat 16 n) (fun x => { x with mig := some (spSk q, spLs q), migSrc := none }) s)) := by
  have choose : exec (.stealing q) s = .next (match oldest (stealable s q b) with
      | some e => startMove (BitVec.ofNat 16 e.1)
          (updCtx (BitVec.ofNat 16 e.1) (fun x => { x with mig := some (spSk q, spLs q), migSrc := none }) s)
      | none => s) := by
    change execStealing q s = _
    simp only [execStealing, idle, serves, busy, List.isEmpty_nil, Bool.not_true, Bool.or_self, Bool.false_eq_true, if_false]
    rfl
  rw [choose, first]

theorem wakeCtx_waiting {r : BitVec 3} (waits : (getCtx s c).st = .waiting) :
    wakeCtx c r s = makeReady c (updCtx c (fun x => { x with wait := none, wake := r }) s) := by
  simp only [wakeCtx, waits, if_true]

theorem exec_deadlinePasses_wakes {b : Option BitKey} {t : Datum} (waits : (getCtx s c).st = .waiting)
    (wait : (getCtx s c).wait = some { bit := b, deadline := some t }) (past : passed s t = true) :
    exec (.deadlinePasses c) s = .next (makeReady c (updCtx c (fun x => { x with wait := none, wake := 2 }) s)) := by
  change execDeadlinePasses c s = _
  simp only [execDeadlinePasses, wait, past, if_true, wakeCtx_waiting waits]

end

/-- Settles O31: which context comes to issue is read off the plies of the spindle and the ranks of the contexts on them. -/
theorem pliesSwitchAndWaitingContextsWake : Obligations.PliesSwitchAndWaitingContextsWake := by
  refine ⟨?plies, ?starvation, fun q b n x s => exec_stealing_takes, fun c b d s => exec_deadlinePasses_wakes⟩
  case plies =>
    intro q s iss serves rst p
    refine ⟨fun n x awake best idle first => ?prepare, fun d prep on => ?empty, fun d c prep on stands waits fp => ?away,
      fun c on ready free stays => ?stays, fun d c prep on ready fp rank => ?outranked, fun d c prep on run free inval fp => ?running,
      fun c on run free inval counts expired alone idle => ?restarts⟩
    case prepare => exact exec_plyPrepare_loads iss serves rst awake best idle first
    case empty => exact exec_switchIn_empty iss serves rst on prep
    case away =>
      rw [exec_switchIn_kept iss serves rst on stands, switchKept_away ((keptReady_eq on).trans (if_neg fun ready => waits ready.1)) prep fp]
      rfl
    case stays =>
      have kept : keptReady s q = some c := (keptReady_eq on).trans (if_pos ⟨ready, by rw [free]; rfl⟩)
      rw [exec_switchIn_kept iss serves rst on (by rw [ready]; decide), switchKept_stays kept stays]
      rfl
    case outranked =>
      rw [exec_switchIn_kept iss serves rst on (by rw [ready]; decide), switchKept_gives on prep fp rank]
      rfl
    case running =>
      refine ⟨fun boost higher => ?takesOver, fun _ counts expired least => exec_quantumExpiry_gives on run free inval counts expired prep least⟩
      rw [exec_switchIn_preempts iss serves rst on run free inval boost prep higher, preempt_prepared prep fp]
      rfl
    case restarts => exact exec_quantumExpiry_restarts on run free inval counts expired alone idle
  case starvation => exact fun c s ready on starved => congrArg _ (if_pos ⟨ready, on, starved⟩)

end Sys2Proof.Proofs

/-! SUPPORT. Doorbells and interrupts (R296, R303, R328 to R330): what a context hears, and the writes of XCTL and IPEND. -/

namespace Sys2Proof.Proofs

open Sys2Proof.Machine Sys2Proof.Expected Sys2Proof.Laws

/-! ## XCTL (R328) -/

/-- What a write of XCTL at a level does for one source: its MASK and ROUTE, where the level may change them. -/
def xctlSrc (old v : Datum) (lvl : Nat) (d : Datum) (i : Nat) : Datum :=
  if lvl = 0 ∨ max 1 (bits old.toNat (8 + 2 * i) 2) > lvl then d
  else if bits v.toNat (8 + 2 * i) 2 > lvl then setBit d i (v.getLsbD i)
  else setBit (setBit (setBit d i (v.getLsbD i)) (8 + 2 * i) (bitN (bits v.toNat (8 + 2 * i) 2) 0)) (9 + 2 * i)
    (bitN (bits v.toNat (8 + 2 * i) 2) 1)

theorem xctlWrite_eq_foldl (old v : Datum) (lvl : Nat) :
    xctlWrite old v lvl = setBit ((upto 8).foldl (xctlSrc old v lvl) old) 25 (v.getLsbD 25) := rfl

section
variable {old v d : Datum} {lvl i j : Nat}

/-- The MASK bits are below the ROUTE fields: a source changes its own alone. -/
theorem getLsbD_xctlSrc (hi : i < 8) (hj : j < 8) : (xctlSrc old v lvl d i).getLsbD j =
    if j = i ∧ ¬(lvl = 0 ∨ max 1 (bits old.toNat (8 + 2 * i) 2) > lvl) then v.getLsbD i else d.getLsbD j := by
  have low : i < 48 := by omega
  have route : 8 + 2 * i < 48 ∧ 9 + 2 * i < 48 := by omega
  have apart : j ≠ 8 + 2 * i ∧ j ≠ 9 + 2 * i := by omega
  unfold xctlSrc
  split
  · next locked => rw [if_neg (fun both => both.2 locked)]
  · next may =>
    simp only [may, not_false_eq_true, and_true]
    split
    · exact getLsbD_setBit _ _ _ low
    · rw [getLsbD_setBit _ _ _ route.2, if_neg apart.2, getLsbD_setBit _ _ _ route.1, if_neg apart.1, getLsbD_setBit _ _ _ low]

/-- After the first `n` sources, those among them that the level may change have the MASK written. -/
theorem getLsbD_foldl_xctlSrc {n : Nat} (hn : n ≤ 8) (hj : j < 8) : ((upto n).foldl (xctlSrc old v lvl) old).getLsbD j =
    if j < n ∧ ¬(lvl = 0 ∨ max 1 (bits old.toNat (8 + 2 * j) 2) > lvl) then v.getLsbD j else old.getLsbD j := by
  induction n with
  | zero => simp [upto]
  | succ n ih =>
    have last : (upto (n + 1)).foldl (xctlSrc old v lvl) old = xctlSrc old v lvl ((upto n).foldl (xctlSrc old v lvl) old) n := by
      simp [upto, List.range_succ]
    rw [last, getLsbD_xctlSrc (by omega) hj, ih (by omega)]
    by_cases own : j = n
    · subst own
      simp
    · have before : j < n + 1 ↔ j < n := by omega
      simp [own, before]

/-- PREC is bit 25. -/
theorem getLsbD_xctlWrite_prec : (xctlWrite old v lvl).getLsbD 25 = v.getLsbD 25 := by
  rw [xctlWrite_eq_foldl, getLsbD_setBit _ _ _ (by decide), if_pos rfl]

theorem getLsbD_xctlWrite_mask (hi : i < 7) : (xctlWrite old v lvl).getLsbD i =
    if lvl = 0 ∨ max 1 (bits old.toNat (8 + 2 * i) 2) > lvl then old.getLsbD i else v.getLsbD i := by
  have source : i < 8 := by omega
  rw [xctlWrite_eq_foldl, getLsbD_setBit _ _ _ (by decide), if_neg (by omega), getLsbD_foldl_xctlSrc (Nat.le_refl 8) source]
  by_cases locked : lvl = 0 ∨ max 1 (bits old.toNat (8 + 2 * i) 2) > lvl <;> simp only [locked, source, not_true_eq_false, not_false_eq_true,
    and_false, and_self, if_true, if_false]

end

/-! ## Events that a context hears -/

section
variable {c d : CtxId} {s : State}

/-- An interrupt of a context that exists and is not moving (R329): its pending bit is set, and a waiting context with an eligible source wakes. -/
theorem raiseIrq_present {i : Nat} (live : (getCtx s c).st ≠ .free) (still : (getCtx s c).st ≠ .moving) :
    raiseIrq c i s = (if (bestSource (setAx c 26 (axPeek s c 26 ||| dat (2 ^ i)) (heard c s))
      (getCtx (setAx c 26 (axPeek s c 26 ||| dat (2 ^ i)) (heard c s)) c)).isSome
      then wakeCtx c 5 (setAx c 26 (axPeek s c 26 ||| dat (2 ^ i)) (heard c s))
      else setAx c 26 (axPeek s c 26 ||| dat (2 ^ i)) (heard c s)) := by
  simp only [raiseIrq, live, still, if_false]

/-- A doorbell of a context that exists and is not moving (R303). -/
theorem ringDoorbell_present (live : (getCtx s c).st ≠ .free) (still : (getCtx s c).st ≠ .moving) :
    ringDoorbell c s = if (axGet (getCtx s c) 6).getLsbD 1 then wakeCtx c 4 (updCtx c (fun x => { x with db := true }) s)
      else updCtx c (fun x => { x with db := true }) s := by
  simp only [ringDoorbell, live, still, if_false]

theorem hostCtx_own (live : (getCtx s c).st ≠ .free) (own : (getCtx s c).hv = false) : hostCtx s c = true := by
  simp [hostCtx, live, own]

theorem exec_doorbell (ok : served s = true) (host : hostCtx s c = true) : exec (.doorbell c) s = .next (ringDoorbell c (hear hostSector c s)) := by
  change execDoorbell c s = _
  rw [execDoorbell, hostWr_served ok, if_pos host]

theorem exec_hirq (ok : served s = true) (host : hostCtx s c = true) : exec (.hirq c) s = .next (raiseIrq c 2 (hear hostSector c s)) := by
  change execHirq c s = _
  rw [execHirq, hostWr_served ok, if_pos host]

/-! ## Writes of a context's control registers -/

section
variable (live : exists_ c s = true)
include live

theorem exec_ipisend : exec (.ipisend c d) s = .next (ipiSend c d s) := by
  have number : (d.setWidth 48).extractLsb' 0 16 = d := by
    ext i hi
    have wide : i < 48 := by omega
    simp [hi, wide]
  change Host.Outcome.next (landNow c 0x102 (d.setWidth 48) s) = _
  rw [landNow_exists live]
  exact congrArg (fun t => Host.Outcome.next (ipiSend c t s)) number

/-- A message for a context of the sender's own hank, or of none as the sender's, is delivered once every earlier store of the sender is visible. -/
theorem exec_ipisend_delivers (empty : sbEmpty s c = true) (target : (getCtx s d).st ≠ .free)
    (space : hankOfNum s d = if (getCtx s c).hv then some (getCtx s c).hank else none) :
    exec (.ipisend c d) s = .next (raiseIrq d 1 (hear (skSector (getCtx s c).skein) d s)) := by
  rw [exec_ipisend live, ipiSend, if_pos empty, ipiDeliver]
  simp only [target, space, ne_eq, not_true_eq_false, or_self, if_false]

theorem exec_ipisend_waits (stores : sbEmpty s c = false) :
    exec (.ipisend c d) s = .next (updCtx c (fun x => { x with ipiOut := x.ipiOut ++ [d] }) s) := by
  rw [exec_ipisend live, ipiSend, if_neg (by rw [stores]; decide)]

theorem exec_ipendWrite (v : Datum) : exec (.ipendWrite c v) s = .next (setAx c 26 (ipendWrite (axGet (getCtx s c) 26) v) s) := by
  change Host.Outcome.next (landNow c 0x101 v s) = _
  rw [landNow_exists live]
  rfl

theorem exec_xctlWrite (v : Datum) : exec (.xctlWrite c v) s =
    .next (setAx c 25 (xctlWrite (axGet (getCtx s c) 25) v (getCtx s c).level.toNat) s) := by
  change Host.Outcome.next (landNow c 0x100 v s) = _
  rw [landNow_exists live]
  rfl

end

end

/-- Settles O34: the host's events and the messages of contexts reach their target over the fabric, and a write of XCTL is a fold over the sources. -/
theorem interruptsAndDoorbellsReachContexts : Obligations.InterruptsAndDoorbellsReachContexts := by
  refine ⟨fun c s ok live own => ?host, fun c d s ok => ⟨fun empty target heard still space => ?ipi, exec_ipisend_waits ok⟩,
    fun c v s ok => ⟨exec_ipendWrite ok v, _, exec_xctlWrite ok v, getLsbD_xctlWrite_prec, fun i => getLsbD_xctlWrite_mask⟩⟩
  case host =>
    intro t live' still
    exact ⟨(exec_doorbell ok (hostCtx_own live own)).trans (congrArg _ (ringDoorbell_present live' still)),
      (exec_hirq ok (hostCtx_own live own)).trans (congrArg _ (raiseIrq_present live' still))⟩
  case ipi => exact (exec_ipisend_delivers ok empty target space).trans (congrArg _ (raiseIrq_present heard still))

end Sys2Proof.Proofs

/-! SUPPORT. What touching a line leaves of the contexts: their reservations may end (R468, R473), and nothing else of them changes. -/

namespace Sys2Proof.Proofs

open Sys2Proof.Machine Sys2Proof.Expected Sys2Proof.Laws

/-! ## Contexts but for their reservations -/

/-- A context without its reservation. -/
def bare (x : Ctx) : Ctx := { x with res := none, resHold := false }

/-- The context does not become a default one as its reservation ends, or it is not listed at all. -/
def Settled (s : State) (c : CtxId) : Prop := bare (getCtx s c) ≠ {} ∨ ∀ p ∈ s.ctxs, p.1 ≠ c.toNat

/-- The contexts of the second state are those of the first, but for reservations that have ended. -/
structure SameCtxs (s t : State) : Prop where
  settled : ∀ c, Settled s c → Settled t c
  bare_eq : ∀ c, Settled s c → bare (getCtx t c) = bare (getCtx s c)
  unreserved : ∀ c, Settled s c → getCtx s c = bare (getCtx s c) → getCtx t c = bare (getCtx t c)

/-- A change of contexts that ends reservations and does nothing else. -/
def EndsRes (f : CtxId → Ctx → Ctx) : Prop := ∀ c x, bare (f c x) = bare x ∧ f c (bare x) = bare x

theorem settled_of_live {s : State} {c : CtxId} (live : (getCtx s c).st ≠ .free) : Settled s c :=
  .inl fun same => live (congrArg Ctx.st same)

theorem mapGet_absent {α : Type} (d : α) {m : SMap α} {k : Nat} (h : ∀ p ∈ m, p.1 ≠ k) : mapGet d m k = d := by
  induction m with
  | nil => rfl
  | cons p m ih =>
    obtain ⟨a, v⟩ := p
    rw [mapGet, if_neg (h (a, v) List.mem_cons_self)]
    exact ih fun q hq => h q (List.mem_cons_of_mem _ hq)

/-- A change of every context is seen at each one that is no default before or after it. -/
theorem getCtx_updAllCtx {f : CtxId → Ctx → Ctx} {s : State} {c : CtxId} (before : getCtx s c ≠ {}) (after : f c (getCtx s c) ≠ {}) :
    getCtx (updAllCtx f s) c = f c (getCtx s c) := by
  unfold getCtx updAllCtx at *
  dsimp only
  generalize s.ctxs = m at *
  induction m with
  | nil => exact absurd rfl before
  | cons p m ih =>
    obtain ⟨a, v⟩ := p
    by_cases key : a = c.toNat
    · subst key
      simp only [mapGet, if_true] at before after ⊢
      rw [List.map_cons, List.filter_cons, if_pos (by simpa using after)]
      simp [mapGet]
    · simp only [mapGet, if_neg key] at before after ⊢
      rw [List.map_cons, List.filter_cons]
      split
      · rw [mapGet, if_neg key]
        exact ih before after
      · exact ih before after

theorem absent_updAllCtx {f : CtxId → Ctx → Ctx} {s : State} {c : CtxId} (h : ∀ p ∈ s.ctxs, p.1 ≠ c.toNat) :
    ∀ p ∈ (updAllCtx f s).ctxs, p.1 ≠ c.toNat := by
  intro p hp
  obtain ⟨q, hq, rfl⟩ := List.mem_map.mp (List.mem_filter.mp hp).1
  exact h q hq

namespace SameCtxs

theorem refl (s : State) : SameCtxs s s := ⟨fun _ => id, fun _ _ => rfl, fun _ _ => id⟩

theorem trans {s t u : State} (h : SameCtxs s t) (g : SameCtxs t u) : SameCtxs s u where
  settled c hs := g.settled c (h.settled c hs)
  bare_eq c hs := (g.bare_eq c (h.settled c hs)).trans (h.bare_eq c hs)
  unreserved c hs := g.unreserved c (h.settled c hs) ∘ h.unreserved c hs

variable {s t u : State}

/-- What does not write contexts keeps them. -/
theorem of_ctxs (h : SameCtxs s t) (e : u.ctxs = t.ctxs) : SameCtxs s u := by
  have same (c : CtxId) : getCtx u c = getCtx t c := by rw [getCtx, e, getCtx]
  refine h.trans ⟨fun c ht => ?_, fun c _ => by rw [same], fun c _ none => by rwa [same]⟩
  rwa [Settled, same, e]

theorem ite {p : Prop} [Decidable p] (ht : SameCtxs s t) (hu : SameCtxs s u) : SameCtxs s (if p then t else u) := by
  split <;> assumption

theorem foldl {α : Type} {f : State → α → State} (hf : ∀ u a, SameCtxs s u → SameCtxs s (f u a)) (l : List α) (h : SameCtxs s t) :
    SameCtxs s (l.foldl f t) := by
  induction l generalizing t with
  | nil => exact h
  | cons a l ih => exact ih (hf t a h)

theorem updAllCtx {f : CtxId → Ctx → Ctx} (h : SameCtxs s t) (hf : EndsRes f) : SameCtxs s (updAllCtx f t) := by
  have change (c : CtxId) (some : bare (getCtx t c) ≠ {}) : getCtx (Machine.updAllCtx f t) c = f c (getCtx t c) :=
    getCtx_updAllCtx (fun e => some (by rw [e]; rfl)) fun e => some (by rw [← (hf c _).1, e]; rfl)
  have blank {v : State} {c : CtxId} (absent : ∀ p ∈ v.ctxs, p.1 ≠ c.toNat) : getCtx v c = {} := by rw [getCtx, mapGet_absent _ absent]
  refine h.trans ⟨fun c settled => ?_, fun c settled => ?_, fun c settled none => ?_⟩ <;> rcases settled with some | absent
  · exact .inl (by rwa [change c some, (hf c _).1])
  · exact .inr (absent_updAllCtx absent)
  · rw [change c some, (hf c _).1]
  · rw [blank absent, blank (absent_updAllCtx absent)]
  · rw [change c some, none, (hf c _).2]
    rfl
  · rw [blank (absent_updAllCtx absent)]
    rfl

end SameCtxs

/-! ## The caches, the directories and the fabric -/

section
variable {s u : State}

theorem sameCtxs_updSk (k : SkId) (f : Skein → Skein) (h : SameCtxs s u) : SameCtxs s (updSk k f u) := h.of_ctxs rfl

theorem sameCtxs_updSp (q : SpId) (f : Spindle → Spindle) (h : SameCtxs s u) : SameCtxs s (updSp q f u) := h.of_ctxs rfl

theorem sameCtxs_setDirs (d : SMap (List DirEnt)) (h : SameCtxs s u) : SameCtxs s { u with dirs := d } := h.of_ctxs rfl

/-- Reservations end by a test that no context without one passes. -/
theorem endsRes_ite {p : CtxId → Ctx → Prop} [∀ c x, Decidable (p c x)] (h : ∀ c x, ¬p c (bare x)) :
    EndsRes fun c x => if p c x then { x with res := none, resHold := false } else x :=
  fun c x => ⟨by dsimp only; split <;> rfl, if_neg (h c x)⟩

theorem sameCtxs_clearRes (ln : Nat) (o : Option CtxId) (h : SameCtxs s u) : SameCtxs s (clearRes ln o u) :=
  h.updAllCtx (endsRes_ite fun _ _ e => nomatch e.1)

theorem sameCtxs_fabric (a b : BitVec 2) (h : SameCtxs s u) : SameCtxs s (fabric a b u) := by
  obtain ⟨f, hf⟩ := fabric_eq_setPwr a b u
  rw [hf]
  exact h.of_ctxs rfl

theorem sameCtxs_wakeSkein (k : SkId) (h : SameCtxs s u) : SameCtxs s (wakeSkein k u) :=
  .ite (sameCtxs_updSk _ _ (sameCtxs_fabric _ _ h)) h

theorem sameCtxs_reach (a : BitVec 2) (k : SkId) (h : SameCtxs s u) : SameCtxs s (reach a k u) := sameCtxs_wakeSkein k (sameCtxs_fabric _ _ h)

theorem sameCtxs_heard (c : CtxId) (h : SameCtxs s u) : SameCtxs s (heard c u) :=
  .ite (sameCtxs_reach _ _ h) (sameCtxs_reach _ _ (sameCtxs_reach _ _ h))

theorem sameCtxs_lineMsg (k : SkId) (n : Nat) (h : SameCtxs s u) : SameCtxs s (lineMsg k n u) := sameCtxs_reach _ k h

theorem sameCtxs_arrDrop (k : SkId) (n : Nat) (h : SameCtxs s u) : SameCtxs s (arrDrop k n u) := .ite h (h.of_ctxs rfl)

theorem sameCtxs_l1Drop (q : SpId) (n : Nat) (h : SameCtxs s u) : SameCtxs s (l1Drop q n u) := by
  unfold l1Drop
  split
  · exact h
  · exact (sameCtxs_updSk _ _ (sameCtxs_updSp _ _ h)).updAllCtx (endsRes_ite fun _ _ e => nomatch e.1)

/-- The line leaves every level-1 cache of a skein. -/
theorem sameCtxs_l1Drops (k : SkId) (n : Nat) (h : SameCtxs s u) :
    SameCtxs s ((upto 16).foldl (fun v l => l1Drop (k ++ BitVec.ofNat 4 l) n v) u) :=
  .foldl (fun _ _ hv => sameCtxs_l1Drop _ n hv) _ h

theorem sameCtxs_skDrop (k : SkId) (n : Nat) (h : SameCtxs s u) : SameCtxs s (skDrop k n u) := by
  unfold skDrop
  dsimp only
  split
  · exact sameCtxs_setDirs _ (sameCtxs_updSk _ _ (sameCtxs_l1Drops k n (sameCtxs_lineMsg k n (.ite h (sameCtxs_arrDrop k n h)))))
  · exact sameCtxs_setDirs _ (sameCtxs_updSk _ _ (sameCtxs_l1Drops k n h))

/-- Skeins that a directory entry names drop a line. -/
theorem sameCtxs_recall (g : Nat → Bool) (n : Nat) (h : SameCtxs s u) :
    SameCtxs s ((upto 32).foldl (fun v j => if g j then skDrop (BitVec.ofNat 5 j) n v else v) u) :=
  .foldl (fun _ _ hv => .ite (sameCtxs_skDrop _ n hv) hv) _ h

theorem sameCtxs_dirNote (k : SkId) (n : Nat) (m : Bool) (h : SameCtxs s u) : SameCtxs s (dirNote k n m u) := by
  have asked := sameCtxs_lineMsg k n h
  unfold dirNote
  dsimp only
  split
  · exact sameCtxs_setDirs _ asked
  · split
    · split
      · exact sameCtxs_setDirs _ (sameCtxs_recall _ _ asked)
      · exact sameCtxs_setDirs _ asked
    · exact sameCtxs_setDirs _ asked

theorem sameCtxs_l1Clean (k : SkId) (n : Nat) (h : SameCtxs s u) : SameCtxs s (l1Clean k n u) := by
  unfold l1Clean
  exact .foldl (fun _ _ hv => sameCtxs_updSp _ _ hv) _ h

theorem sameCtxs_skShare (k : SkId) (n : Nat) (h : SameCtxs s u) : SameCtxs s (skShare k n u) :=
  sameCtxs_setDirs _ (sameCtxs_l1Clean k n (sameCtxs_updSk _ _ (sameCtxs_lineMsg k n h)))

/-! ## Lines and their tags read -/

theorem sameCtxs_addDue (l : List ArrDue) (h : SameCtxs s u) : SameCtxs s (addDue l u) := h.of_ctxs rfl

theorem sameCtxs_poisonLn (n : Nat) (h : SameCtxs s u) : SameCtxs s (poisonLn n u) := h.of_ctxs rfl

theorem sameCtxs_skTagFix (k : SkId) (n w : Nat) (h : SameCtxs s u) : SameCtxs s (skTagFix k n w u) := by
  have out (p : Prop) [Decidable p] (l : Nat) (f : Skein → Skein) {v : State} (hv : SameCtxs s v) :
      SameCtxs s (updSk k f (if p then v else skDrop k l v)) := sameCtxs_updSk _ _ (.ite hv (sameCtxs_skDrop k l hv))
  unfold skTagFix
  dsimp only
  split
  · exact sameCtxs_addDue _ (out _ _ _ (.ite (sameCtxs_poisonLn _ h) h))
  · exact sameCtxs_addDue _ (.ite (out _ _ _ h) (sameCtxs_updSk _ _ h))

theorem sameCtxs_skTags (k : SkId) (n : Nat) (h : SameCtxs s u) : SameCtxs s (skTags k n u) :=
  .foldl (fun _ _ hv => .ite (sameCtxs_skTagFix k n _ hv) hv) _ h

theorem sameCtxs_othersYield (k : SkId) (n : Nat) (o : Bool) (h : SameCtxs s u) : SameCtxs s (othersYield k n o u) := by
  unfold othersYield
  split
  · exact h
  · refine .foldl (fun v j hv => ?_) _ h
    have asked (p : Prop) [Decidable p] : SameCtxs s (if p then skTags (BitVec.ofNat 5 j) (skSet n) v else v) := .ite (sameCtxs_skTags _ _ hv) hv
    have told (p q : Prop) [Decidable p] [Decidable q] (a b : BitVec 2) : SameCtxs s
        (if q then fabric a b (if p then skTags (BitVec.ofNat 5 j) (skSet n) v else v) else if p then skTags (BitVec.ofNat 5 j) (skSet n) v else v) :=
      .ite (sameCtxs_fabric a b (asked p)) (asked p)
    exact .ite (told ..) (.ite (sameCtxs_skDrop _ n (told ..)) (sameCtxs_skShare _ n (told ..)))

theorem sameCtxs_dramFix (n : Nat) (h : SameCtxs s u) : SameCtxs s (dramFix n u) := .ite h (h.of_ctxs rfl)

theorem sameCtxs_dramRead (n : Nat) (h : SameCtxs s u) : SameCtxs s (dramRead n u) := by
  have fixed := sameCtxs_dramFix n h
  unfold dramRead
  dsimp only
  split
  · exact h
  · exact (sameCtxs_addDue _ fixed).updAllCtx (endsRes_ite fun _ _ => nofun)
  · exact .ite (sameCtxs_addDue _ (sameCtxs_poisonLn n fixed)) (sameCtxs_addDue _ fixed)

theorem sameCtxs_dramDemand (n : Nat) (h : SameCtxs s u) : SameCtxs s (dramDemand n u) := .ite h (sameCtxs_dramRead n h)

/-! ## Fills -/

theorem sameCtxs_skInstall (k : SkId) (w n : Nat) (st : Mesi) (a : BitVec 2) (h : SameCtxs s u) : SameCtxs s (skInstall k w n st a u) :=
  sameCtxs_dirNote k n _ (sameCtxs_updSk _ _ h)

/-- A line that the skein holds: taken over for an owner, or read. -/
theorem sameCtxs_skFillIn_held (k : SkId) (n : Nat) (o : Bool) {p : Prop} [Decidable p] (f : Skein → Skein) (h : SameCtxs s u) :
    let v := updSk k f (if p then othersYield k n true (lineMsg k n u) else u)
    SameCtxs s (if o then dirNote k n true v else l1Clean k n v) := by
  have taken : SameCtxs s (if p then othersYield k n true (lineMsg k n u) else u) :=
    .ite (sameCtxs_othersYield k n true (sameCtxs_lineMsg k n h)) h
  exact .ite (sameCtxs_dirNote k n true (sameCtxs_updSk _ _ taken)) (sameCtxs_l1Clean k n (sameCtxs_updSk _ _ taken))

theorem sameCtxs_askHeld (k : SkId) (n : Nat) (r : Asker) (h : SameCtxs s u) : SameCtxs s (askHeld k n r u) := sameCtxs_updSk _ _ h

theorem sameCtxs_skFillIn (k : SkId) (m : BitVec 16) (n : Nat) (o : Bool) (a : BitVec 2) (r : Asker) (h : SameCtxs s u) :
    SameCtxs s (skFillIn k m n o a r u).2 := by
  have given := sameCtxs_othersYield k n o (sameCtxs_lineMsg k n (sameCtxs_dramDemand n h))
  have victim (p : Prop) [Decidable p] (l : Nat) (f : Skein → Skein) :
      SameCtxs s (if p then updSk k f (othersYield k n o (lineMsg k n (dramDemand n u)))
        else skDrop k l (updSk k f (othersYield k n o (lineMsg k n (dramDemand n u))))) :=
    .ite (sameCtxs_updSk _ _ given) (sameCtxs_skDrop k l (sameCtxs_updSk _ _ given))
  unfold skFillIn
  dsimp only
  split
  · split
    · exact h
    · exact sameCtxs_skFillIn_held k n o _ h
  · split
    · exact sameCtxs_askHeld k n r h
    · split
      · exact h
      · split
        · exact .foldl (fun _ _ hv => sameCtxs_skDrop _ n hv) _ given
        · split
          · exact given
          · split
            · dsimp only
              exact sameCtxs_updSk _ _ (victim ..)
            · exact sameCtxs_skInstall k _ n _ a (victim ..)

theorem sameCtxs_skFill (k : SkId) (m : BitVec 16) (n : Nat) (o : Bool) (a : BitVec 2) (r : Asker) (h : SameCtxs s u) :
    SameCtxs s (skFill k m n o a r u).2 := sameCtxs_skFillIn k m n o a r (sameCtxs_skTags k _ h)

theorem sameCtxs_heldSettle (k : SkId) (f : HeldFill) (h : SameCtxs s u) : SameCtxs s (heldSettle k f u) := by
  have room : SameCtxs s (wqRoom f.victim u) := .ite (h.of_ctxs rfl) h
  have queued : SameCtxs s (wqPush f.victim (wqRoom f.victim u)) := room.of_ctxs rfl
  unfold heldSettle heldInstall
  exact sameCtxs_updSk _ _ (sameCtxs_skInstall k _ _ _ _ (sameCtxs_updSk _ _ queued))

theorem sameCtxs_heldSettleAll (f : SkId → HeldFill → Bool) (h : SameCtxs s u) : SameCtxs s (heldSettleAll f u) := by
  unfold heldSettleAll
  exact .foldl (fun _ _ hv => .foldl (fun _ _ hw => .ite (sameCtxs_heldSettle _ _ hw) hw) _ hv) _ h

theorem sameCtxs_holdEnd (f : Nat → Bool) (h : SameCtxs s u) : SameCtxs s (holdEnd f u) := by
  have ends : EndsRes fun _ x => if x.res.any f then { x with resHold := false } else x :=
    fun _ _ => ⟨by dsimp only; split <;> rfl, if_neg nofun⟩
  exact .ite (h.updAllCtx ends) h

theorem sameCtxs_unitGot (k : SkId) (n : Nat) (o : Bool) (h : SameCtxs s u) : SameCtxs s (unitGot k n o u) := .ite (sameCtxs_l1Drops k n h) h

theorem sameCtxs_unitTouch (k : SkId) (m : BitVec 16) (n : Nat) (o : Bool) (a : BitVec 2) (h : SameCtxs s u) :
    SameCtxs s (unitTouch k m n o a u) := by
  unfold unitTouch
  exact sameCtxs_unitGot k n o (sameCtxs_heldSettleAll _ (sameCtxs_skFill k m n o a .unit (sameCtxs_holdEnd _ (sameCtxs_heldSettleAll _ h))))

theorem sameCtxs_annexTouch (c : CtxId) (k : Nat) (o : Bool) (h : SameCtxs s u) : SameCtxs s (annexTouch c k o u) :=
  sameCtxs_unitTouch _ _ _ o 1 h

/-! ## Cells written -/

theorem sameCtxs_injArray (o : Option CtxId) (a : PAddr) (x : Cell) (h : SameCtxs s u) : SameCtxs s (injArray o a x u) :=
  .ite (.ite h (sameCtxs_updSk _ _ h)) (.ite h (h.of_ctxs rfl))

theorem sameCtxs_putRaw (a : PAddr) (v : Cell) (h : SameCtxs s u) : SameCtxs s (putRaw a v u) := h.of_ctxs rfl

theorem sameCtxs_putCell (o : Option CtxId) (a : PAddr) (v : Cell) (h : SameCtxs s u) : SameCtxs s (putCell o a v u) := by
  have marked (p q : Prop) [Decidable p] [Decidable q] {v w : State} (hv : v.ctxs = u.ctxs) (hw : w.ctxs = u.ctxs) :
      SameCtxs s (if p then v else if q then u else w) := .ite (h.of_ctxs hv) (.ite h (h.of_ctxs hw))
  have written (x : Cell) {v : State} (hv : SameCtxs s v) : SameCtxs s (clearRes (lineOf a) o { putRaw a x v with
      poisoned := mapSet false (putRaw a x v).poisoned a.toNat false, arrErr := mapSet 0 (putRaw a x v).arrErr a.toNat 0 }) :=
    sameCtxs_clearRes _ o (hv.of_ctxs rfl)
  unfold putCell
  exact .ite (sameCtxs_injArray o a _ (written _ (marked _ _ rfl rfl))) (written _ (marked _ _ rfl rfl))

theorem sameCtxs_annexPut (c : CtxId) (k : Nat) (v : Cell) (h : SameCtxs s u) : SameCtxs s (annexPut c k v u) :=
  sameCtxs_putCell none _ v (sameCtxs_annexTouch c k true h)

end

end Sys2Proof.Proofs

/-! SUPPORT. What leaves the moves of contexts alone (R268, R304, R306): their pending moves, those that wait for them and their routines. -/

namespace Sys2Proof.Proofs

open Sys2Proof.Machine Sys2Proof.Expected Sys2Proof.Laws

/-- A context that at most becomes READY, its pending move and its routine as before. -/
structure MoveKept (x y : Ctx) : Prop where
  st : y.st = x.st ∨ y.st = .ready
  mig : y.mig = x.mig
  migSrc : y.migSrc = x.migSrc
  ms : y.ms = x.ms

/-- The moves of the contexts that exist are kept. -/
structure KeepsMoves (s t : State) : Prop where
  kept : ∀ c, (getCtx s c).st ≠ .free → MoveKept (getCtx s c) (getCtx t c)

theorem MoveKept.refl (x : Ctx) : MoveKept x x := ⟨.inl rfl, rfl, rfl, rfl⟩

theorem MoveKept.trans {x y z : Ctx} (h : MoveKept x y) (g : MoveKept y z) : MoveKept x z where
  st := g.st.elim (fun e => h.st.imp e.trans e.trans) .inr
  mig := g.mig.trans h.mig
  migSrc := g.migSrc.trans h.migSrc
  ms := g.ms.trans h.ms

theorem MoveKept.live {x y : Ctx} (h : MoveKept x y) (live : x.st ≠ .free) : y.st ≠ .free := by
  rcases h.st with e | e <;> rw [e]
  · exact live
  · decide

/-- The end of a reservation keeps the move. -/
theorem MoveKept.of_bare {x y : Ctx} (h : bare y = bare x) : MoveKept x y where
  st := .inl (congrArg Ctx.st h :)
  mig := (congrArg Ctx.mig h :)
  migSrc := (congrArg Ctx.migSrc h :)
  ms := (congrArg Ctx.ms h :)

theorem SameCtxs.keepsMoves {s t : State} (h : SameCtxs s t) : KeepsMoves s t :=
  ⟨fun c live => .of_bare (h.bare_eq c (settled_of_live live))⟩

namespace KeepsMoves

theorem refl (s : State) : KeepsMoves s s := ⟨fun _ _ => .refl _⟩

theorem trans {s t u : State} (h : KeepsMoves s t) (g : KeepsMoves t u) : KeepsMoves s u :=
  ⟨fun c live => (h.kept c live).trans (g.kept c ((h.kept c live).live live))⟩

variable {s t u : State}

/-- A step that leaves contexts the same, after steps that keep moves. -/
theorem same (h : KeepsMoves s t) (g : SameCtxs t t → SameCtxs t u) : KeepsMoves s u := h.trans (g (.refl t)).keepsMoves

theorem of_ctxs (h : KeepsMoves s t) (e : u.ctxs = t.ctxs) : KeepsMoves s u := h.same (·.of_ctxs e)

theorem ite {p : Prop} [Decidable p] (ht : KeepsMoves s t) (hu : KeepsMoves s u) : KeepsMoves s (if p then t else u) := by
  split <;> assumption

theorem foldl {α : Type} {f : State → α → State} (hf : ∀ u a, KeepsMoves s u → KeepsMoves s (f u a)) (l : List α) (h : KeepsMoves s t) :
    KeepsMoves s (l.foldl f t) := by
  induction l generalizing t with
  | nil => exact h
  | cons a l ih => exact ih (hf t a h)

theorem updCtx (c : CtxId) {f : Ctx → Ctx} (hf : ∀ x, MoveKept x (f x)) (h : KeepsMoves s t) : KeepsMoves s (updCtx c f t) := by
  refine h.trans ⟨fun d _ => ?_⟩
  by_cases same : d = c
  · subst same
    rw [getCtx_updCtx]
    exact hf _
  · rw [getCtx_updCtx_other _ _ same]
    exact .refl _

end KeepsMoves

/-! ## Readiness and interrupts -/

section
variable {s u : State}

theorem keepsMoves_updSp (q : SpId) (f : Spindle → Spindle) (h : KeepsMoves s u) : KeepsMoves s (updSp q f u) := h.same (sameCtxs_updSp q f)

theorem keepsMoves_makeReady (c : CtxId) (h : KeepsMoves s u) : KeepsMoves s (makeReady c u) := by
  have ready : KeepsMoves s (updCtx c (fun x => { x with st := .ready, readySeq := u.readySeq, readyAt := u.m.clock }) u) :=
    h.updCtx c fun _ => ⟨.inr rfl, rfl, rfl, rfl⟩
  have counted : KeepsMoves s { (updCtx c (fun x => { x with st := .ready, readySeq := u.readySeq, readyAt := u.m.clock }) u) with
      readySeq := u.readySeq + 1 } := ready.of_ctxs rfl
  exact counted.same (sameCtxs_wakeSkein _)

theorem keepsMoves_holdItem (c : CtxId) (i : HeldItem) (h : KeepsMoves s u) : KeepsMoves s (holdItem c i u) :=
  h.updCtx c fun _ => ⟨.inl rfl, rfl, rfl, rfl⟩

theorem keepsMoves_wakeCtx (c : CtxId) (r : BitVec 3) (h : KeepsMoves s u) : KeepsMoves s (wakeCtx c r u) :=
  .ite (keepsMoves_makeReady c (h.updCtx c fun _ => ⟨.inl rfl, rfl, rfl, rfl⟩))
    (.ite (h.updCtx c fun _ => ⟨.inl rfl, rfl, rfl, rfl⟩) (.ite (keepsMoves_holdItem c _ h) h))

theorem keepsMoves_setAx (c : CtxId) (k : Nat) (v : Datum) (h : KeepsMoves s u) : KeepsMoves s (setAx c k v u) := by
  have put : KeepsMoves s (updCtx c (fun x => axPut x k v) u) := h.updCtx c fun _ => ⟨.inl rfl, rfl, rfl, rfl⟩
  exact .ite (put.same (sameCtxs_annexPut c k _)) put

theorem keepsMoves_raiseIrq (c : CtxId) (i : Nat) (h : KeepsMoves s u) : KeepsMoves s (raiseIrq c i u) := by
  have told := h.same (sameCtxs_heard c)
  have pending := keepsMoves_setAx c 26 (axPeek u c 26 ||| dat (2 ^ i)) told
  exact .ite h (.ite (keepsMoves_holdItem c _ told) (.ite (keepsMoves_wakeCtx c 5 pending) pending))

/-! ## The error log -/

theorem keepsMoves_logOnly (e v d n : Nat) (c : Option CtxId) (a : Option Nat) (x : Nat) (h : KeepsMoves s u) :
    KeepsMoves s (logOnly e v d n c a x u) := by
  have counted : KeepsMoves s (bump e u) := h.of_ctxs rfl
  exact counted.of_ctxs (acceptRec_samePatches ..).ctxs

theorem keepsMoves_notify (c : Option CtxId) (h : KeepsMoves s u) : KeepsMoves s (notify c u) := by
  have root (p : Prop) [Decidable p] : KeepsMoves s (if p then raiseIrq 0 3 u else u) := .ite (keepsMoves_raiseIrq 0 3 h) h
  have logged {v : State} (hv : KeepsMoves s v) : KeepsMoves s { logOnly 0x1E 4 39 0 c none 0 v with recLast := v.recLast } :=
    (keepsMoves_logOnly 0x1E 4 39 0 c none 0 hv).of_ctxs rfl
  unfold notify
  dsimp only
  cases c with
  | none => exact .ite (root _) (logged (root _))
  | some d =>
    have both (p q : Prop) [Decidable p] [Decidable q] : KeepsMoves s
        (if p then raiseIrq d 3 (if q then raiseIrq 0 3 u else u) else if q then raiseIrq 0 3 u else u) :=
      .ite (keepsMoves_raiseIrq d 3 (root q)) (root q)
    exact .ite (both ..) (logged (both ..))

theorem keepsMoves_logEvent (e v d n : Nat) (c : Option CtxId) (a : Option Nat) (x : Nat) (h : KeepsMoves s u) :
    KeepsMoves s (logEvent e v d n c a x u) := by
  have logged := keepsMoves_logOnly e v d n c a x h
  have cond (p : Prop) [Decidable p] : KeepsMoves s (if p then condSet 4 false (logOnly e v d n c a x u) else logOnly e v d n c a x u) :=
    .ite (logged.of_ctxs (condSet_samePatches ..).ctxs) logged
  exact .ite (keepsMoves_notify c (cond _)) (cond _)

theorem keepsMoves_logInj (i : Bool) (e v d n : Nat) (c : Option CtxId) (a x : Nat) (h : KeepsMoves s u) :
    KeepsMoves s (logInj i e v d n c a x u) := by
  have marked : KeepsMoves s (if i then { u with injMarks := a :: u.injMarks } else u) := .ite (h.of_ctxs rfl) h
  have logged := keepsMoves_logEvent e v d n c (some a) x marked
  exact .ite (logged.of_ctxs rfl) logged

/-! ## Cells read -/

theorem keepsMoves_arrRetire (q : SpId) (t n : Nat) (h : KeepsMoves s u) : KeepsMoves s (arrRetire q t n u) := by
  unfold arrRetire
  dsimp only
  split <;> split
  · exact h.same fun g => sameCtxs_addDue _ (sameCtxs_updSp _ _ (sameCtxs_l1Drop q n g))
  · exact h
  · exact h.same fun g => sameCtxs_addDue _ (sameCtxs_updSk _ _ (sameCtxs_skDrop _ n g))
  · exact h

theorem keepsMoves_arrHardFix (b i : Bool) (q : SpId) (t n : Nat) (p : Nat × Nat × Nat) (c : Option CtxId) (k : Nat) (h : KeepsMoves s u) :
    KeepsMoves s (arrHardFix b i q t n p c k u) :=
  .ite (keepsMoves_logInj i 0x03 2 p.1 p.2.1 c p.2.2 k (keepsMoves_arrRetire q t n h)) h

theorem keepsMoves_arrCheck (c : Option CtxId) (a : PAddr) (h : KeepsMoves s u) : KeepsMoves s (arrCheck c a u).2 := by
  have cleared : KeepsMoves s { u with arrErr := mapSet 0 u.arrErr a.toNat 0 } := h.of_ctxs rfl
  have fixed (b i : Bool) (q : SpId) (t n : Nat) (p : Nat × Nat × Nat) (k : Nat) := keepsMoves_arrHardFix b i q t n p c k cleared
  unfold arrCheck
  dsimp only
  split
  · exact h
  · split
    · exact keepsMoves_logInj _ _ _ _ _ _ _ _ ((fixed ..).same (sameCtxs_clearRes _ none))
    · split
      · exact keepsMoves_logInj _ _ _ _ _ _ _ _ (fixed ..)
      · split
        · exact fixed ..
        · exact keepsMoves_logInj _ _ _ _ _ _ _ _ (KeepsMoves.same (.ite (fixed ..) ((fixed ..).same (sameCtxs_skDrop _ _))) (sameCtxs_poisonLn _))

theorem keepsMoves_readCell (c : Option CtxId) (a : PAddr) (h : KeepsMoves s u) : KeepsMoves s (readCell c a u).2 := by
  have checked := keepsMoves_arrCheck c a h
  unfold readCell
  dsimp only
  split
  · exact keepsMoves_logEvent 0x0F 3 36 0 c _ 0 h
  · split
    · next r =>
      rw [r] at checked
      exact checked
    · next r =>
      rw [r] at checked
      split
      · exact checked
      · exact keepsMoves_logEvent 0x0E 0 36 0 c _ _ (checked.same fun g => sameCtxs_clearRes _ none (sameCtxs_putRaw a _ g))
      · exact keepsMoves_logEvent 0x0F 3 36 0 c _ _ checked

/-! ## A context that leaves its spindle -/

theorem keepsMoves_axNow (c : CtxId) (k : Nat) (h : KeepsMoves s u) : KeepsMoves s (axNow c k u).2 := by
  have read := keepsMoves_readCell (some c) (annexAddr u c k) (h.same (sameCtxs_annexTouch c k false))
  unfold axNow
  split
  · exact h
  · split <;> next r => rw [r] at read; exact read

theorem keepsMoves_fpSave (q : SpId) (h : KeepsMoves s u) : KeepsMoves s (fpSave q u) := by
  unfold fpSave
  dsimp only
  split
  · exact h
  · next o _ =>
    have read := keepsMoves_axNow o 5 h
    split
    · exact h
    · split
      · exact read
      · refine keepsMoves_updSp _ _ (.updCtx o (fun _ => ⟨.inl rfl, rfl, rfl, rfl⟩) ?_)
        exact .foldl (fun _ _ hv => hv.same (sameCtxs_putCell _ _ _)) _ (.foldl (fun _ _ hv => hv.same (sameCtxs_unitTouch _ _ _ true 1)) _ read)

theorem keepsMoves_fpRelease (c : CtxId) (save : Bool) (h : KeepsMoves s u) : KeepsMoves s (fpRelease c save u) := by
  have saved (q : SpId) : KeepsMoves s (if save then fpSave q u else u) := .ite (keepsMoves_fpSave q h) h
  exact .ite h (keepsMoves_updSp _ _ (saved _))

theorem keepsMoves_endStreams (c : CtxId) (h : KeepsMoves s u) : KeepsMoves s (endStreams c u) := keepsMoves_updSp _ _ h

theorem keepsMoves_bitsRead (c : CtxId) (f : Landing → Bool) (h : KeepsMoves s u) : KeepsMoves s (bitsRead c f u) :=
  .ite (h.updCtx c fun _ => ⟨.inl rfl, rfl, rfl, rfl⟩) h

theorem keepsMoves_annexSave (c : CtxId) (h : KeepsMoves s u) : KeepsMoves s (annexSave c u) :=
  .ite h (.foldl (fun _ _ hv => .ite hv (hv.same (sameCtxs_annexPut c _ _))) _ h)

theorem keepsMoves_offPly (c : CtxId) (h : KeepsMoves s u) : KeepsMoves s (offPly c u) :=
  .ite h (.updCtx c (fun _ => ⟨.inl rfl, rfl, rfl, rfl⟩)
    (keepsMoves_updSp _ _ (keepsMoves_annexSave c (keepsMoves_bitsRead c _ h))))

/-! ## Results of commands -/

theorem keepsMoves_putRes (o : Src) (v : Datum) (h : KeepsMoves s u) : KeepsMoves s (putRes o v u) := by
  cases o with
  | ctx c => exact .ite h (keepsMoves_setAx c 9 v h)
  | host => exact h.of_ctxs rfl
  | hank k => exact h.of_ctxs rfl

theorem keepsMoves_answer (o : Option (Src × Nat)) (v : Datum) (h : KeepsMoves s u) : KeepsMoves s (Machine.answer o v u) := by
  unfold Machine.answer
  split
  · exact .ite (keepsMoves_putRes _ v h) h
  · exact h

end

end Sys2Proof.Proofs

/-! SUPPORT. Moves that install, and SENDs acknowledged (R300, R302, R307, R642). -/

namespace Sys2Proof.Proofs

open Sys2Proof.Machine Sys2Proof.Expected Sys2Proof.Laws

/-! ## What a request on the fabric leaves -/

/-- A request changes the power state, and wakes the skein. -/
theorem reach_cases (a : BitVec 2) (k : SkId) (s : State) :
    ∃ f, reach a k s = setPwr f s ∨ reach a k s = updSk k (fun x => { x with parked := false }) (setPwr f s) := by
  obtain ⟨f, hf⟩ := fabric_eq_setPwr a (skSector k) s
  obtain ⟨g, hg⟩ := fabric_eq_setPwr (skSector k) (skSector k) (setPwr f s)
  unfold reach wakeSkein
  rw [hf, hg]
  split
  · exact ⟨g ∘ f, .inr rfl⟩
  · exact ⟨f, .inl rfl⟩

@[simp] theorem reach_ctxs (a : BitVec 2) (k : SkId) (s : State) : (reach a k s).ctxs = s.ctxs := by
  obtain ⟨f, e | e⟩ := reach_cases a k s <;> rw [e] <;> rfl

@[simp] theorem reach_hanks (a : BitVec 2) (k : SkId) (s : State) : (reach a k s).hanks = s.hanks := by
  obtain ⟨f, e | e⟩ := reach_cases a k s <;> rw [e] <;> rfl

@[simp] theorem getCtx_reach (a : BitVec 2) (k : SkId) (s : State) (c : CtxId) : getCtx (reach a k s) c = getCtx s c := by
  rw [getCtx, reach_ctxs, getCtx]

@[simp] theorem outOfService_reach (a : BitVec 2) (k : SkId) (s : State) (p : SpId) : outOfService (reach a k s) p = outOfService s p := by
  obtain ⟨f, e | e⟩ := reach_cases a k s <;> rw [e, outOfService, outOfService]
  · rfl
  · by_cases same : spSk p = k
    · rw [same, getSk_updSk]
      rfl
    · rw [getSk_updSk_other _ _ same]
      rfl

@[simp] theorem spAllowed_reach (a : BitVec 2) (k : SkId) (s : State) (hv : Bool) (h : BitVec 6) (p : SpId) :
    spAllowed (reach a k s) hv h p = spAllowed s hv h p := by
  have owner : hankOfSp (reach a k s) p = hankOfSp s p := by rw [hankOfSp, reach_hanks, hankOfSp]
  rw [spAllowed, owner, spAllowed]

/-! ## Installs (R307) -/

section
variable {c d : CtxId} {s : State}

/-- A moved context comes to the spindle of its move, where that is still its owner's and in service. -/
theorem landSpin_kept {x : Ctx} (owner : spAllowed s x.hv x.hank (x.toSkein ++ x.toLspin) = true)
    (serves : outOfService s (x.toSkein ++ x.toLspin) = false) : landSpin s x = x.toLspin := by
  rw [landSpin, owner, serves]
  rfl

/-- The image of a context moved from SUSPENDED, as it is installed. -/
theorem updCtx_installed {t : State} (susp : (getCtx t c).movedFrom = .suspended) (land : landSpin t (getCtx t c) = (getCtx t c).toLspin) :
    updCtx c (fun x =>
      { x with st := x.movedFrom, skein := x.toSkein, lspin := landSpin t x, img := x.imgTo, heldItems := [], migSrc := none }) t =
    updCtx c (fun x =>
      { x with st := .suspended, skein := x.toSkein, lspin := x.toLspin, img := x.imgTo, heldItems := [], migSrc := none }) t := by
  simp only [updCtx, susp, land]

/-- An answer never leaves a suspended context waiting. -/
theorem answer_st_ne_waiting {o : Option (Src × Nat)} {v : Datum} (susp : (getCtx s c).st = .suspended) :
    (getCtx (Machine.answer o v s) c).st ≠ .waiting := by
  rcases ((keepsMoves_answer o v (.refl s)).kept c (by rw [susp]; decide)).st with e | e
  · rw [e, susp]
    decide
  · rw [e]
    decide

/-- A context moved from SUSPENDED, for which nothing is held, is suspended in its target, and its issuer has the result. -/
theorem exec_migrationInstall_suspended (moving : (getCtx s c).st = .moving) (held : (getCtx s c).heldItems = [])
    (susp : (getCtx s c).movedFrom = .suspended)
    (owner : spAllowed s (getCtx s c).hv (getCtx s c).hank ((getCtx s c).toSkein ++ (getCtx s c).toLspin) = true)
    (serves : outOfService s ((getCtx s c).toSkein ++ (getCtx s c).toLspin) = false) :
    let u := updCtx c (fun x => { x with st := .suspended, skein := x.toSkein, lspin := x.toLspin, img := x.imgTo, heldItems := [], migSrc := none })
      (reach (skSector (getCtx s c).skein) (getCtx s c).toSkein s)
    exec (.migrationInstall c) s = .next (Machine.answer (getCtx s c).migSrc (ctxRes u 0 c) u) := by
  intro u
  have land : landSpin (reach (skSector (getCtx s c).skein) (getCtx s c).toSkein s) (getCtx s c) = (getCtx s c).toLspin :=
    landSpin_kept (by simpa using owner) (by simpa using serves)
  have image := updCtx_installed (t := reach (skSector (getCtx s c).skein) (getCtx s c).toSkein s) (by simpa using susp) (by simpa using land)
  have stands : (getCtx (Machine.answer (getCtx s c).migSrc (ctxRes u 0 c) u) c).st ≠ .waiting :=
    answer_st_ne_waiting (by simp only [u, getCtx_updCtx])
  change execMigrationInstall c s = _
  simp only [execMigrationInstall, installMove, moving, image, susp, held, if_true, ne_eq, not_true_eq_false, if_false, reduceCtorEq, false_and,
    List.foldl_nil]
  exact congrArg _ (if_neg fun waits => stands waits.1)

/-! ## Thermal moves (R642) -/

theorem updM_m (f : Mgmt → Mgmt) (s : State) : (updM f s).m = f s.m := rfl

theorem canMove_updM (f : Mgmt → Mgmt) (s : State) (c : CtxId) (w : Bool) : canMove (updM f s) c w = canMove s c w := rfl

theorem anySpindle_updM (f : Mgmt → Mgmt) (s : State) (k : SkId) (hv : Bool) (h : BitVec 6) :
    anySpindle (updM f s) k hv h = anySpindle s k hv h := rfl

/-- What THERMAL_MIGRATION does while the spread of the temperatures asks for it. -/
theorem exec_thermalMigration_on {j k : Nat} {l : BitVec 4} (cool : coolest s = some j) (target : migTarget s = some k) (other : k ≠ hottest s)
    (due : s.m.pwr.tmigAt ≤ s.m.clock) (enabled : (objGet s 0x2104 1).getLsbD 2 = true)
    (spread : (getDom s (hottest s)).temp - (getDom s j).temp > 8 * ((objGet s 0x2104 4).toNat : Int))
    (hot : (getDom s (hottest s)).temp ≥ 8 * (((objGet s 0x2103 1).setWidth 8 : BitVec 8).toInt - 10))
    (here : (getCtx s c).skein.toNat = hottest s) (idle : (getCtx s c).st = .ready ∨ (getCtx s c).st = .waiting) (pin : (getCtx s c).pin = 0)
    (free : (getCtx s c).mig = none) (may : canMove s c false = true)
    (spindle : anySpindle s (BitVec.ofNat 5 k) (getCtx s c).hv (getCtx s c).hank = some l) :
    exec (.thermalMigration c) s = .next (startMove c (updCtx c (fun x => { x with mig := some (BitVec.ofNat 5 k, l), migSrc := none })
      (updM (fun m => { m with pwr := { m.pwr with tmig := true, tmigAt := s.m.clock + 100000 } }) s))) := by
  have target' : migTarget (updM (fun m => { m with pwr := { m.pwr with tmig := true } }) s) = some k := target
  have ready : (decide ((getCtx s c).st = .ready) || decide ((getCtx s c).st = .waiting)) = true := by simpa using idle
  change execThermalMigration c s = _
  simp only [execThermalMigration, cool, enabled, decide_eq_true spread, decide_eq_true hot, Bool.true_or, Bool.true_and, target', updM_m,
    decide_eq_false (Nat.not_lt.mpr due), getCtx_updM, here, ready, pin, free, canMove_updM, may, anySpindle_updM, spindle, other, ne_eq,
    not_true_eq_false, decide_false, Option.isSome_none, Bool.not_true, Bool.or_self, Bool.false_eq_true, if_false]
  rfl

/-! ## SENDs (R300, R302) -/

theorem exec_sendAcknowledged_last {n : BitVec 3} (out : (getCtx s c).sendOut = some (some n)) (idle : (getCtx s c).sendWait = []) :
    exec (.sendAcknowledged c) s =
      .next (updCtx c (fun x => { x with sendst := n, senderr := x.senderr || decide (n ≠ 0), sendOut := none }) s) := by
  change execSendAcknowledged c s = _
  simp only [execSendAcknowledged, out, postWaiting, getCtx_updCtx, idle]

section
variable {v : Cell} {rest : List (CtxId × Cell)} (out : (getCtx s c).sendOut = none) (first : (getCtx s c).sendWait = (d, v) :: rest)
  (free : (getCtx s c).sendst ≠ 7) (empty : sbEmpty s c = true)
include out first free empty

/-- With the last of the SENDs that wait posted, the context becomes READY. -/
theorem exec_sendAcknowledged_wakes (last : rest = []) (waits : (getCtx s c).st = .waiting) (plain : (getCtx s c).wait = some {}) :
    exec (.sendAcknowledged c) s = .next (makeReady c (updCtx c (fun x => { x with wait := none })
      (sendPost c d v (updCtx c (fun x => { x with sendst := 7, sendWait := rest }) s)))) := by
  change execSendAcknowledged c s = _
  simp only [execSendAcknowledged, out, postWaiting, first, free, empty, last, waits, plain, Bool.not_true, Bool.false_eq_true, or_self, and_self,
    if_false, if_true]

theorem exec_sendAcknowledged_posts (more : rest ≠ []) :
    exec (.sendAcknowledged c) s = .next (sendPost c d v (updCtx c (fun x => { x with sendst := 7, sendWait := rest }) s)) := by
  change execSendAcknowledged c s = _
  simp only [execSendAcknowledged, out, postWaiting, first, free, empty, more, Bool.not_true, Bool.false_eq_true, or_self, and_false, if_false]

end

end

/-- Settles O32: an install keeps the moved context suspended, so that it does not wake, and the last of the SENDs that wait ends the wait. -/
theorem movesInstallAndSendsAreAcknowledged : Obligations.MovesInstallAndSendsAreAcknowledged := by
  exact ⟨fun c s => exec_migrationInstall_suspended, fun c j k l s => exec_thermalMigration_on, fun c n s => exec_sendAcknowledged_last,
    fun c d v rest s out first free empty =>
      ⟨exec_sendAcknowledged_wakes out first free empty, exec_sendAcknowledged_posts out first free empty⟩⟩

end Sys2Proof.Proofs

/-! SUPPORT. Context commands on their target (R265, R304, R313 to R318): how a command comes to the scheduler, and what each of them does there. -/

namespace Sys2Proof.Proofs

open Sys2Proof.Machine Sys2Proof.Expected Sys2Proof.Laws

/-! ## A command on its way (R27, R269, R315) -/

@[simp] theorem hear_ctxs (a : BitVec 2) (c : CtxId) (s : State) : (hear a c s).ctxs = s.ctxs := by
  obtain ⟨f, hf⟩ := fabric_eq_setPwr a (skSector (spSk (homeSp c))) s
  unfold hear heard
  rw [hf]
  dsimp only
  split
  · exact reach_ctxs ..
  · exact (reach_ctxs ..).trans (reach_ctxs ..)

@[simp] theorem getCtx_hear (a : BitVec 2) (c d : CtxId) (s : State) : getCtx (hear a c s) d = getCtx s d := by
  rw [getCtx, hear_ctxs, getCtx]

section
variable {m : CtxCmd} {s t u : State} {op : Nat}

/-- The host and a context are the same incarnation while their command is on its way; a hank's entry is no issuer here. -/
theorem srcGen_hear (ok : issued m.src s = true) (a : BitVec 2) (c : CtxId) : srcGen (hear a c s) m.src = srcGen s m.src := by
  cases src : m.src with
  | ctx d => simp only [srcGen, getCtx_hear]
  | host => rfl
  | hank k => rw [src] at ok; cases ok

/-- A command of an issuer that has none in progress comes to the scheduler. -/
theorem sendCmd_issued (ok : issued m.src s = true) : sendCmd op m s = ctxCommand op m s := by
  unfold sendCmd
  cases src : m.src with
  | ctx c =>
    simp only [src, issued, Bool.and_eq_true, decide_eq_true_eq] at ok
    obtain ⟨⟨awake, live⟩, idle⟩ := ok
    exact if_neg (by simp only [awake, live, idle, or_self, not_false_eq_true])
  | host =>
    simp only [src, issued, Bool.and_eq_true, decide_eq_true_eq] at ok
    obtain ⟨serves, idle⟩ := ok
    exact (hostWr_served serves).trans (if_neg idle)
  | hank k => rw [src] at ok; cases ok

/-- The command that the issuer may give crosses the fabric and takes effect, its target not moving. -/
theorem sendCmd_eq_cmdGo (ok : commands m s = true) (known : op ≠ 0 ∧ op ≤ 8) :
    sendCmd op m s = cmdGo op m (srcGen s m.src) (hear (srcSector s m.src) m.ctx s) := by
  simp only [commands, Bool.and_eq_true, decide_eq_true_eq] at ok
  obtain ⟨⟨ok, may⟩, still⟩ := ok
  have legal : ¬(op = 0 ∨ op > 8) := by omega
  rw [sendCmd_issued ok, ctxCommand]
  simp only [legal, may, still, getCtx_hear, Bool.not_true, Bool.false_eq_true, if_false]

/-! ## A command that takes effect -/

/-- Only MIGRATE and SETPRIO read the image, and find it well where nothing is upset. -/
theorem cmdImage_eq (h : m.up = none ∨ op ≠ 5 ∧ op ≠ 6) : cmdImage op m s = s := by
  unfold cmdImage
  dsimp only
  split
  · next up => exact if_neg fun reads => h.elim (fun none => nomatch none.symm.trans up) fun ⟨a, b⟩ => reads.1.elim a b
  · rfl

/-- A command is performed and reported at once, unless its move or its suspension is still to come. -/
theorem cmdGo_performed (late : 1 < op) (live : (getCtx t m.ctx).st ≠ .free) (image : m.up = none ∨ op ≠ 5 ∧ op ≠ 6)
    (effect : doCommand op m t = (0, u)) (moved : op = 5 → (getCtx u m.ctx).st ≠ .moving ∧ (getCtx u m.ctx).mig = none)
    (stopped : op = 3 → (getCtx u m.ctx).stopReq = false) : cmdGo op m (srcGen s m.src) t = reported m s 0 u := by
  have comes : ¬(op = 5 ∧ True ∧ ((getCtx u m.ctx).st = .moving ∨ (getCtx u m.ctx).mig.isSome)) := by
    rintro ⟨five, -, pending⟩
    obtain ⟨still, none⟩ := moved five
    simp [still, none] at pending
  have stops : ¬(op = 3 ∧ True ∧ (getCtx u m.ctx).stopReq = true) := by
    rintro ⟨three, -, pending⟩
    rw [stopped three] at pending
    cases pending
  have notCreate : op ≠ 1 := by omega
  simp only [cmdGo, notCreate, live, cmdImage_eq image, effect, comes, stops, if_false]
  rfl

end

section
variable {m : CtxCmd} {s : State}

/-- A command other than CREATE that is performed on its target, as it stands when the command comes. -/
theorem exec_command {i : Instr} {op : Nat} {u : State} (instr : exec i s = .next (sendCmd op m s)) (ok : commands m s = true)
    (known : 1 < op ∧ op ≤ 8) (live : (getCtx (hear (srcSector s m.src) m.ctx s) m.ctx).st ≠ .free)
    (image : m.up = none ∨ op ≠ 5 ∧ op ≠ 6)
    (effect : doCommand op m (hear (srcSector s m.src) m.ctx s) = (0, u))
    (moved : op = 5 → (getCtx u m.ctx).st ≠ .moving ∧ (getCtx u m.ctx).mig = none)
    (stopped : op = 3 → (getCtx u m.ctx).stopReq = false) : exec i s = .next (reported m s 0 u) := by
  rw [instr, sendCmd_eq_cmdGo ok (by omega), cmdGo_performed known.1 live image effect moved stopped]

end

/-! ## CREATE (R316) -/

section
variable {m : CtxCmd} {s : State}

/-- The new context of a command on its home spindle, which is in service. -/
def newCtx (m : CtxCmd) (t : State) (start : Datum) : Ctx :=
  { gen := (getCtx t m.ctx).gen + 1, issuedAt := t.m.clock, level := if m.lvl then 1 else 0, prio := m.prio, pin := if m.pin = 3 then 0 else m.pin
    skein := spSk (homeSp m.ctx), lspin := spLs (homeSp m.ctx), img := freeSlot t (spSk (homeSp m.ctx))
    flow := { pc := start }, genctl := 0x0005, ax := newAnnex t m.src false m.ctx }

/-- The image of a context is written, READY. -/
def created (c : CtxId) (y : Ctx) (t : State) : State :=
  (upto 32).foldl (fun u i => annexPut c i (rawCell (axGet y i)) u) (makeReady c (setCtx t c y))

/-- What CREATE takes from its issuer: whether a hank owns it, which, and the start address. -/
def createArgs (m : CtxCmd) (t : State) : Bool × BitVec 6 × Datum :=
  match m.src with
  | .ctx d => ((getCtx t d).hv, (getCtx t d).hank, axGet (getCtx t d) 8)
  | _ => (false, 0, t.hctxarg)

theorem doCreate_created {t : State} (ok : issued m.src s = true) (free : (getCtx t m.ctx).st = .free) (lvl : b2n m.lvl ≤ cmdLevel t m.src)
    (en : t.annexEn = true) (room : slotsUsed t (spSk (homeSp m.ctx)) < 2048) (own : (createArgs m t).1 = false)
    (serves : outOfService t (homeSp m.ctx) = false) : doCreate m t = (0, created m.ctx (newCtx m t (createArgs m t).2.2) t) := by
  have slots : ¬slotsUsed t (spSk (homeSp m.ctx)) ≥ 2048 := by omega
  have level : ¬b2n m.lvl > cmdLevel t m.src := by omega
  cases src : m.src with
  | ctx d =>
    simp only [createArgs, src] at own ⊢
    simp only [src] at level
    simp [doCreate, free, level, en, slots, serves, src, own, created, newCtx]
  | host =>
    simp only [src] at level
    simp [doCreate, free, level, en, slots, serves, src, createArgs, created, newCtx]
  | hank k => rw [src] at ok; cases ok

theorem exec_create (ok : commands m s = true) {t : State} (ht : t = hear (srcSector s m.src) m.ctx s) (free : (getCtx t m.ctx).st = .free)
    (lvl : b2n m.lvl ≤ cmdLevel t m.src) (en : t.annexEn = true) (room : slotsUsed t (spSk (homeSp m.ctx)) < 2048)
    (own : (createArgs m t).1 = false) (serves : outOfService t (homeSp m.ctx) = false) :
    exec (.create m) s = .next (reported m s 0 (created m.ctx (newCtx m t (createArgs m t).2.2) t)) := by
  have send : sendCmd 1 m s = _ := sendCmd_eq_cmdGo ok (by decide)
  simp only [commands, Bool.and_eq_true] at ok
  obtain ⟨⟨ok, -⟩, -⟩ := ok
  have gen : srcGen t m.src = srcGen s m.src := by rw [ht, srcGen_hear ok]
  change Host.Outcome.next (sendCmd 1 m s) = _
  rw [send, ← ht, cmdGo]
  simp only [gen, doCreate_created ok free lvl en room own serves, ne_eq, not_true_eq_false, if_false, if_true]
  rfl

end

/-! ## DESTROY (R317) -/

section
variable {c d : CtxId} {s t : State}

theorem SameCtxs.getCtx_eq (h : SameCtxs s t) (hs : Settled s c) (unreserved : getCtx s c = bare (getCtx s c)) : getCtx t c = getCtx s c :=
  (h.unreserved c hs unreserved).trans ((h.bare_eq c hs).trans unreserved.symm)

theorem key_ne_of_mem_mapDel {α : Type} {k : Nat} {m : SMap α} {p : Nat × α} (h : p ∈ mapDel k m) : p.1 ≠ k := by
  induction m with
  | nil => cases h
  | cons q m ih =>
    obtain ⟨a, v⟩ := q
    rw [mapDel] at h
    split at h
    · exact ih h
    · next other =>
      rcases List.mem_cons.mp h with rfl | h
      · exact other
      · exact ih h

/-- A context without a reservation is settled once it is stored. -/
theorem settled_setCtx {y : Ctx} (unreserved : y = bare y) : Settled (setCtx s c y) c := by
  by_cases blank : y = {}
  · right
    rw [blank, setCtx, mapSet, if_pos rfl]
    exact fun p => key_ne_of_mem_mapDel
  · left
    rwa [getCtx_setCtx, ← unreserved]

/-- Storing one context leaves the others settled. -/
theorem settled_updCtx_other {f : Ctx → Ctx} (other : c ≠ d) (h : Settled s c) : Settled (updCtx d f s) c := by
  refine h.imp (fun some => by rwa [getCtx_updCtx_other _ _ other]) fun absent p hp same => ?_
  rcases mem_mapSet_cases hp with rfl | hp
  · exact other (BitVec.eq_of_toNat_eq same.symm)
  · exact absent p hp same

/-- A context that is FREE, with no reservation. -/
structure Freed (s : State) (c : CtxId) : Prop where
  st : (getCtx s c).st = .free
  unreserved : getCtx s c = bare (getCtx s c)
  settled : Settled s c

theorem Freed.same (h : Freed s c) (g : SameCtxs s t) : getCtx t c = getCtx s c ∧ Freed t c := by
  have same := g.getCtx_eq h.settled h.unreserved
  exact ⟨same, by rw [same]; exact h.st, by rw [same]; exact h.unreserved, g.settled c h.settled⟩

/-- An answer writes the result of another context, or of none. -/
theorem Freed.answer (h : Freed s c) (o : Option (Src × Nat)) (v : Datum) :
    getCtx (Machine.answer o v s) c = getCtx s c ∧ Freed (Machine.answer o v s) c := by
  have put (src : Src) : getCtx (putRes src v s) c = getCtx s c ∧ Freed (putRes src v s) c := by
    cases src with
    | host => exact h.same ((SameCtxs.refl s).of_ctxs rfl)
    | hank k => exact h.same ((SameCtxs.refl s).of_ctxs rfl)
    | ctx d =>
      unfold putRes
      dsimp only
      split
      · exact ⟨rfl, h⟩
      · next live =>
        have other : c ≠ d := fun e => live (e ▸ h.st)
        have same : getCtx (updCtx d (fun x => axPut x 9 v) s) c = getCtx s c := getCtx_updCtx_other _ _ other
        have stored : Freed (updCtx d (fun x => axPut x 9 v) s) c :=
          ⟨by rw [same]; exact h.st, by rw [same]; exact h.unreserved, settled_updCtx_other other h.settled⟩
        unfold setAx
        dsimp only
        split
        · obtain ⟨kept, freed⟩ := stored.same (sameCtxs_annexPut d 9 (rawCell v) (.refl _))
          exact ⟨kept.trans same, freed⟩
        · exact ⟨same, stored⟩
  unfold Machine.answer
  split
  · split
    · exact put _
    · exact ⟨rfl, h⟩
  · exact ⟨rfl, h⟩

/-- Those who are told that a context is gone do not bring it back. -/
theorem Freed.endCmds (h : Freed s c) (o : Option (Src × Nat) × Option (Src × Nat)) : getCtx (endCmds c o s) c = getCtx s c := by
  obtain ⟨first, freed⟩ := h.answer o.1 (ctxRes s 1 c)
  exact (freed.answer o.2 _).1.trans first

/-- After DESTROY the context is FREE, with its incarnation number and its place (R317). -/
theorem getCtx_destroyCtx : ∃ g k l, getCtx (destroyCtx c t) c = { gen := g, skein := k, lspin := l } := by
  have gone (v : State) (g : Nat) (k : SkId) (l : BitVec 4) (o : Option (Src × Nat) × Option (Src × Nat)) :
      getCtx (Machine.endCmds c o (setCtx v c { gen := g, skein := k, lspin := l })) c = { gen := g, skein := k, lspin := l } := by
    refine (Freed.endCmds ⟨?_, ?_, settled_setCtx rfl⟩ o).trans (getCtx_setCtx ..) <;> rw [getCtx_setCtx]
    rfl
  exact ⟨_, _, _, gone _ _ _ _ _⟩

end

/-! ## SUSPEND, RESUME, SETPRIO, WAKE and QUERY (R265, R266, R296) -/

section
variable {m : CtxCmd} {s : State} {c : CtxId}

/-- A context is suspended, off its ply. -/
def halted (c : CtxId) (s : State) : State := updCtx c (fun y =>
  { y with st := .suspended, suspFrom := if y.st = .running then .ready else y.st, resArrived := false, wakeRec := false
           stopReq := false, stopSrc := none, invHold := false }) (offPly c s)

theorem halted_stopReq : (getCtx (halted c s) c).stopReq = false := by rw [halted, getCtx_updCtx]

/-- Nobody waits for an earlier SUSPEND. -/
theorem haltCtx_eq (alone : (getCtx s c).stopSrc = none) : haltCtx c s = halted c s := by
  simp only [haltCtx, alone]
  rfl

theorem doCommand_suspend (awake : (getCtx s m.ctx).st ≠ .suspended) (fp : fpPending (getCtx s m.ctx) = false)
    (inval : (getCtx s m.ctx).st = .running → (getCtx s m.ctx).invHold = false) (alone : (getCtx s m.ctx).stopSrc = none) :
    doCommand 3 m s = (0, halted m.ctx s) := by
  have free : ¬((getCtx s m.ctx).st = .running ∧ (getCtx s m.ctx).invHold = true) := fun ⟨run, held⟩ =>
    Bool.false_ne_true ((inval run).symm.trans held)
  simp [doCommand, awake, alone, suspendCtx, fp, free, haltCtx_eq alone]

/-- RESUME of a context that something awaited has come to, or that was READY. -/
theorem doCommand_resume (susp : (getCtx s m.ctx).st = .suspended) (may : (axPeek s m.ctx 27).getLsbD 46 = false)
    (due : (getCtx s m.ctx).resArrived = true ∨ (getCtx s m.ctx).wakeRec = true ∨ (getCtx s m.ctx).suspFrom = .ready) :
    doCommand 4 m s = (0, makeReady m.ctx (updCtx m.ctx (fun y => { y with resArrived := false, wakeRec := false }) s)) := by
  have allowed : ¬(axPeek s m.ctx 27).getLsbD 46 = true := by rw [may]; decide
  simp only [doCommand, susp, allowed, resumeCtx, due, if_true, if_false, reduceCtorEq, Nat.reduceEqDiff]

theorem doCommand_setprio (other : (getCtx s m.ctx).prio ≠ m.prio) :
    doCommand 6 m s = (0, updCtx m.ctx (fun y => { y with prio := m.prio }) s) := by
  simp [doCommand, other]

theorem doCommand_wake (waits : (getCtx s m.ctx).st = .waiting) :
    doCommand 7 m s = (0, makeReady m.ctx (updCtx m.ctx (fun y => { y with wait := none, wake := 6 }) s)) := by
  simp [doCommand, waits, wakeCtx_waiting waits]

/-! ## MIGRATE within a skein (R304, R306, R313) -/

theorem pinForbids_within {x : Ctx} {k : SkId} (pin : ¬x.pin = 2) (within : k = x.skein) : pinForbids x k = false := by
  simp only [pinForbids, decide_eq_false pin, within, ne_eq, not_true_eq_false, decide_false, Bool.and_false, Bool.or_self]

/-- What a MIGRATE is refused for does not hold of the target that it is given. -/
theorem migrateTo_allowed {d : SkId × BitVec 4} (target : migrateTo m s = (0, some d)) :
    ¬((getCtx s m.ctx).pin = 2 ∨ ((getCtx s m.ctx).pin = 1 ∧ d.1 ≠ (getCtx s m.ctx).skein) ∨
      !spAllowed s (getCtx s m.ctx).hv (getCtx s m.ctx).hank (d.1 ++ d.2) ∨ outOfService s (d.1 ++ d.2)) := by
  unfold migrateTo at target
  dsimp only at target
  split at target
  · cases target
  · split at target
    · cases target
    · split at target
      · cases target
      · split at target
        · cases target
        · next allowed =>
          split at target
          · cases target
          · cases target
            exact allowed

/-- A context that may move does not run, is not moving, and has no FP exception pending. -/
theorem canMove_spec {w : Bool} (may : canMove s c w = true) :
    (getCtx s c).st ≠ .running ∧ (getCtx s c).st ≠ .moving ∧ (getCtx s c).st ≠ .free ∧ fpPending (getCtx s c) = false := by
  simp only [canMove, Bool.and_eq_true, Bool.or_eq_true, decide_eq_true_eq, Bool.not_eq_true'] at may
  obtain ⟨⟨⟨st, fp⟩, -⟩, -⟩ := may
  refine ⟨?_, ?_, ?_, fp⟩ <;> intro e <;> simp [e] at st

/-- The context has left its spindle for a move within its skein. -/
def leftSpindle (c : CtxId) (s : State) : State := offPly c (fpRelease c true (endStreams c s))

theorem keepsMoves_leftSpindle (c : CtxId) (s : State) : KeepsMoves s (leftSpindle c s) :=
  keepsMoves_offPly c (keepsMoves_fpRelease c true (keepsMoves_endStreams c (.refl s)))

theorem requeueTrap_calm (calm : (getCtx s c).ms.mv = false ∨ (getCtx s c).ms.kind ≠ 3) : requeueTrap c s = s := by
  unfold requeueTrap
  dsimp only
  split
  · refine if_neg fun ⟨_, _, mv, kind, _⟩ => calm.elim (fun none => ?_) (· kind)
    rw [mv] at none
    cases none
  · rfl

/-- A move within the skein for which nobody waits ends at once, where no routine of the context stopped for it (R247). -/
theorem startMove_within {d : SkId × BitVec 4} (target : (getCtx s c).mig = some d) (alone : (getCtx s c).migSrc = none)
    (pin : pinForbids (getCtx s c) d.1 = false) (owner : spAllowed s (getCtx s c).hv (getCtx s c).hank (d.1 ++ d.2) = true)
    (serves : outOfService s (d.1 ++ d.2) = false) (may : canMove s c true = true) (within : d.1 = (getCtx s c).skein)
    (calm : (getCtx s c).ms.mv = false ∨ (getCtx s c).ms.kind ≠ 3) :
    startMove c s = updCtx c (fun y => { y with lspin := d.2, mig := none, migSrc := none, migHold := false }) (leftSpindle c s) := by
  obtain ⟨k, l⟩ := d
  dsimp only at pin owner serves within
  subst within
  obtain ⟨-, -, live, -⟩ := canMove_spec may
  have kept := (keepsMoves_leftSpindle c s).kept c live
  have refused : ¬(pinForbids (getCtx s c) (getCtx s c).skein = true ∨
      (!spAllowed s (getCtx s c).hv (getCtx s c).hank ((getCtx s c).skein ++ l)) = true ∨ outOfService s ((getCtx s c).skein ++ l) = true) := by
    simp [pin, owner, serves]
  have ended : endMig c 0 (updCtx c (fun x => { x with lspin := l }) (leftSpindle c s)) =
      updCtx c (fun y => { y with lspin := l, mig := none, migSrc := none, migHold := false }) (leftSpindle c s) := by
    have src : (getCtx (updCtx c (fun x => { x with lspin := l }) (leftSpindle c s)) c).migSrc = none := by
      rw [getCtx_updCtx]
      exact kept.migSrc.trans alone
    simp only [endMig, src, updCtx_updCtx]
    rfl
  have stays : requeueTrap c (updCtx c (fun y => { y with lspin := l, mig := none, migSrc := none, migHold := false }) (leftSpindle c s)) =
      updCtx c (fun y => { y with lspin := l, mig := none, migSrc := none, migHold := false }) (leftSpindle c s) := by
    refine requeueTrap_calm ?_
    rw [getCtx_updCtx]
    dsimp only
    rwa [kept.ms]
  rw [startMove]
  simp only [target, refused, may, decide_true, Bool.not_true, Bool.false_eq_true, ne_eq, not_true_eq_false, false_and, if_false, if_true]
  exact (congrArg (requeueTrap c) ended).trans stays

/-- A move is asked for, and nobody waits for it. -/
def moveAsked (d : SkId × BitVec 4) (c : CtxId) (s : State) : State := updCtx c (fun y => { y with mig := some d, migSrc := none }) s

theorem canMove_moveAsked (d : SkId × BitVec 4) (c : CtxId) (s : State) (w : Bool) : canMove (moveAsked d c s) c w = canMove s c w := by
  have empty : sbEmpty (moveAsked d c s) c = sbEmpty s c := sbEmpty_updCtx (fun _ => rfl) fun _ => rfl
  rw [canMove, empty, canMove]
  simp only [moveAsked, getCtx_updCtx, getSp_updCtx]
  rfl

/-- A context moved within its skein stands there, with no move to come. -/
def movedWithin (d : SkId × BitVec 4) (c : CtxId) (s : State) : State :=
  updCtx c (fun y => { y with lspin := d.2, mig := none, migSrc := none, migHold := false }) (leftSpindle c (moveAsked d c s))

theorem movedWithin_stands (d : SkId × BitVec 4) (live : (getCtx s c).st ≠ .free) (still : (getCtx s c).st ≠ .moving) :
    (getCtx (movedWithin d c s) c).st ≠ .moving ∧ (getCtx (movedWithin d c s) c).mig = none := by
  have asked : (getCtx (moveAsked d c s) c).st = (getCtx s c).st := by rw [moveAsked, getCtx_updCtx]
  have kept := (keepsMoves_leftSpindle c (moveAsked d c s)).kept c (by rwa [asked])
  rw [movedWithin, getCtx_updCtx]
  refine ⟨?_, rfl⟩
  dsimp only
  rcases kept.st with e | e <;> rw [e]
  · rwa [asked]
  · decide

/-- MIGRATE to another spindle of the skein, of a context that may move at once. -/
theorem doCommand_migrate {d : SkId × BitVec 4} (target : migrateTo m s = (0, some d)) (may : canMove s m.ctx true = true)
    (within : d.1 = (getCtx s m.ctx).skein) (free : (getCtx s m.ctx).mig = none)
    (calm : (getCtx s m.ctx).ms.mv = false ∨ (getCtx s m.ctx).ms.kind ≠ 3) :
    doCommand 5 m s = (0, movedWithin d m.ctx s) := by
  obtain ⟨still, -, -, fp⟩ := canMove_spec may
  have image : getCtx (moveAsked d m.ctx s) m.ctx = { getCtx s m.ctx with mig := some d, migSrc := none } := getCtx_updCtx ..
  have begun : migrateCtx m d s = startMove m.ctx (moveAsked d m.ctx s) := by
    have stays : leaveToMove m.ctx (moveAsked d m.ctx s) = moveAsked d m.ctx s := by
      simp only [leaveToMove, image, still, false_and, if_false]
    unfold moveAsked at stays ⊢
    simp only [migrateCtx, free, fp, still, stays, Option.isSome_none, Bool.false_eq_true, ne_eq, not_false_eq_true, or_true, if_false, if_true]
  have allowed := migrateTo_allowed target
  simp only [not_or, Bool.not_eq_true', Bool.not_eq_true, Bool.not_eq_false] at allowed
  obtain ⟨pin, -, owner, serves⟩ := allowed
  have moves := startMove_within (c := m.ctx) (s := moveAsked d m.ctx s) (d := d) (by rw [image]) (by rw [image])
    (by rw [image]; exact pinForbids_within pin within) (by rw [image]; exact owner) serves ((canMove_moveAsked ..).trans may)
    (by rw [image]; exact within) (by rw [image]; exact calm)
  have chosen : doCommand 5 m s = (0, migrateCtx m d s) := by
    simp only [doCommand, target, Nat.reduceEqDiff, if_false, if_true]
  rw [chosen, begun, moves, movedWithin]

end

/-- Settles O33: a command that its issuer may give takes effect at once on the target where it stands, and is reported with status 0. -/
theorem contextCommandsActOnTheirTarget : Obligations.ContextCommandsActOnTheirTarget := by
  intro m s ok c t x src
  have still : (getCtx t c).st ≠ .moving := by
    simp only [commands, Bool.and_eq_true, decide_eq_true_eq] at ok
    rw [getCtx_hear]
    exact ok.2
  refine ⟨fun free lvl en room own serves => ?create, fun live => ⟨?destroy, getCtx_destroyCtx⟩, fun live awake fp inval alone => ?suspend,
    fun susp may due => ?resume, fun live up d target may within free calm => ?migrate, fun live up other => ?setprio, fun waits => ?wake,
    fun live => ?query⟩
  case create => exact exec_create ok rfl free lvl en room own serves
  case destroy => exact exec_command (op := 2) rfl ok (by decide) live (.inr (by decide)) rfl nofun nofun
  case suspend =>
    exact exec_command (op := 3) rfl ok (by decide) live (.inr (by decide)) (doCommand_suspend awake fp inval alone) nofun fun _ => halted_stopReq
  case resume =>
    exact exec_command (op := 4) rfl ok (by decide) (by rw [susp]; decide) (.inr (by decide)) (doCommand_resume susp may due) nofun nofun
  case migrate =>
    exact exec_command (op := 5) rfl ok (by decide) live (.inl up) (doCommand_migrate target may within free calm)
      (fun _ => movedWithin_stands d live still) nofun
  case setprio => exact exec_command (op := 6) rfl ok (by decide) live (.inl up) (doCommand_setprio other) nofun nofun
  case wake => exact exec_command (op := 7) rfl ok (by decide) (by rw [waits]; decide) (.inr (by decide)) (doCommand_wake waits) nofun nofun
  case query => exact exec_command (op := 8) rfl ok (by decide) live (.inr (by decide)) rfl nofun nofun

end Sys2Proof.Proofs

/-! SUPPORT. Frame tables and HIRQ (R321, R329, R580): registers of BAR0 as the host reads them, and the pending bit that an interrupt leaves. -/

namespace Sys2Proof.Proofs

open Sys2Proof.Machine Sys2Proof.Expected Sys2Proof.Laws

/-! ## Registers read by the host (R580, R643) -/

section
variable {s : State}

/-- A host request is performed while the block is served, whatever it returned otherwise. -/
theorem hostDo_served {ans : HostAns} {f : State → State} (h : served s = true) : hostDo ans f s = f s := by
  simp only [served, Bool.and_eq_true, decide_eq_true_eq, Bool.not_eq_true'] at h
  obtain ⟨⟨⟨⟨act, perst⟩, d3⟩, bring⟩, sleep⟩ := h
  rw [hostDo, if_neg (by simp [act, perst, d3])]
  split
  · next mode => exact absurd mode bring
  · next mode => exact absurd mode sleep
  · rfl

/-- The low bytes of a number, each at its place, are its remainder. -/
theorem foldl_bytes (v n : Nat) : ((upto n).map fun i => 2 ^ (8 * i) * bits v (8 * i) 8).foldl (· + ·) 0 = v % 2 ^ (8 * n) := by
  induction n with
  | zero => simp [upto, Nat.mod_one]
  | succ n ih =>
    have last : upto (n + 1) = upto n ++ [n] := List.range_succ
    rw [last, List.map_append, List.foldl_append, ih, Nat.mul_succ, Nat.pow_add, Nat.mod_mul]
    rfl

/-- Eight bytes at an aligned offset are the register there. -/
theorem bytesOf_aligned (get : Nat → BitVec 64) {off : Nat} (aligned : off % 8 = 0) : bytesOf get off 8 = get off := by
  have bytes : (upto 8).map (fun i => 2 ^ (8 * i) * bits (get ((off + i) / 8 * 8)).toNat ((off + i) % 8 * 8) 8) =
      (upto 8).map fun i => 2 ^ (8 * i) * bits (get off).toNat (8 * i) 8 := by
    refine List.map_congr_left fun i hi => ?_
    have small : i < 8 := List.mem_range.mp hi
    have place : (off + i) / 8 * 8 = off ∧ (off + i) % 8 * 8 = 8 * i := by omega
    rw [place.1, place.2]
  rw [bytesOf, bytes, foldl_bytes, Nat.mod_eq_of_lt (get off).isLt, BitVec.ofNat_toNat, BitVec.setWidth_eq]

/-- The registers of table bases, commands and doorbells have no effect when read. -/
theorem bar0Touch_plain {off : Nat} (low : off < 0x6000) (aligned : off % 8 = 0) : bar0Touch off 8 s = s := by
  have one : (off + 8 - 1) / 8 - off / 8 + 1 = 1 := by omega
  have here : (off / 8 + 0) * 8 = off := by omega
  have plain : bar0ReadEffect off s = s := by
    rw [bar0ReadEffect, if_neg (by omega), if_neg (by omega), if_neg (by omega)]
  rw [bar0Touch, if_neg (by decide), one]
  change bar0ReadEffect ((off / 8 + 0) * 8) s = s
  rw [here, plain]

/-- A read of such a register returns its value and changes nothing. -/
theorem exec_hostRegisterAccess_read (ok : served s = true) {off : BitVec 22} (low : off.toNat < 0x6000) (aligned : off.toNat % 8 = 0) :
    exec (.hostRegisterAccess 0 off 8 false 0) s = .next (updHost (fun h => { h with ans := .data (bar0Get s off.toNat) }) s) := by
  have register : ¬off.toNat ≥ 0x200000 := by omega
  change execHostRegisterAccess 0 off 8 false 0 s = _
  simp only [execHostRegisterAccess, register, if_true, if_false, Bool.false_eq_true, hostDo_served ok, bar0Touch_plain low aligned, regAns,
    Nat.le_refl, bytesOf_aligned _ aligned]

/-! ## XFRAMEn (R321) -/

/-- EN is bit 63 of a table base, and BASE its low 40 bits. -/
theorem baseWord_eq_append (en : Bool) (b : PAddr) : baseWord en b = b1 en ++ (0 : BitVec 23) ++ b := by
  have fits : b.toNat < 2 ^ 40 := b.isLt
  apply BitVec.eq_of_toNat_eq
  have fields : (b1 en ++ (0 : BitVec 23) ++ b).toNat = (b1 en).toNat * 2 ^ 63 + b.toNat := by
    rw [BitVec.toNat_append, ← Nat.shiftLeft_add_eq_or_of_lt fits, BitVec.toNat_append]
    cases en <;> rfl
  rw [fields]
  cases en <;> simp [baseWord, pack, b1, b2n] <;> omega

theorem bar0Get_xframe {n : Nat} (table : n < 4) : bar0Get s (0x5030 + 8 * n) = baseWord (frameTab s (n + 1)).1 (frameTab s (n + 1)).2 := by
  have own : (0x5030 + 8 * n - 0x5030) / 8 + 1 = n + 1 := by omega
  unfold bar0Get
  dsimp only
  rw [if_neg (by omega), if_neg (by omega), if_neg (by omega), if_neg (by omega), if_neg (by omega), if_neg (by omega), if_neg (by omega),
    if_pos (by omega), own]

theorem exec_xframeWrite_free (ok : served s = true) (free : allFree s = true) (n : BitVec 2) (v : BitVec 64) :
    exec (.xframeWrite n v) s = .next { s with frames := mapSet (false, 0) s.frames (n.toNat + 1) (v.getLsbD 63, v.extractLsb' 0 40) } :=
  congrArg Host.Outcome.next (baseWrite_free ok free)

theorem exec_xframeWrite_busy (ok : served s = true) (busy : allFree s = false) (n : BitVec 2) (v : BitVec 64) :
    exec (.xframeWrite n v) s = .next (logOnly 0x2A 4 39 0 none none 0 s) :=
  congrArg Host.Outcome.next (baseWrite_busy ok busy)

/-- XFRAME0 to XFRAME3 are read as they were written (R321). -/
theorem exec_hostRegisterAccess_xframe (ok : served s = true) (n : BitVec 2) :
    exec (.hostRegisterAccess 0 (BitVec.ofNat 22 (0x5030 + 8 * n.toNat)) 8 false 0) s =
      .next (updHost (fun h => { h with ans := .data (b1 (frameTab s (n.toNat + 1)).1 ++ (0 : BitVec 23) ++ (frameTab s (n.toNat + 1)).2) }) s) := by
  have table : n.toNat < 4 := n.isLt
  have off : (BitVec.ofNat 22 (0x5030 + 8 * n.toNat)).toNat = 0x5030 + 8 * n.toNat := by
    rw [BitVec.toNat_ofNat]
    omega
  rw [exec_hostRegisterAccess_read ok (by omega) (by omega), off, bar0Get_xframe table, baseWord_eq_append]

/-! ## A record that notifies no one (R716, R718) -/

theorem acceptRec_frames (r : ErrRec) (s : State) : (acceptRec r s).frames = s.frames := by
  unfold acceptRec
  dsimp only
  split
  · rfl
  · split <;> rfl

theorem logOnly_counter {e : Nat} (other : e ≠ 0x21) (sev d u : Nat) (c : Option CtxId) (a : Option Nat) (x : Nat) :
    mapGet 0 (logOnly e sev d u c a x s).counters e = min (2 ^ 32 - 1) (mapGet 0 s.counters e + 1) := by
  rw [logOnly, acceptRec_counter _ _ other]
  exact mapGet_mapSet_same ..

end

/-! ## The pending bit of an interrupt (R329) -/

section
variable {c : CtxId} {s : State}

theorem getCtx_heard (c d : CtxId) (s : State) : getCtx (heard c s) d = getCtx s d := by
  unfold heard
  dsimp only
  split <;> simp only [getCtx_reach]

/-- The end of a reservation keeps the annex registers. -/
theorem ax_of_bare {x y : Ctx} (h : bare y = bare x) : y.ax = x.ax := (congrArg Ctx.ax h :)

/-- The image of a context that exists holds the annex register written, wherever the annex stands (R280). -/
theorem axGet_setAx (live : (getCtx s c).st ≠ .free) (k : Nat) (v : Datum) : axGet (getCtx (setAx c k v s) c) k = v := by
  have put : getCtx (updCtx c (fun x => axPut x k v) s) c = axPut (getCtx s c) k v := getCtx_updCtx ..
  have image : axGet (axPut (getCtx s c) k v) k = v := mapGet_mapSet_same ..
  have settled : Settled (updCtx c (fun x => axPut x k v) s) c := settled_of_live (by rw [put]; exact live)
  have same : SameCtxs (updCtx c (fun x => axPut x k v) s) (setAx c k v s) := .ite (sameCtxs_annexPut c k _ (.refl _)) (.refl _)
  rw [axGet, ax_of_bare (same.bare_eq c settled), put]
  exact image

theorem wakeSkein_ctxs (k : SkId) (s : State) : (wakeSkein k s).ctxs = s.ctxs := by
  obtain ⟨f, hf⟩ := fabric_eq_setPwr (skSector k) (skSector k) s
  unfold wakeSkein
  rw [hf]
  split <;> rfl

theorem makeReady_ax (c : CtxId) (s : State) : (getCtx (makeReady c s) c).ax = (getCtx s c).ax := by
  have ready : getCtx (makeReady c s) c = getCtx (updCtx c (fun x => { x with st := .ready, readySeq := s.readySeq, readyAt := s.m.clock }) s) c := by
    rw [getCtx, makeReady, wakeSkein_ctxs]
    rfl
  rw [ready, getCtx_updCtx]

/-- A wake leaves the annex registers of the context. -/
theorem wakeCtx_ax (c : CtxId) (r : BitVec 3) (s : State) : (getCtx (wakeCtx c r s) c).ax = (getCtx s c).ax := by
  unfold wakeCtx
  dsimp only
  split
  · rw [makeReady_ax, getCtx_updCtx]
  · split
    · rw [getCtx_updCtx]
    · split
      · rw [holdItem, getCtx_updCtx]
      · rfl

theorem getLsbD_or_dat (x : Datum) {i : Nat} (hi : i < 48) : (x ||| dat (2 ^ i)).getLsbD i = true := by
  rw [BitVec.getLsbD_or, dat, BitVec.getLsbD_ofNat, Nat.testBit_two_pow_self]
  simp [hi]

/-- An interrupt of a context that exists and is not moving is pending there, whether the context wakes or not. -/
theorem raiseIrq_pending {i : Nat} (hi : i < 48) (live : (getCtx s c).st ≠ .free) (still : (getCtx s c).st ≠ .moving) :
    (axGet (getCtx (raiseIrq c i s) c) 26).getLsbD i = true := by
  have pending : axGet (getCtx (setAx c 26 (axPeek s c 26 ||| dat (2 ^ i)) (heard c s)) c) 26 = axPeek s c 26 ||| dat (2 ^ i) :=
    axGet_setAx (by rw [getCtx_heard]; exact live) ..
  rw [raiseIrq_present live still]
  split
  · rw [axGet, wakeCtx_ax, ← axGet, pending, getLsbD_or_dat _ hi]
  · rw [pending, getLsbD_or_dat _ hi]

end

/-- Settles O36: a write of a frame table is performed or discarded by one condition, a read of it is the word of its EN and BASE, and the pending
bit of HIRQ outlasts the annex write and the wake. -/
theorem frameTablesAreSetOnlyWhileFree : Obligations.FrameTablesAreSetOnlyWhileFree := by
  intro v n s ok
  refine ⟨fun free => exec_xframeWrite_free ok free n v, fun busy => ⟨_, exec_xframeWrite_busy ok busy n v, ?frames, ?ctxs, ?mem, ?counted⟩,
    exec_hostRegisterAccess_xframe ok n, ?hirqRead, fun c live own => ⟨exec_hirq ok (hostCtx_own live own), fun still => ?pending⟩⟩
  case frames => exact acceptRec_frames ..
  case ctxs => exact (acceptRec_samePatches ..).ctxs
  case mem => exact (acceptRec_samePatches ..).mem
  case counted => exact logOnly_counter (by decide) ..
  case hirqRead => exact exec_hostRegisterAccess_read ok (by decide) (by decide)
  case pending => exact raiseIrq_pending (by decide) (by rwa [getCtx_hear]) (by rwa [getCtx_hear])

end Sys2Proof.Proofs

/-! SUPPORT. TLB instructions and broadcasts (R391 to R398, R428): operand pairs, what each instruction does on its spindle, and how a target
answers. -/

namespace Sys2Proof.Proofs

open Sys2Proof.Machine Sys2Proof.Expected Sys2Proof.Laws

/-! ## Operand pairs -/

/-- FIX and RAW cells are set, and well formed whatever their datum (R149). -/
theorem fixRaw_passes {v : Cell} (ty : fixRaw (cTyp v) = true) : cTyp v ≠ tUNSET ∧ badCell v = false := by
  have kinds : cTyp v = tFIX ∨ cTyp v = tRAW := by simpa [fixRaw] using ty
  rcases kinds with e | e <;> exact ⟨by rw [e]; decide, by simp [badCell, isMalformed, isReserved, e]⟩

theorem pair_eq_some {x : Ctx} {f : FA} {ta tb : BitVec 6} {r : Datum × Datum} :
    pair x f ta tb = some r ↔
      ∃ a b, opnd x f.sa = some a ∧ opnd x f.sb = some b ∧ (cTyp a = ta ∧ cTyp b = tb) ∧ (cDat a, cDat b) = r := by
  simp [pair, Option.bind_eq_some_iff, need_eq_some]

/-- A pair of the types that an instruction asks for is read without a fault. -/
theorem xTwoOf_pair {c : CtxId} {f : FA} {ta tb : BitVec 6} {r : Datum × Datum} {t : State} (hp : pair (getCtx t c) f ta tb = some r)
    (fa : fixRaw ta = true) (fb : fixRaw tb = true) : xTwoOf c f ta tb t = .ok r t := by
  obtain ⟨a, b, ha, hb, ⟨rfl, rfl⟩, rfl⟩ := pair_eq_some.mp hp
  obtain ⟨ua, wfa⟩ := fixRaw_passes fa
  obtain ⟨ub, wfb⟩ := fixRaw_passes fb
  rw [xTwoOf, x_bind_ok (xTwo_opnd ha hb (chkTwo_pass t ua ub wfa wfb))]
  exact x_check_pass (absurd · (by simp))

/-! ## Checks that pass -/

/-- A page in the context's grant may be installed (R384). -/
theorem xPageGrant_ok {c : CtxId} {e1 : Datum} {t : State} (granted : pageGranted t (getCtx t c) e1 = true) :
    xPageGrant c e1 t = .ok () t := by
  rw [pageGranted] at granted
  rw [xPageGrant, x_bind_ok (xCtx_eq c t), x_bind_ok (x_get t), granted]
  rfl

theorem xEntry_eq (c : CtxId) (e0 e1 : Datum) (lk : Bool) (t : State) : xEntry c e0 e1 lk t = .ok (entryOf (getCtx t c) e0 e1 lk) t := by
  rw [xEntry, x_bind_ok (xCtx_eq c t), x_pure, entryOf]

/-- An invalidation that is not broadcast, or finds SBUSY 0, may begin (R397). -/
theorem xShootFree_ok {c : CtxId} {bcast : Bool} {t : State} (free : bcast = true → (axGet (getCtx t c) 30).getLsbD 47 = false) :
    xShootFree c bcast t = .ok () t := by
  rw [xShootFree, x_bind_ok (xCtx_eq c t)]
  cases bcast with
  | false => rfl
  | true =>
    rw [free rfl]
    rfl

/-! ## TLBW and TLBLK (R391, R392) -/

/-- The entries that match somewhere in the page of a pair, under its tag. -/
def meetsPage (e0 e1 : Datum) (e : TlbEnt) : Bool := entOverlap e (bits e0.toNat 36 12) (pageSpan e0 e1).1 (pageSpan e0 e1).2

/-- The unlocked entries of both TLBs that meet the page go. -/
def pageCleared (e0 e1 : Datum) (p : Spindle) : Spindle := tlbRemove (meetsPage e0 e1) false p

/-- An entry of the DTLB, and one of the ITLB where the page may be executed and no locked entry meets it. -/
def pageEntered (e0 e1 : Datum) (e : TlbEnt) (p : Spindle) : Spindle :=
  if e1.getLsbD 41 && !p.itlb.any (fun i => i.2.locked && meetsPage e0 e1 i.2) then itlbIns e (dtlbIns e p) else dtlbIns e p

/-- The entries of the ITLB that meet the page go, locked ones too. -/
def itlbCleared (e0 e1 : Datum) (p : Spindle) : Spindle := { p with itlb := p.itlb.filter fun i => !meetsPage e0 e1 i.2 }

section
variable {h : Hd} {f : FA} {w : BitVec 48} {s t : State} {e0 e1 : Datum}

theorem exec_tlbw (ok : Takes (.tlbw h f) h w s) (start : slotStart h.ctx s = t)
    (hp : pair (getCtx t h.ctx) f tRAW tRAW = some (e0, e1)) (good : entBad e0 e1 = false)
    (granted : e1.getLsbD 47 = true → pageGranted (updSp (spOf t h.ctx) (pageCleared e0 e1) t) (getCtx t h.ctx) e1 = true) :
    exec (.tlbw h f) s = .next (slotDone h.ctx .seq (
      if e1.getLsbD 47 then updSp (spOf t h.ctx) (pageEntered e0 e1 (entryOf (getCtx t h.ctx) e0 e1 false))
        (updSp (spOf t h.ctx) (pageCleared e0 e1) t)
      else updSp (spOf t h.ctx) (pageCleared e0 e1) t)) := by
  subst start
  obtain ⟨_, hw, hi⟩ := ok
  cases hw
  refine issueOut_done hi ((x_bind_ok (xTwoOf_pair hp rfl rfl)).trans ?_)
  refine (x_check_pass (absurd · (Bool.eq_false_iff.mp good))).trans ?_
  refine ((x_bind_ok rfl).trans (x_bind_ok (xMod_eq ..))).trans ?_
  split
  · next valid => exact (x_bind_ok (xPageGrant_ok (granted valid))).trans ((x_bind_ok (xEntry_eq ..)).trans (x_bind_ok (xMod_eq ..)))
  · rfl

theorem exec_tlblk (ok : Takes (.tlblk h f) h w s) (start : slotStart h.ctx s = t)
    (hp : pair (getCtx t h.ctx) f tRAW tRAW = some (e0, e1)) (good : entBad e0 e1 = false)
    (granted : e1.getLsbD 47 = true → pageGranted t (getCtx t h.ctx) e1 = true)
    (room : e1.getLsbD 47 = true → ((getSp t (spOf t h.ctx)).itlb.filter fun i => i.2.locked && !meetsPage e0 e1 i.2).length < 16) :
    exec (.tlblk h f) s = .next (slotDone h.ctx .seq (
      if e1.getLsbD 47 then updSp (spOf t h.ctx) (fun p => itlbIns (entryOf (getCtx t h.ctx) e0 e1 true) (itlbCleared e0 e1 p)) t
      else updSp (spOf t h.ctx) (itlbCleared e0 e1) t)) := by
  subst start
  obtain ⟨_, hw, hi⟩ := ok
  cases hw
  refine issueOut_done hi ((x_bind_ok (xTwoOf_pair hp rfl rfl)).trans ?_)
  refine (x_check_pass (absurd · (Bool.eq_false_iff.mp good))).trans ((x_bind_ok rfl).trans ?_)
  split
  · next valid =>
    refine (x_bind_ok (xPageGrant_ok (granted valid))).trans ((x_bind_ok (x_get _)).trans ?_)
    refine (x_check_pass (absurd · (Nat.not_le.mpr (room valid)))).trans ?_
    exact (x_bind_ok (xEntry_eq ..)).trans (x_bind_ok (xMod_eq ..))
  · exact x_bind_ok (xMod_eq ..)

end

/-! ## TLBINV and TLBINVS (R393, R394) -/

/-- What TLBINV invalidates: a descriptor, or a page. -/
def pageOp (a n : Datum) : InvOp := if bitN n.toNat 0 then .seg (a.extractLsb' 36 12) (a.extractLsb' 0 8) else .page a (bitN n.toNat 2)

/-- What TLBINVS invalidates: the entries of one tag, or of every tag that the context may name. -/
def tagOp (s : State) (x : Ctx) (a n : Datum) : InvOp :=
  .space (if bitN n.toNat 3 then (if x.hv then ((getHank s x.hank).cur.taglo.toNat, (getHank s x.hank).cur.taghi.toNat) else (0, 4095))
    else (a.toNat, a.toNat)) (bitN n.toNat 3) (bitN n.toNat 2)

section
variable {h : Hd} {f : FA} {w : BitVec 48} {s t : State} {a n : Datum}

theorem exec_tlbinv (ok : Takes (.tlbinv h f) h w s) (start : slotStart h.ctx s = t) (hp : pair (getCtx t h.ctx) f tRAW tFIX = some (a, n))
    (defined : n.toNat < 8) (page : bitN n.toNat 0 = true → bits a.toNat 8 28 = 0)
    (free : bitN n.toNat 1 = true → (axGet (getCtx t h.ctx) 30).getLsbD 47 = false) :
    exec (.tlbinv h f) s = .next (slotDone h.ctx .seq (doShoot h.ctx (pageOp a n) (bitN n.toNat 1) t)) := by
  subst start
  obtain ⟨_, hw, hi⟩ := ok
  cases hw
  have formed : ¬(n.toNat ≥ 8 ∨ (bitN n.toNat 0 = true ∧ bits a.toNat 8 28 ≠ 0)) := by
    rintro (big | ⟨seg, low⟩)
    · omega
    · exact low (page seg)
  refine issueOut_done hi ((x_bind_ok (xTwoOf_pair hp rfl rfl)).trans ?_)
  refine (x_check_pass (absurd · formed)).trans ?_
  exact (x_bind_ok (xShootFree_ok free)).trans (x_bind_ok (xMod_eq ..))

theorem exec_tlbinvs (ok : Takes (.tlbinvs h f) h w s) (start : slotStart h.ctx s = t) (hp : pair (getCtx t h.ctx) f tFIX tFIX = some (a, n))
    (tag : a.toNat ≤ 4095) (defined : n.toNat < 16) (even : bitN n.toNat 0 = false)
    (own : (getCtx t h.ctx).hv = true → tagIn (getHank t (getCtx t h.ctx).hank).cur (a.extractLsb' 0 12) = true)
    (free : bitN n.toNat 1 = true → (axGet (getCtx t h.ctx) 30).getLsbD 47 = false) :
    exec (.tlbinvs h f) s = .next (slotDone h.ctx .seq (doShoot h.ctx (tagOp t (getCtx t h.ctx) a n) (bitN n.toNat 1) t)) := by
  subst start
  obtain ⟨_, hw, hi⟩ := ok
  cases hw
  have formed : ¬(a.toNat > 4095 ∨ n.toNat ≥ 16 ∨ bitN n.toNat 0 = true) := by
    rintro (big | big | odd)
    · omega
    · omega
    · exact Bool.eq_false_iff.mp even odd
  refine issueOut_done hi ((x_bind_ok (xTwoOf_pair hp rfl rfl)).trans ?_)
  refine (x_check_pass (absurd · formed)).trans ((x_bind_ok (xCtx_eq ..)).trans ((x_bind_ok (x_get _)).trans ?_))
  refine (x_check_pass (absurd · ?_)).trans ?_
  · simpa using own
  refine (x_bind_ok (xShootFree_ok free)).trans ((x_bind_ok (xMod_eq ..)).trans ?_)
  rw [tagOp]
  cases bitN n.toNat 3 <;> rfl

end

/-! ## TLBRD (R395) -/

/-- What TLBRD lands: E1 of the entry of the DTLB, or else of the ITLB, that matches; UNSET where none does. -/
def tlbRead (p : Spindle) (tag : BitVec 12) (lin : Nat) : Cell :=
  match tlbFind p.dtlb tag lin, tlbFind p.itlb tag lin with
  | some e, _ => mkCell 0 tRAW e.e1
  | none, some e => mkCell 0 tRAW e.e1
  | none, none => unsetCell

theorem exec_tlbrd {h : Hd} {f : FA} {w : BitVec 48} {s t : State} {a : Cell} (ok : Takes (.tlbrd h f) h w s) (start : slotStart h.ctx s = t)
    (ha : opnd (getCtx t h.ctx) f.sa = some a) (raw : cTyp a = tRAW) :
    exec (.tlbrd h f) s = .next (slotResult h.ctx .seq [(4, .word f.dst,
      tlbRead (getSp t (spOf t h.ctx)) ((cDat a).extractLsb' 36 12) (4096 * bits (cDat a).toNat 0 36))] t) := by
  subst start
  obtain ⟨_, hw, hi⟩ := ok
  cases hw
  obtain ⟨set, wf⟩ := fixRaw_passes (v := a) (by rw [raw]; rfl)
  refine issueOut_lands hi ((x_bind_ok (xOne_opnd ha set wf)).trans ?_)
  refine (x_check_pass (absurd · (not_not_intro raw))).trans ((x_bind_ok (x_get _)).trans ?_)
  refine (x_bind_ok (land_seq ..)).trans ?_
  rw [tlbRead]
  generalize tlbFind (getSp _ _).dtlb _ _ = data, tlbFind (getSp _ _).itlb _ _ = code
  cases data <;> cases code <;> rfl

/-! ## Broadcasts (R397, R398, R428) -/

/-- An invalidation reaches a target: its TLBs and descriptors lose what it names, and HOST requests that have not left are translated again. -/
def shootApplied (q : SpId) (o : InvOp) (s : State) : State :=
  updAllCtx (fun _ x => if ctxSp x = q ∧ !x.hostSent then { x with hostReq := none } else x) (updSp q (invApply o) s)

section
variable {c : CtxId} {q : SpId} {b : Bcast} {s : State}

theorem exec_shootdown (found : (s.bcasts.find? fun b => decide (b.ctx = c) && b.todo.contains q) = some b) :
    exec (.shootdown c q) s = .next (if accessOut q (shootApplied q b.op s) then shootApplied q b.op s
      else bcastAck c b.gen q (shootApplied q b.op s)) := by
  change execShootdown c q s = _
  rw [execShootdown, found]
  rfl

/-- The broadcast of an incarnation of a context is over. -/
def bcastOver (c : CtxId) (g : Nat) (s : State) : State :=
  { s with bcasts := s.bcasts.filter fun x => !(decide (x.ctx = c) && decide (x.gen = g)) }

theorem exec_shootdownComplete (found : (s.bcasts.find? fun b => decide (b.ctx = c) && b.todo.isEmpty) = some b) :
    exec (.shootdownComplete c) s = .next (if (getCtx s c).gen = b.gen then
      setAx c 30 (setBit (axPeek (bcastOver c b.gen s) c 30) 47 false) (bcastOver c b.gen s) else bcastOver c b.gen s) := by
  change execShootdownComplete c s = _
  rw [execShootdownComplete, found]
  rfl

end

section
variable {q t : SpId} {s : State}

theorem getSp_icApply_other (h : q ≠ t) (ln : Option Nat) (s : State) : getSp (icApply t ln s) q = getSp s q := by
  rw [icApply, getSp_updSk, getSp_updSp_other _ _ h]

/-- A target has applied the INVAL of a spindle, and is no longer waited for. -/
def invalAcked (q t : SpId) (s : State) : State :=
  updSp q (fun p => { p with ibusy := p.ibusy.filter fun x => x ≠ t }) (icApply t (getSp s q).ibLine s)

/-- The last target has answered: the INVAL of the spindle is over, and an INVAL that waits in its slot may issue. -/
def invalOver (q : SpId) (s : State) : State :=
  updAllCtx (fun _ x => if ctxSp x = q then { x with invHold := false } else x) (updSp q (fun p => { p with ibCtx := none, ibLine := none }) s)

theorem exec_invalBroadcast (waits : (getSp s q).ibusy.contains t = true) (other : q ≠ t) :
    exec (.invalBroadcast q t) s = .next (if (getSp s q).ibusy.filter (fun x => x ≠ t) = [] then
      (match (getSp s q).ibCtx with
        | some c => startMove c (invalOver q (invalAcked q t s))
        | none => invalOver q (invalAcked q t s))
      else invalAcked q t s) := by
  have left : (getSp (invalAcked q t s) q).ibusy = (getSp s q).ibusy.filter fun x => x ≠ t := by
    rw [invalAcked, getSp_updSp, getSp_icApply_other other]
  change execInvalBroadcast q t s = _
  refine congrArg Host.Outcome.next ((if_neg (by rw [waits]; decide)).trans ?_)
  change (if !(getSp (invalAcked q t s) q).ibusy.isEmpty then invalAcked q t s else _) = _
  rw [left]
  cases (getSp s q).ibusy.filter fun x => x ≠ t <;> rfl

end

/-- Settles O29: the body of each instruction passes its checks and makes one change of its spindle, and an answer to a broadcast is the case that its
last target, or its last outstanding access, decides. -/
theorem tlbInstructionsAndBroadcastsAct : Obligations.TlbInstructionsAndBroadcastsAct := by
  refine ⟨fun h f w s => ?instructions, fun c q b s found => ?shootdown, fun c b s found => ?complete, fun q t s waits other => ?inval⟩
  case instructions =>
    refine ⟨fun e0 e1 hp good => ⟨fun ok invalid => ?_, fun ok valid granted => ?_, fun ok invalid => ?_, fun ok valid granted room => ?_⟩,
      fun a n ok hp defined page free => ?_, fun a n ok hp tag defined even own free => ?_, fun a ok ha raw => ?_⟩
    · have no := Bool.eq_false_iff.mp invalid
      rw [exec_tlbw ok rfl hp good (absurd · no), if_neg no]
      rfl
    · rw [exec_tlbw ok rfl hp good fun _ => granted, if_pos valid]
      rfl
    · have no := Bool.eq_false_iff.mp invalid
      rw [exec_tlblk ok rfl hp good (absurd · no) (absurd · no), if_neg no]
      rfl
    · rw [exec_tlblk ok rfl hp good (fun _ => granted) fun _ => room, if_pos valid]
      rfl
    · exact exec_tlbinv ok rfl hp defined page free
    · exact exec_tlbinvs ok rfl hp tag defined even own free
    · exact exec_tlbrd ok rfl ha raw
  case shootdown =>
    exact ⟨fun done => (exec_shootdown found).trans (congrArg Host.Outcome.next (if_neg (Bool.eq_false_iff.mp done))),
      fun out => (exec_shootdown found).trans (congrArg Host.Outcome.next (if_pos out))⟩
  case complete =>
    exact ⟨fun same => (exec_shootdownComplete found).trans (congrArg Host.Outcome.next (if_pos same)),
      fun gone => (exec_shootdownComplete found).trans (congrArg Host.Outcome.next (if_neg gone))⟩
  case inval =>
    exact ⟨fun more => (exec_invalBroadcast waits other).trans (congrArg Host.Outcome.next (if_neg more)),
      fun last => (exec_invalBroadcast waits other).trans (congrArg Host.Outcome.next (if_pos last))⟩

end Sys2Proof.Proofs

/-! SUPPORT. Cache instructions (R403, R424 to R428): memory phases that are served in their slot, and the operands that PREF drops. -/

namespace Sys2Proof.Proofs

open Sys2Proof.Machine Sys2Proof.Expected Sys2Proof.Laws

/-! ## Memory phases -/

section
variable {c : CtxId} {w : BitVec 48} {s t u : State} {va : VAddr} {pa : PAddr} {mt : Nat}

/-- An address in NORMAL memory for ZLINE, and the entry that finds room (R424). -/
theorem memBasic_zline (hx : xlateNormal c (getCtx s c).level false (vMk (vSeg va) (vOff va / 8 * 8)) .write s = .ok pa t)
    (room : sbPutAll c [{ ctx := c, sbar := (getCtx t c).sbars, kind := .zline (lineOf pa) }] t = ([], u)) :
    memBasic c false w (.zline va) s = .ok .seq u := by
  simp only [memBasic]
  rw [x_bind_ok (xCtx_eq c s), x_bind_ok hx, x_bind_ok (xStores_room (ks := [.zline (lineOf pa)]) room rfl), x_pure]

/-- CLEAN and FLUSH of a line that no fill and, for FLUSH, no other spindle's LR keeps (R425, R443, R473). -/
theorem memBasic_clean {flush : Bool} (hx : xlate c (getCtx s c).level false va .read s = .ok (pa, mt) t)
    (free : mt = 0 → heldAny t (lineOf pa) = false ∧ (flush = true → lineHeld (some (ctxSp (getCtx s c))) (lineOf pa) t = false)) :
    memBasic c false w (.clean va flush) s = .ok .seq
      (if mt = 0 ∧ (getSk t (getCtx s c).skein).dstate ≠ 2 then cleanLine (lineOf pa) flush (noted c (lineOf pa) t) else t) := by
  simp only [memBasic]
  rw [x_bind_ok (xCtx_eq c s), x_bind_ok hx, x_bind_ok (x_get t)]
  by_cases acts : mt = 0 ∧ (getSk t (getCtx s c).skein).dstate ≠ 2
  · obtain ⟨fill, lr⟩ := free acts.1
    rw [if_pos acts, if_pos acts]
    refine (x_check_pass (absurd · ?served)).trans (x_bind_ok (xMod_eq _ t))
    case served =>
      rw [fill, Bool.false_or, Bool.and_eq_true]
      exact fun ⟨flushes, held⟩ => Bool.false_ne_true ((lr flushes).symm.trans held)
  · rw [if_neg acts, if_neg acts]
    rfl

/-- INVAL of a line, whose broadcast finds IBUSY 0 (R427, R428). -/
theorem memBasic_inval {bcast : Bool} (free : bcast = true → (getSp s (ctxSp (getCtx s c))).ibusy = [])
    (hx : xlate c (getCtx s c).level false va .read s = .ok (pa, mt) t) :
    memBasic c false w (.inval va bcast) s = .ok .seq (if mt = 0 then doInval c (some (lineOf pa)) bcast t else t) := by
  have idle : (bcast && !(getSp s (ctxSp (getCtx s c))).ibusy.isEmpty) = false := by
    cases bcast with
    | false => rfl
    | true => rw [free rfl]; rfl
  simp only [memBasic]
  rw [x_bind_ok (xCtx_eq c s), x_bind_ok (x_get s), idle]
  refine (x_check_pass (absurd · (by decide))).trans ((x_bind_ok hx).trans ((x_check_pass (absurd · (by decide))).trans ?_))
  by_cases normal : mt = 0
  · rw [if_pos normal, if_pos normal]
    exact x_bind_ok (xMod_eq _ t)
  · rw [if_neg normal, if_neg normal]
    rfl

end

/-! ## Operands -/

section
variable {c : CtxId} {t : State} {r : BitVec 5} {v : Cell}

theorem xDispAdr_ok {n : Nat} {d : BitVec n} {va : VAddr} {k : Acc} (ha : ea (getCtx t c) r d.toInt = some va) :
    xDispAdr c r d k t = .ok va t := by
  obtain ⟨a, hv, ok, adr⟩ := ea_eq_some.mp ha
  rw [xDispAdr, x_bind_ok (xAdr_ok hv ok), xEa_ok (d := dispInt d) adr]

/-- A check that is made and fails ends the body. -/
theorem x_check_fails {β : Type} {p : Prop} [Decidable p] {check : X Unit} {rest : Unit → X β} {s : State} {e : Err} (made : p)
    (h : check s = .error e s) : (if p then check >>= rest else rest ()) s = .error e s := by
  rw [if_pos made, x_bind_error h]

/-- An operand that is no address raises an exception and changes nothing (R149, R180). -/
theorem xAdr_raises (hv : opnd (getCtx t c) r = some v) (bad : adrOk v = false) : ∃ e, xAdr c r t = .error (.exc e) t := by
  by_cases unset : cTyp v = tUNSET
  · exact ⟨_, x_bind_error ((x_bind_ok (wRead_opnd hv)).trans (x_bind_error (chkUnset_fails 0 unset)))⟩
  by_cases malformed : badCell v = true
  · have fault : xOne c r t = .error (.exc { code := 0x11, disp := some (2, cTyp v, 0) }) t :=
      (x_bind_ok (wRead_opnd hv)).trans ((x_bind_ok (chkUnset_pass 0 t unset)).trans (x_check_fails malformed rfl))
    exact ⟨_, x_bind_error fault⟩
  have read := xOne_opnd hv unset (Bool.eq_false_iff.mpr malformed)
  by_cases extp : cTyp v = tEXTP
  · have trap : xAdr c r t = .error (.exc { code := 0x12, disp := some (0, cTyp v, 0) }) t :=
      (x_bind_ok read).trans (x_check_fails extp rfl)
    exact ⟨_, trap⟩
  · refine ⟨{ code := 0x11, disp := some (2, cTyp v, 0) }, (x_bind_ok read).trans ((x_check_pass (absurd · extp)).trans ?_)⟩
    rw [adrOk, Bool.eq_false_iff.mpr malformed, decide_eq_true (show cTyp v ≠ tEXTP from extp), Bool.and_true, Bool.not_false, Bool.true_and] at bad
    rw [if_neg (Bool.eq_false_iff.mp bad)]
    rfl

theorem xQuiet_ok {α : Type} {m : X α} {a : α} {s : State} (h : m t = .ok a s) : xQuiet m t = .ok (some a) s := by
  rw [xQuiet, h]

theorem xQuiet_raises {α : Type} {m : X α} {e : Exc} {s : State} (h : m t = .error (.exc e) s) : xQuiet m t = .ok none s := by
  rw [xQuiet, h]

end

/-! ## The instructions -/

section
variable {h : Hd} {w : BitVec 48} {s t u b : State} {pa : PAddr} {mt : Nat} {va : VAddr}

theorem exec_zline {f : FM} (ok : Takes (.zline h f) h w s) (start : slotStart h.ctx s = t) (ha : ea (getCtx t h.ctx) f.adr f.disp.toInt = some va)
    (hx : xlateNormal h.ctx (getCtx t h.ctx).level false (vMk (vSeg va) (vOff va / 8 * 8)) .write t = .ok pa u)
    (room : sbPutAll h.ctx [{ ctx := h.ctx, sbar := (getCtx u h.ctx).sbars, kind := .zline (lineOf pa) }] u = ([], b)) :
    exec (.zline h f) s = .next (slotDone h.ctx .seq b) := by
  subst start
  obtain ⟨_, hw, hi⟩ := ok
  cases hw
  exact issueOut_done hi ((x_bind_ok (xDispAdr_ok ha)).trans (xMemOp_ok (memBasic_zline hx room)))

theorem exec_clean {f : FM} (ok : Takes (.clean h f) h w s) (start : slotStart h.ctx s = t) (ha : ea (getCtx t h.ctx) f.adr f.disp.toInt = some va)
    (hx : xlate h.ctx (getCtx t h.ctx).level false va .read t = .ok (pa, mt) u) (free : mt = 0 → heldAny u (lineOf pa) = false) :
    exec (.clean h f) s = .next (slotDone h.ctx .seq (if mt = 0 ∧ (getSk u (getCtx t h.ctx).skein).dstate ≠ 2 then
      cleanLine (lineOf pa) false (noted h.ctx (lineOf pa) u) else u)) := by
  subst start
  obtain ⟨_, hw, hi⟩ := ok
  cases hw
  exact issueOut_done hi ((x_bind_ok (xDispAdr_ok ha)).trans (xMemOp_ok (memBasic_clean hx fun n => ⟨free n, nofun⟩)))

theorem exec_flush {f : FM} (ok : Takes (.flush h f) h w s) (start : slotStart h.ctx s = t) (ha : ea (getCtx t h.ctx) f.adr f.disp.toInt = some va)
    (hx : xlate h.ctx (getCtx t h.ctx).level false va .read t = .ok (pa, mt) u)
    (free : mt = 0 → heldAny u (lineOf pa) = false ∧ lineHeld (some (ctxSp (getCtx t h.ctx))) (lineOf pa) u = false) :
    exec (.flush h f) s = .next (slotDone h.ctx .seq (if mt = 0 ∧ (getSk u (getCtx t h.ctx).skein).dstate ≠ 2 then
      cleanLine (lineOf pa) true (noted h.ctx (lineOf pa) u) else u)) := by
  subst start
  obtain ⟨_, hw, hi⟩ := ok
  cases hw
  exact issueOut_done hi ((x_bind_ok (xDispAdr_ok ha)).trans (xMemOp_ok (memBasic_clean hx fun n => (free n).imp_right fun lr _ => lr)))

/-- PREF of an address performs what its translation allows (R403, R426). -/
theorem exec_pref {f : FM} (ok : Takes (.pref h f) h w s) (start : slotStart h.ctx s = t) (ha : ea (getCtx t h.ctx) f.adr f.disp.toInt = some va) :
    exec (.pref h f) s = .next (slotDone h.ctx .seq (match prefXlate h.ctx (getCtx t h.ctx).level va t with
      | (some pa, u) => prefFill h.ctx (lineOf pa) u
      | (none, u) => u)) := by
  subst start
  obtain ⟨_, hw, hi⟩ := ok
  cases hw
  obtain ⟨a, hv, adr, next⟩ := ea_eq_some.mp ha
  refine issueOut_done hi ((x_bind_ok (xQuiet_ok (xAdr_ok hv adr))).trans ((x_bind_ok (xCtx_eq ..)).trans ?_))
  rw [show (Option.bind (some a) fun v => vAdd (cDat v) (dispInt f.disp)) = some va from next]
  exact x_bind_ok (xMod_eq ..)

/-- PREF of an operand that fails a check only takes its slot (R403). -/
theorem exec_pref_dropped {f : FM} {v : Cell} (ok : Takes (.pref h f) h w s) (start : slotStart h.ctx s = t)
    (hv : opnd (getCtx t h.ctx) f.adr = some v) (fails : adrOk v = false ∨ vAdd (cDat v) f.disp.toInt = none) :
    exec (.pref h f) s = .next (slotResult h.ctx .seq [] t) := by
  subst start
  obtain ⟨_, hw, hi⟩ := ok
  cases hw
  refine issueOut_runs hi ?_ rfl rfl rfl
  by_cases adr : adrOk v = true
  · refine (x_bind_ok (xQuiet_ok (xAdr_ok hv adr))).trans ((x_bind_ok (xCtx_eq ..)).trans ?_)
    rw [show (Option.bind (some v) fun v => vAdd (cDat v) (dispInt f.disp)) = none from fails.resolve_left (by simp [adr])]
    rfl
  · obtain ⟨e, raises⟩ := xAdr_raises hv (Bool.eq_false_iff.mpr adr)
    exact (x_bind_ok (xQuiet_raises raises)).trans (x_bind_ok (xCtx_eq ..))

/-- INVAL of all lines, whose broadcast finds IBUSY 0 (R427, R428). -/
theorem exec_inval_all {f : FA} {n : Datum} (ok : Takes (.inval h f) h w s) (start : slotStart h.ctx s = t)
    (hn : fixOpnd (getCtx t h.ctx) f.sb = some n) (zero : f.sa = 0) (nil : opnd (getCtx t h.ctx) 0 = some nilCell)
    {bcast : Bool} (defined : n.toNat ≤ 3) (all : bitN n.toNat 0 = true)
    (bit : bitN n.toNat 1 = bcast) (free : bcast = true → (getSp t (ctxSp (getCtx t h.ctx))).ibusy = []) :
    exec (.inval h f) s = .next (slotDone h.ctx .seq (doInval h.ctx none bcast t)) := by
  subst start bit
  obtain ⟨_, hw, hi⟩ := ok
  cases hw
  obtain ⟨b, hb, fix, rfl⟩ := fixOpnd_eq_some.mp hn
  refine issueOut_done hi ((x_bind_ok (wRead_opnd (zero ▸ nil))).trans ((x_bind_ok (wRead_opnd hb)).trans ?_))
  refine (x_check_pass (absurd zero)).trans ((x_bind_ok (chkUnset_pass 1 _ (by simp [fix]))).trans ?_)
  refine (x_check_pass (absurd · (by simp [badCell_fix fix, fix]))).trans ?_
  refine (x_check_pass (absurd · fun bad => bad.elim (Nat.not_lt.mpr defined) fun ⟨_, adr⟩ => adr zero)).trans ?_
  rw [if_pos all]
  refine (x_bind_ok (x_get _)).trans ((x_check_pass (absurd · ?idle)).trans (x_bind_ok (xMod_eq ..)))
  case idle =>
    rw [Bool.and_eq_true]
    rintro ⟨bcast, busy⟩
    rw [spOf, free bcast] at busy
    exact Bool.false_ne_true busy

/-- INVAL of the line of an address, whose broadcast finds IBUSY 0 (R427, R428). -/
theorem exec_inval_line {f : FA} {n : Datum} {a : Cell} (ok : Takes (.inval h f) h w s) (start : slotStart h.ctx s = t)
    (hn : fixOpnd (getCtx t h.ctx) f.sb = some n) (ha : opnd (getCtx t h.ctx) f.sa = some a) (adr : adrOk a = true)
    {bcast : Bool} (defined : n.toNat ≤ 3) (one : bitN n.toNat 0 = false)
    (bit : bitN n.toNat 1 = bcast) (free : bcast = true → (getSp t (ctxSp (getCtx t h.ctx))).ibusy = [])
    (hx : xlate h.ctx (getCtx t h.ctx).level false (cDat a) .read t = .ok (pa, mt) u) :
    exec (.inval h f) s = .next (slotDone h.ctx .seq (if mt = 0 then doInval h.ctx (some (lineOf pa)) bcast u else u)) := by
  subst start bit
  obtain ⟨_, hw, hi⟩ := ok
  cases hw
  obtain ⟨b, hb, fix, rfl⟩ := fixOpnd_eq_some.mp hn
  obtain ⟨wf, set, extp, ptr⟩ := adrOk_spec adr
  have notAll := Bool.eq_false_iff.mp one
  refine issueOut_done hi ((x_bind_ok (wRead_opnd ha)).trans ((x_bind_ok (wRead_opnd hb)).trans ?_))
  refine (x_check_pass fun _ => chkUnset_pass 0 _ set).trans ((x_bind_ok (chkUnset_pass 1 _ (by simp [fix]))).trans ?_)
  refine (x_check_pass (absurd · (by simp [badCell_fix fix, fix]))).trans ?_
  refine (x_check_pass (absurd · fun bad => bad.elim (Nat.not_lt.mpr defined) fun ⟨all, _⟩ => notAll all)).trans ?_
  rw [if_neg notAll]
  refine (x_check_pass (absurd · (Bool.eq_false_iff.mp wf))).trans ((x_check_pass (absurd · extp)).trans ?_)
  refine (x_check_pass (absurd · ?address)).trans (xMemOp_ok (memBasic_inval free hx))
  case address =>
    rw [ptr]
    decide

end

/-- Settles O28: the operands of each instruction pass their checks, or PREF drops them, and its memory phase is served in the slot. -/
theorem cacheInstructionsAct : Obligations.CacheInstructionsAct := by
  refine ⟨fun h f w s va ha => ⟨fun u b pa ok => exec_zline ok rfl ha, fun u pa mt ok => exec_clean ok rfl ha,
    fun u pa mt ok => exec_flush ok rfl ha, fun u pa ok hp => ?fills, fun u ok hp => ?passesOver⟩,
    fun h f w s v ok => exec_pref_dropped ok rfl, fun h f w s n ok hn => ⟨fun zero nil free => ?all, fun a u pa mt ha adr free => ?line⟩⟩
  case fills => rw [exec_pref ok rfl ha, hp]
  case passesOver => rw [exec_pref ok rfl ha, hp]
  case all =>
    rcases free with rfl | ⟨rfl, idle⟩
    · exact exec_inval_all ok rfl hn zero nil (by decide) (by decide) (by decide) (absurd · (by decide))
    · exact exec_inval_all ok rfl hn zero nil (by decide) (by decide) (by decide) fun _ => idle
  case line =>
    rcases free with rfl | ⟨rfl, idle⟩
    · exact exec_inval_line ok rfl hn ha adr (by decide) (by decide) (by decide) (absurd · (by decide))
    · exact exec_inval_line ok rfl hn ha adr (by decide) (by decide) (by decide) fun _ => idle

end Sys2Proof.Proofs

/-! SUPPORT. Slow paths, HOST completions and accepted victims (R44, R421, R444, R476, R477, R494, R495): what the next step of each of them does. -/

namespace Sys2Proof.Proofs

open Sys2Proof.Machine Sys2Proof.Expected Sys2Proof.Laws

/-! ## Slow paths (R494, R495) -/

/-- A routine with no record to take up goes on: its unit has started, with the good colour as it was then (R251, R253). -/
def slowBegun (k : SkId) (u : BitVec 2) (c : CtxId) (s : State) : State :=
  updUnit k u (fun z => { z with started := true, good := if z.started then z.good else goodOf s c }) s

/-- A slow path delivers its healed cell, and its unit is free. -/
def slowDone (k : SkId) (u : BitVec 2) (r : TwReq) (y : Cell) (s : State) : State :=
  finishCtx r (some y) (deliverBy r.ctx (wordPred y true) (setUnit k u (unitFree (getUnit s k u)) s))

section
variable {k : SkId} {u : BitVec 2} {r : TwReq} {x y : Cell} {fv : Option VAddr} {s t t1 t2 t3 : State}

theorem takeRecord_none (w : BitVec 144) (fresh : (getUnit s k u).restore = none) : takeRecord k u r w s = .ok () (slowBegun k u r.ctx s) := by
  rw [takeRecord, x_bind_ok (x_get s), fresh]
  rfl

/-- With no granule claimed, a slow path ends in one step. -/
theorem slowEnd_whole (unclaimed : (getUnit t k u).claim = none) (heals : xSlow r.ctx k r.level (spaceTag (getCtx t r.ctx)) x fv t = .ok y t2) :
    slowEnd k u r x fv t = .ok () (slowDone k u r y t2) := by
  rw [slowEnd, x_bind_ok (x_get t), unclaimed]
  exact (x_bind_ok heals).trans (xMod_eq _ t2)

/-- The path that holds a claim copies the granule, and recolours and heals (R495). -/
theorem slowEnd_claimed {cl : Claim} {e d : Datum} (claimed : (getUnit s k u).claim = some cl) (entry : xTable r.ctx k 1 cl.ent s = .ok e t1)
    (copy : xCopy r.ctx k (spaceTag (getCtx s r.ctx)) x cl.src cl.srcP cl.ent cl.dstP e t1 = .ok d t2)
    (heals : xRecolour r.ctx k (spaceTag (getCtx s r.ctx)) x fv cl.field d t2 = .ok y t3) :
    slowEnd k u r x fv s = .ok () (slowDone k u r y t3) := by
  have path : (do
      let e ← xTable r.ctx k 1 cl.ent
      let d ← xCopy r.ctx k (spaceTag (getCtx s r.ctx)) x cl.src cl.srcP cl.ent cl.dstP e
      xRecolour r.ctx k (spaceTag (getCtx s r.ctx)) x fv cl.field d) s = .ok y t3 :=
    (x_bind_ok entry).trans ((x_bind_ok copy).trans heals)
  rw [slowEnd, x_bind_ok (x_get s), claimed]
  exact (x_bind_ok path).trans (xMod_eq _ t3)

theorem claim_slowBegun : (getUnit (slowBegun k u r.ctx s) k u).claim = (getUnit s k u).claim := by
  rw [slowBegun, getUnit_updUnit]

section
variable (fresh : (getUnit s k u).restore = none)
include fresh

theorem slowStep_claimed {cl : Claim} (claimed : (getUnit s k u).claim = some cl)
    (ends : slowEnd k u r x fv (slowBegun k u r.ctx s) = .ok () t) : slowStep k u r x fv s = .ok () t := by
  rw [slowStep, x_bind_ok (x_get s), x_bind_ok (takeRecord_none _ fresh), x_bind_ok (x_get _), claim_slowBegun, claimed]
  exact ends

theorem slowStep_unclaimed {p : Option Claim} (unclaimed : (getUnit s k u).claim = none)
    (finds : slowClaim k r x fv (slowBegun k u r.ctx s) = .ok p t1)
    (ends : (match p with
      | some p => xMod (updUnit k u fun z => { z with claim := some p, gwait := false })
      | none => slowEnd k u r x fv) t1 = .ok () t) : slowStep k u r x fv s = .ok () t := by
  rw [slowStep, x_bind_ok (x_get s), x_bind_ok (takeRecord_none _ fresh), x_bind_ok (x_get _), claim_slowBegun, unclaimed]
  refine (x_bind_ok finds).trans ?_
  cases p <;> exact ends

end

/-- A slow path that nothing holds takes its next step. -/
theorem slowRun_step (req : (getUnit s k u).req = some r) (kind : r.kind = .slow x fv) (free : twHeld s r = false)
    (sound : (getUnit s k u).fault = none) (step : slowStep k u r x fv s = .ok () t) : slowRun k u s = t := by
  simp only [slowRun, req, kind, free, sound, step]
  rfl

theorem exec_granuleWait : exec (.granuleWait k u) s = .next (if (getUnit s k u).gwait then slowRun k u s else s) := rfl

end

/-! ## HOST requests (R44, R444, R476, R477) -/

section
variable {c : CtxId} {va : VAddr} {pa : PAddr} {v : Cell} {s t : State}

/-- A HOST request ended at a dead target: its flag in the spindle, event 0x18, UNSET for the load (R477). -/
def hostDied (c : CtxId) (s : State) : State :=
  hostNext (parkRun c (hostValue c unsetCell
    (logEvent 0x18 3 37 0 (some c) none 0 (updSp (spOf s c) (fun p => { p with moCtx := c, moFlags := setBit p.moFlags 2 true }) s))))

theorem hostDead_load (load : parksForFbar (getCtx s c) = false) : hostNext (parkRun c (hostDead c s)) = hostDied c s := by
  simp only [hostDead, load]
  rfl

/-- The value of a HOST request is kept with its address. -/
theorem hostValue_of_request (req : (getCtx s c).hostReq = some (va, pa)) :
    hostValue c v s = updCtx c (fun x =>
      { x with hostReq := none, hostSent := false, ioVals := x.ioVals ++ [{ va := va, pa := pa, mt := 2, v := v }] }) s := by
  simp only [hostValue, updCtx, req]

theorem exec_hostCompletion {r : HostEnd} (req : (getCtx s c).hostReq = some (va, pa)) (sent : (getCtx s c).hostSent = true) :
    exec (.hostCompletion c r) s = .next (hostNext (hostEnd c va pa r (reach hostSector (getCtx s c).skein s))) := by
  change execHostCompletion c r s = _
  simp only [execHostCompletion, req, sent]
  rfl

theorem hostEnd_value (req : (getCtx s c).hostReq = some (va, pa)) (load : parksForFbar (getCtx s c) = false) (sound : verify v = some (v, false)) :
    hostEnd c va pa (.success v) s = parkRun c (updCtx c (fun x =>
      { x with hostReq := none, hostSent := false, ioVals := x.ioVals ++ [{ va := va, pa := pa, mt := 2, v := v }] }) s) := by
  simp only [hostEnd, load, sound, ← hostValue_of_request req]
  rfl

theorem hostEnd_uncorrectable (load : parksForFbar (getCtx s c) = false) (lost : verify v = none) :
    hostEnd c va pa (.success v) s = hostBad c va (logEvent 0x0F 3 37 0 (some c) (some pa.toNat) (syndrome v).toNat s) := by
  simp only [hostEnd, load, lost]
  rfl

theorem exec_completionTimeout (req : (getCtx s c).hostReq.isSome = true) (sent : (getCtx s c).hostSent = true) :
    exec (.completionTimeout c) s =
      .next (if (getCtx s c).hostDue ≤ s.m.clock then hostNext (parkRun c (hostDead c s)) else s) := by
  change execCompletionTimeout c s = _
  simp only [execCompletionTimeout, req, sent, Bool.true_and, decide_eq_true_eq]

end

/-! ## Victims (R413, R421) -/

section
variable {k : SkId} {ln : Nat} {h : HeldFill} {s : State}

theorem exec_victimAccepted (found : ((getSk s k).held.find? fun h => h.ln = ln) = some h) :
    exec (.victimAccepted k ln) s = .next (if wqFull h.victim s then s else fillLand k h s) := by
  change execVictimAccepted k ln s = _
  rw [execVictimAccepted, found]

theorem wqFull_iff {v : Nat} : wqFull v s = true ↔ 64 ≤ (mapGet [] s.wq (chanOf v)).length := by
  rw [wqFull, decide_eq_true_eq]

end

/-- Settles O39: each of the commands has one branch that the conditions of a clause choose, and a slow path's step is a chain of bodies whose
answers the clause gives. -/
theorem slowPathsAndCompletionsGoOn : Obligations.SlowPathsAndCompletionsGoOn := by
  refine ⟨fun k u r x fv s req kind free sound fresh => ?slow, fun c va pa v s req sent load => ?host, fun k ln h s found => ?victim⟩
  case slow =>
    have run {t : State} (step : slowStep k u r x fv s = .ok () t) : exec (.loadBarrierSlowPath k u) s = .next t :=
      congrArg Host.Outcome.next (slowRun_step req kind free sound step)
    refine ⟨fun y t t2 unclaimed finds unclaimed' heals => ?_, fun p t unclaimed finds => ?_,
      fun cl e d y t1 t2 t3 claimed entry copy heals => ?_, fun waits => ?_, fun goes => ?_⟩
    · exact run (slowStep_unclaimed fresh unclaimed finds (slowEnd_whole unclaimed' heals))
    · exact run (slowStep_unclaimed fresh unclaimed finds (xMod_eq _ t))
    · exact run (slowStep_claimed fresh claimed (slowEnd_claimed (claim_slowBegun.trans claimed) entry copy heals))
    · rw [exec_granuleWait, waits]
      rfl
    · rw [exec_granuleWait, goes]
      rfl
  case host =>
    have arrived : getCtx (reach hostSector (getCtx s c).skein s) c = getCtx s c := getCtx_reach ..
    have load' := (congrArg parksForFbar arrived).trans load
    have req' := (congrArg Ctx.hostReq arrived).trans req
    refine ⟨fun ok => ?_, fun lost => ?_, ?_, fun due => ?_, fun early => ?_⟩
    · rw [exec_hostCompletion req sent, hostEnd_value req' load' ok]
    · rw [exec_hostCompletion req sent, hostEnd_uncorrectable load' lost]
    · exact (exec_hostCompletion req sent).trans (congrArg Host.Outcome.next (hostDead_load load'))
    · rw [exec_completionTimeout (by rw [req]; rfl) sent, if_pos due, hostDead_load load]
      rfl
    · rw [exec_completionTimeout (by rw [req]; rfl) sent, if_neg (Nat.not_le.mpr early)]
  case victim =>
    obtain rfl : h.ln = ln := by simpa using List.find?_some found
    refine ⟨fun room => ?_, fun full => ?_⟩
    · rw [exec_victimAccepted found, if_neg (mt wqFull_iff.mp (Nat.not_le.mpr room))]
      rfl
    · rw [exec_victimAccepted found, if_pos (wqFull_iff.mpr full)]

end Sys2Proof.Proofs

/-! SUPPORT. The power of the skein caches, and the scrubber (R440 to R442, R595, R708). -/

namespace Sys2Proof.Proofs

open Sys2Proof.Machine Sys2Proof.Expected Sys2Proof.Laws

/-! ## Ways and whole caches (R440 to R442) -/

section
variable {k : SkId} {s : State}

theorem exec_wayPowerDown {w : Nat} (next : wayDown k s = some w) (idle : (getSk s k).held.any (fun h => h.idx = w) = false) :
    exec (.wayPowerDown k) s = .next (updSk k (fun x => { x with pwrOff := setBit x.pwrOff w true }) (wayClean k w s)) := by
  change execWayPowerDown k s = _
  simp only [execWayPowerDown, next, idle]
  rfl

theorem exec_wayPowerUp {w : BitVec 4} (on : (getSk s k).dstate = 0) :
    exec (.wayPowerUp k w) s = .next (updSk k (fun x => { x with pwrOff := setBit x.pwrOff w.toNat false }) s) :=
  congrArg Host.Outcome.next (if_neg (not_not_intro on))

/-- What a host write of SCCTL says of DIS and HMASK (R439). -/
theorem scctl_fields (hm : BitVec 16) :
    ((0x800000000000 ||| hm.setWidth 48 : Datum).getLsbD 47 = true ∧ (0x800000000000 ||| hm.setWidth 48 : Datum).extractLsb' 0 16 = hm) ∧
      ((hm.setWidth 48 : Datum).getLsbD 47 = false ∧ (hm.setWidth 48 : Datum).extractLsb' 0 16 = hm) := by
  have low : (0x800000000000 : Datum).extractLsb' 0 16 = 0#16 := by decide
  have mask : (hm.setWidth 48 : Datum).extractLsb' 0 16 = hm := by
    rw [← BitVec.setWidth_eq_extractLsb' (by decide), BitVec.setWidth_setWidth_of_le _ (by decide), BitVec.setWidth_eq]
  refine ⟨⟨by simp, ?_⟩, by simp, mask⟩
  rw [BitVec.extractLsb'_or, low, mask, BitVec.zero_or]

/-- The host's write of SCCTL of a skein, as it reaches its HMASK (R441). -/
def hmaskSet (k : SkId) (hm : BitVec 16) (s : State) : State := updSk k (fun x => { x with hmask := hm }) (reach hostSector k s)

theorem exec_disSet {hm : BitVec 16} (ok : served s = true) : exec (.disSet k hm) s = .next (skDis k true (hmaskSet k hm s)) := by
  obtain ⟨⟨dis, mask⟩, -⟩ := scctl_fields hm
  refine congrArg Host.Outcome.next ((hostWr_served ok).trans ?_)
  rw [scWrite, if_pos rfl, dis, mask, hmaskSet]

theorem exec_disClear {hm : BitVec 16} (ok : served s = true) : exec (.disClear k hm) s = .next (skDis k false (hmaskSet k hm s)) := by
  obtain ⟨-, dis, mask⟩ := scctl_fields hm
  refine congrArg Host.Outcome.next ((hostWr_served ok).trans ?_)
  rw [scWrite, if_pos rfl, dis, mask, hmaskSet]

theorem skDis_begins (on : (getSk s k).dstate = 0) : skDis k true s = updSk k (fun x => { x with dis := true, dstate := 1 }) s :=
  if_pos ⟨rfl, on⟩

theorem skDis_ends (off : (getSk s k).dstate = 2) :
    skDis k false s = updSk k (fun x => { x with dis := false, dstate := 3, pwrOff := 0xFFFF }) s := by
  rw [skDis, if_neg (by simp), if_pos ⟨rfl, off⟩]

theorem skPhase_disabled (phase : (getSk s k).dstate = 1) (idle : (getSk s k).held = []) :
    skPhase k s = updSk k (fun x => { x with dstate := 2, pwrOff := 0xFFFF }) (skCleanAll k s) :=
  if_pos ⟨phase, by rw [idle]; rfl⟩

theorem skPhase_enabled (phase : (getSk s k).dstate = 3) : skPhase k s = updSk k (fun x => { x with dstate := 0, pwrOff := 0 }) s :=
  (if_neg (by simp [phase])).trans (if_pos phase)

end

/-! ## The scrubber (R595, R708) -/

/-- A fold that keeps the state it begins in. -/
theorem foldl_keeps {α β : Type} (f : β → α → β) (b : β) (l : List α) (h : ∀ e ∈ l, f b e = b) : l.foldl f b = b := by
  induction l with
  | nil => rfl
  | cons a l ih => rw [List.foldl_cons, h a (List.mem_cons_self ..), ih fun e he => h e (List.mem_cons_of_mem _ he)]

/-- A burst with two wrong symbols of two devices, or of two pairs of beats of one device wider than x4, is uncorrectable (R595). -/
theorem dramEcc_two {width : Nat} {x y : BitVec 8 × BitVec 3} (far : x.1 ≠ y.1 ∨ (width ≠ 4 ∧ x.2 ≠ y.2)) :
    dramEcc width [x, y] = some none := by
  refine if_neg fun near => ?_
  simp only [List.all_cons, List.all_nil, Bool.and_true, decide_eq_true_eq] at near
  obtain ⟨dev, beats⟩ := near
  rcases far with other | ⟨wide, pairs⟩
  · exact other dev.symm
  · exact pairs (beats.resolve_left wide).symm

/-- The line that the scrubber reads next, and its cells. -/
def scrubCells (s : State) : List PAddr := (upto 8).map fun i => paOf (8 * (s.m.scrub % (s.dram / 8)) + i)

/-- The scrubber goes on from a line, and from the last one begins again. -/
def scrubOn (ln : Nat) (t : State) : State := updM (fun m =>
  { m with scrub := if ln + 1 ≥ t.dram / 8 then 0 else ln + 1, scrubFast := m.scrubFast && !decide (ln + 1 ≥ t.dram / 8) }) t

/-- The wrong bits of a cell's array code in DRAM (R708). -/
def scrubBits (s : State) (a : PAddr) : Nat := if arrTarget s a = 0 then weight (arrBits s a) else 0

/-- A cell that the scrubber cannot correct: by its array code, or, where it is not poisoned, by its check code (R708). -/
def scrubLost (s : State) (a : PAddr) : Bool :=
  decide (1 < scrubBits s a) || (!mapGet false s.poisoned a.toNat && (verify (cellAt s a)).isNone)

/-- The scrubber corrects a cell of a line, where it is wrong, by its array code as the pass found it and by its check code (R708). -/
def scrubCell (found : State) (ln : Nat) (s : State) (a : PAddr) : State :=
  let s := if scrubBits found a = 1 then
      logEvent 0x0B 0 36 (192 + chanOf ln) none (some a.toNat) 0 (clearRes ln none { s with arrErr := mapSet 0 s.arrErr a.toNat 0 })
    else s
  match verify (cellAt s a) with
  | some (v, true) =>
    logEvent 0x0B 0 36 (192 + chanOf ln) none (some a.toNat) (syndrome (cellAt s a)).toNat (clearRes ln none (putRaw a v s))
  | _ => s

/-- A line that cannot be corrected is poisoned and logged (R708). -/
def scrubPoison (ln : Nat) (s : State) : State :=
  logEvent 0x0C 3 36 (192 + chanOf ln) none (some (8 * ln)) 0
    { s with poisoned := (scrubCells s).foldl (fun m a => mapSet false m a.toNat true) s.poisoned }

section
variable {s : State} {dev : BitVec 8} {l : List (BitVec 8 × BitVec 3)} (up : s.mode ≠ .bringup) (awake : s.mode ≠ .sleep) (dram : s.dram ≠ 0)
  (burst : (dramAt s (s.m.scrub % (s.dram / 8))).syms = [])
include up awake dram burst

/-- A line of whose burst nothing is corrected is poisoned, or corrected cell by cell. -/
theorem exec_scrubLine (code : dramEcc s.m.dimms.width l = none ∨ dramEcc s.m.dimms.width l = some none) :
    exec (.scrubLine l dev) s = .next (scrubOn (s.m.scrub % (s.dram / 8))
      (if decide (dramEcc s.m.dimms.width l = some none) || (scrubCells s).any (scrubLost s) then scrubPoison (s.m.scrub % (s.dram / 8)) s
      else (scrubCells s).foldl (scrubCell s (s.m.scrub % (s.dram / 8))) s)) := by
  have runs : ¬(s.mode = .bringup ∨ s.mode = .sleep ∨ s.dram = 0) := by simp [up, awake, dram]
  refine congrArg Host.Outcome.next ((if_neg runs).trans ?_)
  have fixed : dramFix (s.m.scrub % (s.dram / 8)) s = s := by rw [dramFix, burst]; rfl
  simp only [burst, fixed, List.append_nil, scrubOn, decide_eq_true_eq]
  rcases code with e | e <;> rw [e] <;> rfl

/-- A line with nothing wrong. -/
theorem exec_scrubLine_clean
    (sound : ∀ a ∈ scrubCells s, mapGet 0 s.arrErr a.toNat = 0 ∧ ∃ v, verify (cellAt s a) = some (v, false)) :
    exec (.scrubLine [] dev) s = .next (scrubOn (s.m.scrub % (s.dram / 8)) s) := by
  have bits : ∀ a ∈ scrubCells s, scrubBits s a = 0 := fun a ha => by
    rw [scrubBits, arrBits, (sound a ha).1]
    exact ite_self _
  have kept : ∀ a ∈ scrubCells s, scrubLost s a = false := fun a ha => by
    obtain ⟨v, ok⟩ := (sound a ha).2
    rw [scrubLost, bits a ha, ok]
    simp
  have idle : ∀ a ∈ scrubCells s, scrubCell s (s.m.scrub % (s.dram / 8)) s a = s := fun a ha => by
    obtain ⟨v, ok⟩ := (sound a ha).2
    simp only [scrubCell, bits a ha, Nat.zero_ne_one, if_false, ok]
  have none_lost : (scrubCells s).any (scrubLost s) = false := by simpa using kept
  rw [exec_scrubLine up awake dram burst (.inl rfl), none_lost, foldl_keeps _ _ _ idle]
  rfl

/-- A line whose burst is uncorrectable. -/
theorem exec_scrubLine_lost (lost : dramEcc s.m.dimms.width l = some none) :
    exec (.scrubLine l dev) s = .next (scrubOn (s.m.scrub % (s.dram / 8)) (scrubPoison (s.m.scrub % (s.dram / 8)) s)) := by
  rw [exec_scrubLine up awake dram burst (.inr lost), decide_eq_true lost, Bool.true_or, if_pos rfl]

end

/-- Settles O41: a write of SCCTL reaches its skein and begins what DIS asks for, and the scrubber's next line is sound cell by cell, or its burst is
uncorrectable. -/
theorem cachesArePoweredDisabledAndScrubbed : Obligations.CachesArePoweredDisabledAndScrubbed := by
  refine ⟨fun k w s => exec_wayPowerDown, fun k w s => exec_wayPowerUp, fun k hm s ok => ⟨fun on => ?begins, fun off => ?ends⟩,
    fun k s => ⟨skPhase_disabled, skPhase_enabled⟩, fun s up awake dram burst => ⟨fun dev sound => ?clean, fun dev x y far => ?lost⟩⟩
  case begins => exact (exec_disSet ok).trans (congrArg Host.Outcome.next (skDis_begins on))
  case ends => exact (exec_disClear ok).trans (congrArg Host.Outcome.next (skDis_ends off))
  case clean => exact exec_scrubLine_clean up awake dram burst sound
  case lost => exact exec_scrubLine_lost up awake dram burst (dramEcc_two far)

end Sys2Proof.Proofs

/-! SUPPORT. What failures leave behind (R710 to R718): the spares, the numbers out of service, the fuses and the count of restarts, which no access
of a line, no record and no move changes. -/

namespace Sys2Proof.Proofs

open Sys2Proof.Machine Sys2Proof.Expected Sys2Proof.Laws

/-- The number that the spare of a skein serves, and its numbers out of service. -/
def positions (x : Skein) : Option (BitVec 4) × BitVec 16 := (x.spareFor, x.outOf)

/-- What is left of failures: the positions of every skein, the fuses, and the count of fatal-error restarts (R714, R716). -/
@[irreducible] def service (s : State) : (SkId → Option (BitVec 4) × BitVec 16) × Fuses × Nat :=
  (fun k => positions (getSk s k), s.m.fuses, mapGet 0 s.counters 0x29)

section
variable {r : (SkId → Option (BitVec 4) × BitVec 16) × Fuses × Nat} {s t u : State}

/-! ## Changes of other parts of the state -/

/-- A change of parts that `service` does not read. -/
theorem service_free (h : service u = r) (skeins : t.skeins = u.skeins := by rfl) (fuses : t.m.fuses = u.m.fuses := by rfl)
    (counters : t.counters = u.counters := by rfl) : service t = r := by
  have same (k : SkId) : getSk t k = getSk u k := by rw [getSk, skeins, getSk]
  rw [← h]
  unfold service
  simp only [same, fuses, counters]

theorem service_ite {p : Prop} [Decidable p] (ht : service t = r) (hu : service u = r) : service (if p then t else u) = r := by
  split <;> assumption

theorem service_foldl {α : Type} {f : State → α → State} (hf : ∀ v a, service v = r → service (f v a) = r)
    (l : List α) (h : service u = r) : service (l.foldl f u) = r := by
  induction l generalizing u with
  | nil => exact h
  | cons a l ih => exact ih (hf u a h)

theorem service_updCtx (c : CtxId) (f : Ctx → Ctx) (h : service u = r) : service (updCtx c f u) = r := service_free h

theorem service_updAllCtx (f : CtxId → Ctx → Ctx) (h : service u = r) : service (updAllCtx f u) = r := service_free h

theorem service_updSp (q : SpId) (f : Spindle → Spindle) (h : service u = r) : service (updSp q f u) = r := service_free h

theorem service_updSk (k : SkId) {f : Skein → Skein} (hf : ∀ x, positions (f x) = positions x) (h : service u = r) :
    service (updSk k f u) = r := by
  subst h
  unfold service
  refine congrArg (·, _) (funext fun j => ?_)
  by_cases same : j = k
  · rw [same, getSk_updSk, hf]
  · rw [getSk_updSk_other _ _ same]

theorem positions_skUpd (x : Skein) (n : Nat) (f : SkLine → SkLine) : positions (skUpd x n f) = positions x := by
  unfold skUpd
  split <;> rfl

theorem service_skUpd (k : SkId) (n : Nat) (f : SkLine → SkLine) (h : service u = r) : service (updSk k (fun x => skUpd x n f) u) = r :=
  service_updSk k (fun x => positions_skUpd x n f) h

theorem service_setDirs (d : SMap (List DirEnt)) (h : service u = r) : service { u with dirs := d } = r := service_free h

theorem service_setArrDue (l : List ArrDue) (h : service u = r) : service { u with arrDue := l } = r := service_free h

theorem service_addDue (l : List ArrDue) (h : service u = r) : service (addDue l u) = r := service_setArrDue _ h

theorem service_setPoisoned (m : SMap Bool) (h : service u = r) : service { u with poisoned := m } = r := service_free h

theorem service_poisonLn (n : Nat) (h : service u = r) : service (poisonLn n u) = r := service_setPoisoned _ h

/-! ## The fabric -/

theorem service_fabric (a b : BitVec 2) (h : service u = r) : service (fabric a b u) = r := by
  obtain ⟨f, hf⟩ := fabric_eq_setPwr a b u
  rw [hf]
  exact service_free h

theorem service_wakeSkein (k : SkId) (h : service u = r) : service (wakeSkein k u) = r :=
  service_ite (service_updSk k (fun _ => rfl) (service_fabric _ _ h)) h

theorem service_reach (a : BitVec 2) (k : SkId) (h : service u = r) : service (reach a k u) = r := service_wakeSkein k (service_fabric _ _ h)

theorem service_heard (c : CtxId) (h : service u = r) : service (heard c u) = r :=
  service_ite (service_reach _ _ h) (service_reach _ _ (service_reach _ _ h))

theorem service_lineMsg (k : SkId) (n : Nat) (h : service u = r) : service (lineMsg k n u) = r := service_reach _ k h

/-! ## Lines that leave and lines that are shared -/

theorem service_arrDrop (k : SkId) (n : Nat) (h : service u = r) : service (arrDrop k n u) = r :=
  service_ite h (service_free h)

theorem service_l1Drop (q : SpId) (n : Nat) (h : service u = r) : service (l1Drop q n u) = r := by
  unfold l1Drop
  split
  · exact h
  · exact service_updAllCtx _ (service_skUpd _ n _ (service_updSp _ _ h))

theorem service_l1Drops (k : SkId) (n : Nat) (h : service u = r) :
    service ((upto 16).foldl (fun v l => l1Drop (k ++ BitVec.ofNat 4 l) n v) u) = r :=
  service_foldl (fun _ _ hv => service_l1Drop _ n hv) _ h

theorem service_skDrop (k : SkId) (n : Nat) (h : service u = r) : service (skDrop k n u) = r := by
  unfold skDrop
  dsimp only
  split
  · exact service_setDirs _ (service_skUpd k n _ (service_l1Drops k n (service_lineMsg k n (service_ite h (service_arrDrop k n h)))))
  · exact service_setDirs _ (service_skUpd k n _ (service_l1Drops k n h))

theorem service_recall (g : Nat → Bool) (n : Nat) (h : service u = r) :
    service ((upto 32).foldl (fun v j => if g j then skDrop (BitVec.ofNat 5 j) n v else v) u) = r :=
  service_foldl (fun _ _ hv => service_ite (service_skDrop _ n hv) hv) _ h

theorem service_dirNote (k : SkId) (n : Nat) (m : Bool) (h : service u = r) : service (dirNote k n m u) = r := by
  have asked := service_lineMsg k n h
  unfold dirNote
  dsimp only
  split
  · exact service_free asked
  · split
    · split
      · exact service_free (service_recall _ _ asked)
      · exact service_free asked
    · exact service_free asked

theorem service_l1Clean (k : SkId) (n : Nat) (h : service u = r) : service (l1Clean k n u) = r :=
  service_foldl (fun _ _ hv => service_updSp _ _ hv) _ h

theorem service_skShare (k : SkId) (n : Nat) (h : service u = r) : service (skShare k n u) = r :=
  service_setDirs _ (service_l1Clean k n (service_skUpd k n _ (service_lineMsg k n h)))

/-! ## Lines and their tags read -/

theorem service_skTagFix (k : SkId) (n w : Nat) (h : service u = r) : service (skTagFix k n w u) = r := by
  have out (c : Skein → SMap SkLine) (p : Prop) [Decidable p] (l : Nat) {v : State} (hv : service v = r) :
      service (updSk k (fun x => { x with cache := c x }) (if p then v else skDrop k l v)) = r :=
    service_updSk k (fun _ => rfl) (service_ite hv (service_skDrop k l hv))
  unfold skTagFix
  dsimp only
  split
  · exact service_addDue _ (out _ _ _ (service_ite (service_poisonLn _ h) h))
  · exact service_addDue _ (service_ite (out _ _ _ h) (service_updSk k (fun _ => rfl) h))

theorem service_skTags (k : SkId) (n : Nat) (h : service u = r) : service (skTags k n u) = r :=
  service_foldl (fun _ _ hv => service_ite (service_skTagFix k n _ hv) hv) _ h

theorem service_othersYield (k : SkId) (n : Nat) (o : Bool) (h : service u = r) : service (othersYield k n o u) = r := by
  unfold othersYield
  split
  · exact h
  · refine service_foldl (fun v j hv => ?_) _ h
    have asked (p : Prop) [Decidable p] : service (if p then skTags (BitVec.ofNat 5 j) (skSet n) v else v) = r :=
      service_ite (service_skTags _ _ hv) hv
    have told (p q : Prop) [Decidable p] [Decidable q] (a b : BitVec 2) : service
        (if q then fabric a b (if p then skTags (BitVec.ofNat 5 j) (skSet n) v else v)
          else if p then skTags (BitVec.ofNat 5 j) (skSet n) v else v) = r :=
      service_ite (service_fabric a b (asked p)) (asked p)
    exact service_ite (told ..) (service_ite (service_skDrop _ n (told ..)) (service_skShare _ n (told ..)))

theorem service_dramFix (n : Nat) (h : service u = r) : service (dramFix n u) = r := service_ite h (service_free h)

theorem service_dramRead (n : Nat) (h : service u = r) : service (dramRead n u) = r := by
  have fixed := service_dramFix n h
  unfold dramRead
  dsimp only
  split
  · exact h
  · exact service_updAllCtx _ (service_addDue _ fixed)
  · exact service_ite (service_addDue _ (service_poisonLn n fixed)) (service_addDue _ fixed)

theorem service_dramDemand (n : Nat) (h : service u = r) : service (dramDemand n u) = r := service_ite h (service_dramRead n h)

/-! ## Fills -/

theorem service_skInstall (k : SkId) (w n : Nat) (st : Mesi) (a : BitVec 2) (h : service u = r) : service (skInstall k w n st a u) = r :=
  service_dirNote k n _ (service_updSk k (fun _ => rfl) h)

/-- A fill of a line that the skein holds. -/
theorem service_hit (k : SkId) (n : Nat) (o : Bool) (f : SkLine → SkLine) {p : Prop} [Decidable p] (h : service u = r) :
    let v := updSk k (fun x => skUpd x n f) (if p then othersYield k n true (lineMsg k n u) else u)
    service (if o then dirNote k n true v else l1Clean k n v) = r := by
  have taken := service_skUpd k n f (service_ite (p := p) (service_othersYield k n true (service_lineMsg k n h)) h)
  exact service_ite (service_dirNote k n true taken) (service_l1Clean k n taken)

theorem service_askHeld (k : SkId) (n : Nat) (q : Asker) (h : service u = r) : service (askHeld k n q u) = r := service_updSk k (fun _ => rfl) h

theorem service_skFillIn (k : SkId) (m : BitVec 16) (n : Nat) (o : Bool) (a : BitVec 2) (q : Asker) (h : service u = r) :
    service (skFillIn k m n o a q u).2 = r := by
  have given := service_othersYield k n o (service_lineMsg k n (service_dramDemand n h))
  have victim (p : Prop) [Decidable p] (l : Nat) (c : SMap SkLine) {v : State} (hv : service v = r) :
      service (if p then updSk k (fun x => { x with cache := c }) v else skDrop k l (updSk k (fun x => { x with cache := c }) v)) = r :=
    service_ite (service_updSk k (fun _ => rfl) hv) (service_skDrop k l (service_updSk k (fun _ => rfl) hv))
  unfold skFillIn
  dsimp only
  split
  · split
    · exact h
    · exact service_hit k n o _ h
  · split
    · exact service_askHeld k n q h
    · split
      · exact h
      · split
        · exact service_foldl (fun _ _ hv => service_skDrop _ n hv) _ given
        · split
          · exact given
          · split
            · dsimp only
              exact service_updSk k (fun _ => rfl) (victim _ _ _ given)
            · exact service_skInstall k _ n _ a (victim _ _ _ given)

theorem service_skFill (k : SkId) (m : BitVec 16) (n : Nat) (o : Bool) (a : BitVec 2) (q : Asker) (h : service u = r) :
    service (skFill k m n o a q u).2 = r := service_skFillIn k m n o a q (service_skTags k _ h)

theorem service_heldSettle (k : SkId) (f : HeldFill) (h : service u = r) : service (heldSettle k f u) = r := by
  have room : service (wqRoom f.victim u) = r := service_ite (service_free h) h
  have queued : service (wqPush f.victim (wqRoom f.victim u)) = r := service_free room
  unfold heldSettle heldInstall
  exact service_skUpd k _ _ (service_skInstall k _ _ _ _ (service_updSk k (fun _ => rfl) queued))

theorem service_heldSettleAll (f : SkId → HeldFill → Bool) (h : service u = r) : service (heldSettleAll f u) = r :=
  service_foldl (fun _ _ hv => service_foldl (fun _ _ hw => service_ite (service_heldSettle _ _ hw) hw) _ hv) _ h

theorem service_holdEnd (f : Nat → Bool) (h : service u = r) : service (holdEnd f u) = r := service_ite (service_updAllCtx _ h) h

theorem service_unitTouch (k : SkId) (m : BitVec 16) (n : Nat) (o : Bool) (a : BitVec 2) (h : service u = r) :
    service (unitTouch k m n o a u) = r := by
  unfold unitTouch unitGot
  have filled := service_heldSettleAll (fun j f => decide (j = k) && decide (f.ln = n)) (service_skFill k m n o a .unit
    (service_holdEnd (fun l => (o && decide (l = n)) || (dirVictim (heldSettleAll (fun j f => decide (f.ln = n) ||
      (decide (j = k) && decide (skSet f.ln = skSet n))) u) n).any fun v => decide (v.ln = l))
      (service_heldSettleAll (fun j f => decide (f.ln = n) || (decide (j = k) && decide (skSet f.ln = skSet n))) h)))
  exact service_ite (service_l1Drops k n filled) filled

theorem service_annexTouch (c : CtxId) (k : Nat) (o : Bool) (h : service u = r) : service (annexTouch c k o u) = r := service_unitTouch _ _ _ o 1 h

/-! ## Cells written -/

theorem service_bump {n : Nat} (other : n ≠ 0x29) (h : service u = r) : service (bump n u) = r := by
  subst h
  unfold service bump
  rw [mapGet_mapSet_other 0 _ _ other.symm]
  rfl

theorem service_injArray (o : Option CtxId) (a : PAddr) (x : Cell) (h : service u = r) : service (injArray o a x u) = r :=
  service_ite (service_ite h (service_skUpd _ _ _ h)) (service_ite h (service_free h))

theorem service_putCell (o : Option CtxId) (a : PAddr) (v : Cell) (h : service u = r) : service (putCell o a v u) = r := by
  have marked (p q : Prop) [Decidable p] [Decidable q] {v w : State} (hv : service v = r) (hw : service w = r) :
      service (if p then bump 0x22 v else if q then u else w) = r := service_ite (service_bump (by decide) hv) (service_ite h hw)
  have written (x : Cell) {v : State} (hv : service v = r) : service (clearRes (lineOf a) o { putRaw a x v with
      poisoned := mapSet false (putRaw a x v).poisoned a.toNat false, arrErr := mapSet 0 (putRaw a x v).arrErr a.toNat 0 }) = r :=
    service_updAllCtx _ (service_free hv)
  unfold putCell
  exact service_ite (service_injArray o a _ (written _ (marked _ _ (service_free h) (service_free h))))
    (written _ (marked _ _ (service_free h) (service_free h)))

theorem service_annexPut (c : CtxId) (k : Nat) (v : Cell) (h : service u = r) : service (annexPut c k v u) = r :=
  service_putCell none _ v (service_annexTouch c k true h)

/-! ## Readiness and interrupts -/

theorem service_makeReady (c : CtxId) (h : service u = r) : service (makeReady c u) = r := service_wakeSkein _ (service_free h)

theorem service_wakeCtx (c : CtxId) (n : BitVec 3) (h : service u = r) : service (wakeCtx c n u) = r :=
  service_ite (service_makeReady c (service_updCtx c _ h)) (service_ite (service_updCtx c _ h) (service_ite (service_updCtx c _ h) h))

theorem service_setAx (c : CtxId) (k : Nat) (v : Datum) (h : service u = r) : service (setAx c k v u) = r :=
  service_ite (service_annexPut c k _ (service_updCtx c _ h)) (service_updCtx c _ h)

theorem service_raiseIrq (c : CtxId) (i : Nat) (h : service u = r) : service (raiseIrq c i u) = r := by
  have told := service_heard c h
  have pending := service_setAx c 26 (axPeek u c 26 ||| dat (2 ^ i)) told
  exact service_ite h (service_ite (service_updCtx c _ told) (service_ite (service_wakeCtx c 5 pending) pending))

/-! ## The error log -/

theorem service_acceptRec (e : ErrRec) (h : service u = r) : service (acceptRec e u) = r := by
  unfold acceptRec
  dsimp only
  split
  · exact service_free h
  · exact service_ite (service_bump (by decide) (service_free h)) (service_free h)

theorem service_logOnly {e : Nat} (other : e ≠ 0x29) (v d n : Nat) (c : Option CtxId) (a : Option Nat) (x : Nat) (h : service u = r) :
    service (logOnly e v d n c a x u) = r := service_acceptRec _ (service_bump other h)

theorem service_condSet (b : Nat) (v : Bool) (h : service u = r) : service (condSet b v u) = r :=
  service_ite h (service_free (service_ite (p := b = 3 ∨ b = 7) (t := { u with fresh := u.fresh + 1 }) (service_free h) h))

theorem service_notify (c : Option CtxId) (h : service u = r) : service (notify c u) = r := by
  have root (p : Prop) [Decidable p] : service (if p then raiseIrq 0 3 u else u) = r := service_ite (service_raiseIrq 0 3 h) h
  have logged {v : State} (hv : service v = r) : service { logOnly 0x1E 4 39 0 c none 0 v with recLast := v.recLast } = r :=
    service_free (service_logOnly (e := 0x1E) (by decide) 4 39 0 c none 0 hv)
  unfold notify
  cases c with
  | none => exact service_ite (root _) (logged (root _))
  | some d =>
    have both (p q : Prop) [Decidable p] [Decidable q] : service
        (if p then raiseIrq d 3 (if q then raiseIrq 0 3 u else u) else if q then raiseIrq 0 3 u else u) = r :=
      service_ite (service_raiseIrq d 3 (root q)) (root q)
    exact service_ite (both ..) (logged (both ..))

/-- What follows the record of an event: its condition, and its notification (R673, R713). -/
theorem service_logged (e v d n : Nat) (c : Option CtxId) (a : Option Nat) (x : Nat) (h : service (logOnly e v d n c a x u) = r) :
    service (logEvent e v d n c a x u) = r := by
  have cond (p : Prop) [Decidable p] : service (if p then condSet 4 false (logOnly e v d n c a x u) else logOnly e v d n c a x u) = r :=
    service_ite (service_condSet 4 false h) h
  exact service_ite (service_notify c (cond _)) (cond _)

theorem service_logEvent {e : Nat} (other : e ≠ 0x29) (v d n : Nat) (c : Option CtxId) (a : Option Nat) (x : Nat) (h : service u = r) :
    service (logEvent e v d n c a x u) = r := service_logged e v d n c a x (service_logOnly other v d n c a x h)

theorem service_logInj (i : Bool) {e : Nat} (other : e ≠ 0x29) (v d n : Nat) (c : Option CtxId) (a x : Nat) (h : service u = r) :
    service (logInj i e v d n c a x u) = r := by
  have marked : service (if i then { u with injMarks := a :: u.injMarks } else u) = r := service_ite (service_free h) h
  have logged := service_logEvent other v d n c (some a) x marked
  exact service_ite (service_free logged) logged

/-! ## Cells read -/

theorem service_arrRetire (q : SpId) (t n : Nat) (h : service u = r) : service (arrRetire q t n u) = r := by
  unfold arrRetire
  dsimp only
  split <;> split
  · exact service_addDue _ (service_updSp _ _ (service_l1Drop q n h))
  · exact h
  · exact service_addDue _ (service_updSk _ (fun _ => rfl) (service_skDrop _ n h))
  · exact h

theorem service_arrHardFix (b i : Bool) (q : SpId) (t n : Nat) (p : Nat × Nat × Nat) (c : Option CtxId) (k : Nat) (h : service u = r) :
    service (arrHardFix b i q t n p c k u) = r :=
  service_ite (service_logInj i (by decide) 2 p.1 p.2.1 c p.2.2 k (service_arrRetire q t n h)) h

theorem ite_ne {p : Prop} [Decidable p] {a b n : Nat} (ha : a ≠ n) (hb : b ≠ n) : (if p then a else b) ≠ n := by
  split <;> assumption

theorem service_arrCheck (c : Option CtxId) (a : PAddr) (h : service u = r) : service (arrCheck c a u).2 = r := by
  have fixed (b i : Bool) (q : SpId) (t n : Nat) (p : Nat × Nat × Nat) (k : Nat) :
      service (arrHardFix b i q t n p c k { u with arrErr := mapSet 0 u.arrErr a.toNat 0 }) = r := service_arrHardFix b i q t n p c k (service_free h)
  unfold arrCheck
  dsimp only
  split
  · exact h
  · split
    · exact service_logInj _ (ite_ne (by decide) (by decide)) _ _ _ _ _ _ (service_updAllCtx _ (fixed ..))
    · split
      · exact service_logInj _ (ite_ne (by decide) (by decide)) _ _ _ _ _ _ (fixed ..)
      · split
        · exact fixed ..
        · exact service_logInj _ (ite_ne (by decide) (by decide)) _ _ _ _ _ _
            (service_poisonLn _ (service_ite (fixed ..) (service_skDrop _ _ (fixed ..))))

theorem service_readCell (c : Option CtxId) (a : PAddr) (h : service u = r) : service (readCell c a u).2 = r := by
  have checked := service_arrCheck c a h
  unfold readCell
  dsimp only
  split
  · exact service_logEvent (e := 0x0F) (by decide) 3 36 0 c _ 0 h
  · split
    · next e =>
      rw [e] at checked
      exact checked
    · next e =>
      rw [e] at checked
      split
      · exact checked
      · exact service_logEvent (e := 0x0E) (by decide) 0 36 0 c _ _ (service_updAllCtx _ (service_free checked))
      · exact service_logEvent (e := 0x0F) (by decide) 3 36 0 c _ _ checked

/-! ## A context that leaves its spindle, and its move (R304 to R306) -/

theorem service_axNow (c : CtxId) (k : Nat) (h : service u = r) : service (axNow c k u).2 = r := by
  have read := service_readCell (some c) (annexAddr u c k) (service_annexTouch c k false h)
  unfold axNow
  split
  · exact h
  · split <;> next e => rw [e] at read; exact read

theorem service_fpSave (q : SpId) (h : service u = r) : service (fpSave q u) = r := by
  unfold fpSave
  dsimp only
  split
  · exact h
  · next o _ =>
    have read := service_axNow o 5 h
    split
    · exact h
    · split
      · exact read
      · exact service_updSp _ _ (service_updCtx o _ (service_foldl (fun _ _ hv => service_putCell _ _ _ hv) _
          (service_foldl (fun _ _ hv => service_unitTouch _ _ _ true 1 hv) _ read)))

theorem service_fpRelease (c : CtxId) (save : Bool) (h : service u = r) : service (fpRelease c save u) = r :=
  service_ite h (service_updSp _ _ (service_ite (service_fpSave _ h) h))

theorem service_offPly (c : CtxId) (h : service u = r) : service (offPly c u) = r := by
  have read : service (bitsRead c (fun _ => true) u) = r := service_ite (service_updCtx c _ h) h
  have saved : service (annexSave c (bitsRead c (fun _ => true) u)) = r :=
    service_ite read (service_foldl (fun _ _ hv => service_ite hv (service_annexPut c _ _ hv)) _ read)
  exact service_ite h (service_updCtx c _ (service_updSp _ _ saved))

theorem service_answer (o : Option (Src × Nat)) (v : Datum) (h : service u = r) : service (Machine.answer o v u) = r := by
  have put (src : Src) : service (putRes src v u) = r := by
    cases src with
    | ctx c => exact service_ite h (service_setAx c 9 v h)
    | host => exact service_free h
    | hank k => exact service_free h
  unfold Machine.answer
  split
  · exact service_ite (put _) h
  · exact h

theorem service_endMig (c : CtxId) (n : Nat) (h : service u = r) : service (endMig c n u) = r := service_answer _ _ (service_updCtx c _ h)

theorem service_requeueTrap (c : CtxId) (h : service u = r) : service (requeueTrap c u) = r := by
  have entered (k : SkId) (q : TwReq) : service (twAdmit k q u) = r :=
    service_ite (service_updSk k (fun _ => rfl) h) (service_updCtx _ _ (service_updSk k (fun _ => rfl) h))
  unfold requeueTrap
  dsimp only
  split
  · exact service_ite (entered ..) h
  · exact h

theorem service_startMove (c : CtxId) (h : service u = r) : service (startMove c u) = r := by
  have left : service (offPly c (fpRelease c true (endStreams c u))) = r := service_offPly c (service_fpRelease c true (service_updSp _ _ h))
  have fails (n : Nat) : service (requeueTrap c (endMig c n u)) = r := service_requeueTrap c (service_endMig c n h)
  have moved (f : Ctx → Ctx) := service_requeueTrap c (service_endMig c 0 (service_updCtx c f left))
  unfold startMove
  dsimp only
  split
  · exact h
  · exact service_ite (fails 3) (service_ite h (service_ite (fails 4) (service_ite (moved _) (service_updCtx c _ left))))

theorem service_redirect (c : CtxId) (d : SkId × BitVec 4) (h : service u = r) : service (redirect c d u) = r :=
  service_startMove c (service_updCtx c _ (service_ite (service_endMig c 3 h) h))

end

end Sys2Proof.Proofs

/-! SUPPORT. Failures of spindles, of the fabric and of memory, and errors of arrays and tags (R435, R437, R705 to R718). -/

namespace Sys2Proof.Proofs

open Sys2Proof.Machine Sys2Proof.Expected Sys2Proof.Laws

/-! ## Records that notify no one (R716, R718) -/

section
variable {s : State} {e v : Nat}

/-- The conditions of an event whose record neither begins a condition nor notifies software (R673, R713). -/
def Quiet (e v : Nat) : Prop := (e ≠ 0x0A ∧ e ≠ 0x0C ∧ e ≠ 0x0F ∧ e ≠ 0x23) ∧ v ≠ 2 ∧ v ≠ 3

theorem logEvent_quiet (q : Quiet e v) (d n : Nat) (c : Option CtxId) (a : Option Nat) (x : Nat) :
    logEvent e v d n c a x s = logOnly e v d n c a x s := by
  obtain ⟨⟨lost, scrub, cell, other⟩, two, three⟩ := q
  rw [logEvent, if_neg (by simp [two, three]), if_neg (by simp [lost, scrub, cell, other])]

theorem logInj_counter (q : Quiet e v) (kept : e ≠ 0x21) (i : Bool) (d n : Nat) (c : Option CtxId) (a x : Nat) :
    mapGet 0 (logInj i e v d n c a x s).counters e = min (2 ^ 32 - 1) (mapGet 0 s.counters e + 1) := by
  unfold logInj
  cases i <;> exact (congrArg (fun t : State => mapGet 0 t.counters e) (logEvent_quiet q ..)).trans (logOnly_counter kept ..)

end

/-! ## Cells with wrong array bits (R435, R707) -/

section
variable {c : Option CtxId} {a : PAddr} {v : Cell} {s t : State}

theorem readCell_array (sound : mapGet false s.poisoned a.toNat = false) (ok : verify (cellAt s a) = some (v, false)) :
    readCell c a s = if (arrCheck c a s).1 then (none, (arrCheck c a s).2) else (some v, (arrCheck c a s).2) := by
  simp only [readCell, sound, ok, Bool.false_eq_true, if_false]
  rcases arrCheck c a s with ⟨_ | _, t⟩ <;> rfl

/-- A cell of a cache with wrong bits has an array error. -/
theorem arrErr_of_target (cached : arrTarget s a ≠ 0) : mapGet 0 s.arrErr a.toNat ≠ 0 := fun none => by
  rw [arrTarget, none] at cached
  exact cached (by decide)

theorem arrHard_of_transient (gone : arrTransient s a = true) : arrHard s a = false := by
  rw [arrTransient, decide_eq_true_eq] at gone
  rw [arrHard, gone]
  decide

variable (cached : arrTarget s a ≠ 0)
include cached

/-- One wrong bit that is not hard is corrected, and recorded as event 0x01. -/
theorem arrCheck_single (one : weight (arrBits s a) = 1) (soft : arrHard s a = false) :
    (arrCheck c a s).1 = false ∧ mapGet 0 (arrCheck c a s).2.counters 0x01 = min (2 ^ 32 - 1) (mapGet 0 s.counters 0x01 + 1) := by
  simp only [arrCheck, arrErr_of_target cached, one, soft, cached, arrHardFix, Bool.false_and, Bool.false_eq_true, Bool.not_false,
    and_self, if_true, if_false, true_and]
  exact logInj_counter (by unfold Quiet; decide) (by decide) ..

/-- More wrong bits that are gone on the re-read, recorded as event 0x02. -/
theorem arrCheck_transient (more : 1 < weight (arrBits s a)) (gone : arrTransient s a = true) :
    (arrCheck c a s).1 = false ∧ mapGet 0 (arrCheck c a s).2.counters 0x02 = min (2 ^ 32 - 1) (mapGet 0 s.counters 0x02 + 1) := by
  simp only [arrCheck, arrErr_of_target cached, Nat.ne_of_gt more, arrHard_of_transient gone, gone, cached, arrHardFix, Bool.false_and,
    Bool.false_eq_true, false_and, if_true, if_false, true_and]
  exact logInj_counter (by unfold Quiet; decide) (by decide) ..

/-- More wrong bits that stay are lost where the copy is not clean. -/
theorem arrCheck_stays (more : 1 < weight (arrBits s a)) (stays : arrTransient s a = false) : (arrCheck c a s).1 = !arrClean s a := by
  simp only [arrCheck, arrErr_of_target cached, Nat.ne_of_gt more, stays, Bool.false_eq_true, false_and, if_false]
  cases arrClean s a <;> rfl

end

/-! ## Tags with wrong copies (R437) -/

section
variable {k : SkId} {set w : Nat} {s : State}

theorem skAt_cacheSet (l : SkLine) (u : State) :
    skAt (getSk (updSk k (fun x => { x with cache := mapSet {} x.cache (set * 16 + w) l }) u) k) set w = l := by
  rw [getSk_updSk]
  exact mapGet_mapSet_same ..

/-- A tag whose shadow copy is right, and that is right once rewritten, is as it was. -/
theorem skTagFix_shadow (shadow : (skAt (getSk s k) set w).tag.shad = false) (soft : (skAt (getSk s k) set w).tag.hard = false) :
    skAt (getSk (skTagFix k set w s) k) set w = { skAt (getSk s k) set w with tag := {} } := by
  simp only [skTagFix, shadow, soft, Bool.false_eq_true, if_false]
  exact skAt_cacheSet _ s

/-- A tag with both copies wrong retires its way of the set. -/
theorem skTagFix_retires (shadow : (skAt (getSk s k) set w).tag.shad = true) : (skAt (getSk (skTagFix k set w s) k) set w).retired = true := by
  simp only [skTagFix, shadow, if_true]
  exact congrArg SkLine.retired (skAt_cacheSet ..)

end

/-! ## Lines with wrong symbols in DRAM (R595, R707) -/

section
variable {ln : Nat} {s : State}

theorem dramFix_poisoned : (dramFix ln s).poisoned = s.poisoned := by
  unfold dramFix
  split <;> rfl

theorem dramFix_arrDue : (dramFix ln s).arrDue = s.arrDue := by
  unfold dramFix
  split <;> rfl

theorem dramRead_corrected {d : BitVec 8} (one : dramEcc s.m.dimms.width (dramAt s ln).syms = some (some d)) :
    (dramRead ln s).poisoned = s.poisoned ∧
      (dramRead ln s).arrDue = s.arrDue ++ [{ place := .dram ln ((dramAt s ln).dev ++ d), event := 0x08, retire := false }] := by
  simp only [dramRead, one]
  exact ⟨dramFix_poisoned, congrArg (· ++ _) dramFix_arrDue⟩

theorem dramRead_reread (lost : dramEcc s.m.dimms.width (dramAt s ln).syms = some none) (gone : (dramAt s ln).again = false) :
    (dramRead ln s).poisoned = s.poisoned := by
  simp only [dramRead, lost, gone, Bool.false_eq_true, if_false]
  exact dramFix_poisoned

/-- Keys of a map that are set one after the other are all set. -/
theorem mapGet_setAll {m : SMap Bool} (f : Nat → Nat) {l : List Nat} {n : Nat} (h : n ∈ l ∨ mapGet false m (f n) = true) :
    mapGet false (l.foldl (fun m i => mapSet false m (f i) true) m) (f n) = true := by
  induction l generalizing m with
  | nil => exact h.resolve_left List.not_mem_nil
  | cons i l ih =>
    refine ih ?_
    by_cases here : f n = f i
    · rw [here, mapGet_mapSet_same]
      exact .inr rfl
    · rw [mapGet_mapSet_other _ _ _ here]
      exact h.imp_left fun mem => (List.mem_cons.mp mem).resolve_left fun e => here (congrArg f e)

theorem poisonLn_poisoned {i : Nat} (hi : i < 8) : mapGet false (poisonLn ln s).poisoned (ln * 8 + i) = true := by
  have listed : i ∈ upto 8 := List.mem_range.mpr hi
  unfold poisonLn
  generalize upto 8 = l at listed
  exact mapGet_setAll (fun i => ln * 8 + i) (.inl listed)

theorem addDue_poisoned (l : List ArrDue) : (addDue l s).poisoned = s.poisoned := rfl

theorem dramRead_lost (lost : dramEcc s.m.dimms.width (dramAt s ln).syms = some none) (stays : (dramAt s ln).again = true) {i : Nat} (hi : i < 8) :
    mapGet false (dramRead ln s).poisoned (ln * 8 + i) = true := by
  simp only [dramRead, lost, stays, if_true]
  rw [addDue_poisoned, poisonLn_poisoned hi]

end

/-! ## Spindles that fail (R710 to R712) -/

theorem positions_of_service {s t : State} (h : service t = service s) (k : SkId) : positions (getSk t k) = positions (getSk s k) := by
  unfold service at h
  exact congrFun (congrArg Prod.fst h) k

section
variable {p : SpId} {hard ok : Bool} {s : State}

/-- The spare that takes a number serves it. -/
theorem spareFor_spareIn : (getSk (spareIn p s) (spSk p)).spareFor = some (spLs p) := by
  have recorded : ∃ t, service (spareIn p s) = service (updSk (spSk p) (fun x => { x with spareFor := some (spLs p) }) t) := by
    unfold spareIn
    exact ⟨_, service_condSet 5 false (service_notify none (service_logOnly (e := 0x11) (by decide) 4 _ _ none none 0 rfl))⟩
  obtain ⟨t, same⟩ := recorded
  have place := positions_of_service same (spSk p)
  rw [getSk_updSk] at place
  exact congrArg Prod.fst place

/-- The contexts of a spindle that is out of service go to the others of its skein. -/
theorem outOf_spindleOut : (getSk (spindleOut p s) (spSk p)).outOf.getLsbD (spLs p).toNat = true := by
  have left : ∃ t, service (spindleOut p s) = service (updSk (spSk p) (fun x => { x with outOf := setBit x.outOf (spLs p).toNat true }) t) := by
    unfold spindleOut
    refine ⟨_, service_condSet 5 false (service_notify none (service_logOnly (e := 0x12) (by decide) 4 _ _ none none 0
      (service_foldl (fun v c hv => ?_) _ (service_updAllCtx _ rfl))))⟩
    split
    · exact service_redirect c _ hv
    · exact hv
  obtain ⟨t, same⟩ := left
  have place := positions_of_service same (spSk p)
  rw [getSk_updSk] at place
  have out : (getSk (spindleOut p s) (spSk p)).outOf = setBit (getSk t (spSk p)).outOf (spLs p).toNat true := congrArg Prod.snd place
  rw [out, getLsbD_setBit _ _ _ (spLs p).isLt, if_pos rfl]

variable (still : (getSk s (spSk p)).outOf.getLsbD (spLs p).toNat = false)
include still

theorem spindleFail_spare (free : (getSk s (spSk p)).spareFor = none) (good : (getSk s (spSk p)).spareBad = false) :
    spindleFail p true s = spareIn p s := by
  simp [spindleFail, still, free, good]

theorem spindleFail_second (used : (getSk s (spSk p)).spareFor ≠ none) : ∃ t, spindleFail p ok s = spindleOut p t := by
  obtain ⟨l, serves⟩ := Option.ne_none_iff_exists'.mp used
  simp only [spindleFail, still, serves]
  exact ⟨_, rfl⟩

omit still

theorem exec_substitution_sound (sound : spindleFailed p hard s = false) : exec (.substitution p hard ok) s = .next s :=
  congrArg Host.Outcome.next (if_pos (by simp [sound]))

/-- The declaration of a failed spindle is taken up (R719). -/
def spindleNoted (p : SpId) (s : State) : State := updSk (spSk p) (fun x => { x with failed := setBit x.failed (spLs p).toNat false }) s

theorem getSk_spindleNoted : getSk (spindleNoted p s) (spSk p) =
    { getSk s (spSk p) with failed := setBit (getSk s (spSk p)).failed (spLs p).toNat false } := getSk_updSk ..

theorem exec_substitution (up : s.mode ≠ .bringup) (awake : s.mode ≠ .sleep) (powered : (getSk s (spSk p)).parked = false)
    (failed : spindleFailed p hard s = true) :
    exec (.substitution p hard ok) s = .next (spindleFail p ok (spindleNoted p s)) :=
  congrArg Host.Outcome.next (if_neg (by simp [up, awake, powered, failed]))

end

/-! ## Restarts (R714), and the error log (R718) -/

section
variable {s : State}

theorem acceptRec_m (e : ErrRec) : (acceptRec e s).m = s.m := by
  unfold acceptRec
  dsimp only
  split
  · rfl
  · split <;> rfl

/-- A fatal-error restart is counted, and keeps the fuses (R723). -/
theorem fatalRestart_keeps (what unit : Nat) :
    mapGet 0 (fatalRestart what unit s).counters 0x29 = min (2 ^ 32 - 1) (mapGet 0 s.counters 0x29 + 1) ∧
      (fatalRestart what unit s).m.fuses = s.m.fuses := by
  have same := service_logged (u := s) 0x29 3 39 0 none none (what + 256 * unit) rfl
  unfold service at same
  simp only [Prod.mk.injEq] at same
  obtain ⟨-, fuses, counted⟩ := same
  exact ⟨counted.trans (logOnly_counter (by decide) ..), fuses.trans (congrArg Mgmt.fuses (acceptRec_m _))⟩

/-- A restart begins the start-up at step 2, with no context, for cause 7. -/
theorem fatalRestart_begins (what unit : Nat) : (fatalRestart what unit s).mode = .bringup ∧ (fatalRestart what unit s).m.step = 2 ∧
    (fatalRestart what unit s).m.cause = 7 ∧ (fatalRestart what unit s).ctxs = [] := ⟨rfl, rfl, rfl, rfl⟩

theorem exec_lostMemoryChannel (ch : BitVec 4) (up : s.mode ≠ .bringup) : exec (.lostMemoryChannel ch) s = .next (fatalRestart 3 ch.toNat s) :=
  congrArg Host.Outcome.next (if_neg fun start => up start.1)

/-- Flits are resent up to four times, and a fifth failure restarts the device (R705). -/
theorem exec_fabricCrcError (sector : BitVec 2) (n : Nat) (powered : s.m.pwr.off = false) (awake : s.mode ≠ .sleep) (up : s.mode ≠ .bringup) :
    exec (.fabricCrcError sector n) s =
      let t := (upto (min n 4)).foldl (fun s _ => logEvent 0x1F 1 (32 + sector.toNat) 0 none none n s) s
      .next (if n ≥ 5 then fatalRestart 1 sector.toNat t else t) :=
  congrArg Host.Outcome.next (if_neg (by simp [powered, awake, up]))

theorem exec_logRecordWrite {e : ErrRec} {q : List ErrRec} (queued : s.recQ = e :: q) :
    exec .logRecordWrite s = .next (if s.m.pwr.inhibit || (decide (e.tb ≤ s.tb ∧ s.tb < e.tb + 1000000000) && s.tbRun) then s
      else { s with recQ := q, log := (e :: s.log).take 3200 }) := by
  change execLogRecordWrite s = _
  rw [execLogRecordWrite, queued]

end

/-- Settles O60: what the records and the moves of contexts leave alone shows the spare and the numbers out of service that a failure has set, and the
restart that it has counted; an error of an array or a tag is the case that its bits decide. -/
theorem failuresAreConfinedAndRecorded : Obligations.FailuresAreConfinedAndRecorded := by
  refine ⟨fun c a v s sound cached ok => ?cells, fun k set w s => ⟨skTagFix_shadow, skTagFix_retires⟩,
    fun ln s => ⟨fun d => dramRead_corrected, fun lost => ⟨dramRead_reread lost, fun stays i => dramRead_lost lost stays⟩⟩,
    fun p hard ok s mode powered failed still => ?spindle, fun p ok s => exec_substitution_sound, fun sector n s on awake up => ?fabric,
    fun e q s queued => ?log, fun ch s up => ⟨_, exec_lostMemoryChannel ch up, ?_⟩⟩
  case cells =>
    refine ⟨fun one soft => ?_, fun more gone => ?_, fun more stays => ?_⟩ <;> rw [readCell_array sound ok]
    · obtain ⟨good, counted⟩ := arrCheck_single (c := c) cached one soft
      rw [good]
      exact ⟨rfl, counted⟩
    · obtain ⟨good, counted⟩ := arrCheck_transient (c := c) cached more gone
      rw [good]
      exact ⟨rfl, counted⟩
    · rw [arrCheck_stays cached more stays]
      exact ⟨fun clean => by rw [clean]; rfl, fun dirty => by rw [dirty]; rfl⟩
  case spindle =>
    have up : s.mode ≠ .bringup := by rintro e; simp [e] at mode
    have awake : s.mode ≠ .sleep := by rintro e; simp [e] at mode
    have next : exec (.substitution p hard ok) s = .next (spindleFail p ok (spindleNoted p s)) := exec_substitution up awake powered failed
    have place := getSk_spindleNoted (p := p) (s := s)
    have still' : (getSk (spindleNoted p s) (spSk p)).outOf.getLsbD (spLs p).toNat = false := by rw [place]; exact still
    refine ⟨fun passes free good => ⟨_, next, ?_⟩, fun used => ⟨_, next, ?_⟩⟩
    · rw [passes, spindleFail_spare still' (by rw [place]; exact free) (by rw [place]; exact good)]
      exact spareFor_spareIn
    · obtain ⟨t, out⟩ := spindleFail_second (ok := ok) still' (by rw [place]; exact used)
      rw [out]
      exact outOf_spindleOut
  case fabric =>
    have run := exec_fabricCrcError sector n on awake up
    refine ⟨fun none => ?_, fun one => ?_, fun five => ⟨_, run.trans (congrArg Host.Outcome.next (if_pos five)), fatalRestart_begins ..⟩⟩
    · subst none
      exact run
    · subst one
      exact run
  case log =>
    refine ⟨fun free old => ?_, fun runs past young => ?_, fun inhibited => ?_⟩ <;> rw [exec_logRecordWrite queued]
    · rw [if_neg]
      simp only [free, Bool.false_or, Bool.and_eq_true, decide_eq_true_eq]
      omega
    · rw [if_pos (by simp [runs, past, young])]
    · rw [if_pos (by simp [inhibited])]
  · obtain ⟨mode, step, cause, ctxs⟩ := fatalRestart_begins (s := s) 3 ch.toNat
    exact ⟨mode, step, cause, ctxs, fatalRestart_keeps ..⟩

end Sys2Proof.Proofs

/-! SUPPORT. A step on an empty queue (R425). -/

namespace Sys2Proof.Proofs

open Sys2Proof.Machine Sys2Proof.Expected Sys2Proof.Laws

-- one theorem after another: every thread that waits takes a stack of the check's memory
set_option Elab.async false

/-- On an empty queue a step lets the nanosecond pass. -/
theorem step_idle {s : State} (empty : s.pending = []) : step s = .next (idle s) := by rw [step, empty]

/-- Refutes O1: a line that a CLEAN has written back leaves the list of its context once the line's controller takes it (R425), so that a context
changes though no hank command, SLEEP entry, disabling of caches or compare is under way. -/
theorem not_stepRunsTheFrontCommand : ¬ Obligations.StepRunsTheFrontCommand := by
  rintro ⟨-, idles⟩
  let s : State := { mode := .run, ctxs := [(0, { st := .running, level := 1, cleans := [0] })] }
  have cachesOn (k : SkId) : (getSk s k).dstate ≠ 1 := show (0 : BitVec 2) ≠ 1 by decide
  have noneDue : ∀ i < 8, cmpDue s i = false := fun i _ => rfl
  have taken : (idle s).ctxs ≠ s.ctxs := by decide +kernel
  obtain ⟨t, next, -, -, -, -, ctxs, -⟩ := idles s rfl rfl rfl cachesOn (.inr noneDue)
  rw [step_idle rfl] at next
  rw [← Host.Outcome.next.inj next] at ctxs
  exact taken ctxs
end Sys2Proof.Proofs

/-! SUPPORT. LR, SC and TAS (R467 to R470): their memory phases, and the translations that hit before them. -/

namespace Sys2Proof.Proofs

open Sys2Proof.Machine Sys2Proof.Expected Sys2Proof.Laws

-- one theorem after another: every thread that waits takes a stack of the check's memory
set_option Elab.async false

/-! ## A translation that hits leaves the store buffers alone (R372, R379) -/

/-- The same contexts and the same store buffers. -/
def SameBuffers (s t : State) : Prop := t.ctxs = s.ctxs ∧ ∀ q, (getSp t q).sb = (getSp s q).sb

/-- A body that, where it completes, leaves contexts and store buffers as they were. -/
def KeepsBuffers {α : Type} (m : X α) : Prop := ∀ s t a, m s = .ok a t → SameBuffers s t

theorem keepsBuffers_pure {α : Type} (a : α) : KeepsBuffers (pure a : X α) := by
  rintro s t b ⟨⟩
  exact ⟨rfl, fun _ => rfl⟩

theorem keepsBuffers_xCtx (c : CtxId) : KeepsBuffers (xCtx c) := by
  rintro s t b ⟨⟩
  exact ⟨rfl, fun _ => rfl⟩

theorem keepsBuffers_get : KeepsBuffers (get : X State) := by
  rintro s t b ⟨⟩
  exact ⟨rfl, fun _ => rfl⟩

theorem keepsBuffers_xlFault {α : Type} {c : CtxId} {code : BitVec 8} {info : Datum} {n : Nat} {phys ps : Bool} {va : VAddr} {k : Acc} :
    KeepsBuffers (xlFault c code info n phys ps va k : X α) := by
  rintro s t a ⟨⟩

theorem keepsBuffers_bind {α β : Type} {m : X α} {f : α → X β} (hm : KeepsBuffers m) (hf : ∀ a, KeepsBuffers (f a)) : KeepsBuffers (m >>= f) := by
  intro s u b h
  cases hs : m s with
  | ok a t =>
    rw [x_bind_ok hs] at h
    obtain ⟨ctxs, sb⟩ := hm s t a hs
    obtain ⟨ctxs', sb'⟩ := hf a t u b h
    exact ⟨ctxs'.trans ctxs, fun q => (sb' q).trans (sb q)⟩
  | error e t =>
    rw [x_bind_error hs] at h
    cases h

theorem keepsBuffers_ite {α : Type} {p : Prop} [Decidable p] {m n : X α} (hm : KeepsBuffers m) (hn : KeepsBuffers n) :
    KeepsBuffers (if p then m else n) := by
  split
  · exact hm
  · exact hn

/-- A check that faults where it fails. -/
theorem keepsBuffers_check {β : Type} {p : Prop} [Decidable p] {c : CtxId} {code : BitVec 8} {info : Datum} {n : Nat} {phys ps : Bool} {va : VAddr} {k : Acc}
    {rest : Unit → X β} (hr : KeepsBuffers (rest ())) :
    KeepsBuffers (if p then xlFault c code info n phys ps va k >>= rest else rest ()) :=
  keepsBuffers_ite (keepsBuffers_bind keepsBuffers_xlFault fun _ => hr) hr

theorem keepsBuffers_xDesc (c : CtxId) (va : VAddr) (k : Acc) : KeepsBuffers (xDesc c false va k) := by
  intro s t d h
  simp only [xDesc] at h
  split at h
  · cases h
    refine ⟨rfl, fun q => ?_⟩
    by_cases own : q = ctxSp (getCtx s c)
    · rw [own, getSp_updSp]
    · rw [getSp_updSp_other _ _ own]
  · cases h

theorem keepsBuffers_xPage (c : CtxId) (va : VAddr) (lin : Nat) {k : Acc} (data : k ≠ .fetch) : KeepsBuffers (xPage c false va lin k) := by
  intro s t e h
  simp only [xPage, data, if_false, false_and] at h
  split at h <;> cases h
  exact ⟨rfl, fun _ => rfl⟩

theorem keepsBuffers_xlate (c : CtxId) (lvl : BitVec 2) (va : VAddr) {k : Acc} (data : k ≠ .fetch) : KeepsBuffers (xlate c lvl false va k) := by
  unfold xlate
  refine keepsBuffers_bind (keepsBuffers_xCtx c) fun x => keepsBuffers_bind (keepsBuffers_xDesc c va k) fun d => ?_
  dsimp only
  refine keepsBuffers_check (keepsBuffers_check (keepsBuffers_check (keepsBuffers_check (keepsBuffers_check (keepsBuffers_bind ?page
    fun pg => keepsBuffers_bind keepsBuffers_get fun s => keepsBuffers_check ?region)))))
  case page =>
    refine keepsBuffers_ite (keepsBuffers_pure _) (keepsBuffers_bind (keepsBuffers_xPage c va _ data) fun e => ?_)
    exact keepsBuffers_check (keepsBuffers_check (keepsBuffers_check (keepsBuffers_pure _)))
  case region =>
    cases regionOf s pg.1
    case absent => exact keepsBuffers_xlFault
    all_goals exact keepsBuffers_ite (keepsBuffers_pure _) keepsBuffers_xlFault

theorem keepsBuffers_xlateNormal (c : CtxId) (lvl : BitVec 2) (va : VAddr) {k : Acc} (data : k ≠ .fetch) :
    KeepsBuffers (xlateNormal c lvl false va k) := by
  unfold xlateNormal
  refine keepsBuffers_bind (keepsBuffers_xlate c lvl va data) fun r => ?_
  refine keepsBuffers_ite (keepsBuffers_bind (keepsBuffers_xDesc c va k) fun d => ?_) (keepsBuffers_pure _)
  exact keepsBuffers_bind keepsBuffers_xlFault fun _ => keepsBuffers_pure _

/-- A translation that hits leaves the entries of a context and its parked stores as they are. -/
theorem sbEmpty_xlateNormal {c : CtxId} {lvl : BitVec 2} {va : VAddr} {k : Acc} {s t : State} {pa : PAddr} (data : k ≠ .fetch)
    (hx : xlateNormal c lvl false va k s = .ok pa t) : sbEmpty t c = sbEmpty s c := by
  obtain ⟨ctxs, sb⟩ := keepsBuffers_xlateNormal c lvl va data s t pa hx
  have ctx : getCtx t c = getCtx s c := by rw [getCtx, ctxs, getCtx]
  rw [sbEmpty, sbEmpty, sbCount, sbCount, spOf, spOf, ctx, sb]

/-! ## Memory phases of the atomics -/

section
variable {c : CtxId} {w : BitVec 48} {s t u b : State} {va : VAddr} {pa : PAddr} {v : Cell} {dst : BitVec 5} {pd : BitVec 3}

theorem updCtx_congr {f g : Ctx → Ctx} (h : f (getCtx s c) = g (getCtx s c)) : updCtx c f s = updCtx c g s := by rw [updCtx, updCtx, h]

/-- LR (R467): the cell lands, and the reservation is set unless the read wrote a correction back. -/
theorem memBasic_lr (hx : xlateNormal c (getCtx s c).level false va .read s = .ok pa t) (hn : xNormal c false false va pa t = .ok v u)
    (served : (getCtx u c).park = none) (hb : dst = 0 ∨ isBad (blockOf u c) v = false) :
    memBasic c false w (.load va dst true) s = .ok .seq (updCtx c (fun x => if wroteBack t u pa then { x with res := none, resHold := false }
      else { x with res := some (lineOf pa), resHold := true }) (landSeq c [(4, .word dst, v)] u)) := by
  have phase : memBasic c false w (.load va dst true) s = .ok .seq (updCtx c (fun x => if x.park.isSome ∨ wroteBack t u pa then
      { x with res := none, resHold := false } else { x with res := some (lineOf pa), resHold := true }) (landSeq c [(4, .word dst, v)] u)) := by
    simp only [memBasic, if_true]
    rw [x_bind_ok (xCtx_eq c s), x_bind_ok hx, x_bind_ok (x_get t), x_bind_ok hn, x_bind_ok (x_get u), x_bind_ok (xDeliver_plain hb),
      x_bind_ok (xMod_eq _ _), x_pure]
  have park : (getCtx (landSeq c [(4, .word dst, v)] u) c).park = none := by rw [landSeq_ctx, served]
  rw [phase]
  refine congrArg _ (updCtx_congr ?_)
  simp only [park, Option.isSome_none, Bool.false_eq_true, false_or]

/-- A truth value lands in a predicate register. -/
theorem landP_seq (n : BitVec 3) (x : Bool) : landP c 4 n x s = .ok () (landSeq c [(4, .pred n, if x then 1 else 0)] s) := by
  cases x <;> exact land_seq ..

/-- The reservation ends, and the outcome of the SC lands (R468). -/
theorem scEnd_ok (x : Bool) : (do
      xMod (updCtx c fun x => { x with res := none, resHold := false })
      landP c 4 pd x) s =
    .ok () (landSeq c [(4, .pred pd, if x then 1 else 0)] (updCtx c (fun x => { x with res := none, resHold := false }) s)) :=
  (x_bind_ok (xMod_eq _ _)).trans (landP_seq ..)

/-- A reservation that the SC does not find (R468): 0 lands and nothing is stored. -/
theorem xSc_fails (hx : xlateNormal c (getCtx s c).level false va .rw s = .ok pa t) (gone : (getCtx s c).res ≠ some (lineOf pa)) :
    xSc c false va v pd s = .ok () (landSeq c [(4, .pred pd, 0)] (updCtx c (fun x => { x with res := none, resHold := false }) t)) := by
  unfold xSc
  rw [x_bind_ok (xCtx_eq c s), x_bind_ok hx, if_pos gone]
  exact scEnd_ok false

/-- The line of an SC, owned, as its phase obtains it. -/
def xBring (c : CtxId) (va : VAddr) (pa : PAddr) : X Bool := fun s =>
  let r := bringLine c false true va pa s
  .ok r.1 r.2

theorem xBring_ok {x : Bool} (line : bringLine c false true va pa t = (x, u)) : xBring c va pa t = .ok x u := by
  rw [xBring, line]

/-- An SC that finds its reservation, with the line obtained (R468, R469): its cell is stored, 1 lands, and its card mark finds room (R506). -/
theorem xSc_stores (hx : xlateNormal c (getCtx s c).level false va .rw s = .ok pa t) (here : (getCtx s c).res = some (lineOf pa))
    (empty : sbEmpty t c = true) (line : bringLine c false true va pa t = (true, u)) (still : (getCtx u c).res = some (lineOf pa)) {z : State}
    (hz : landSeq c [(4, .pred pd, 1)] (updCtx c (fun x => { x with res := none, resHold := false })
        (putCell (some c) pa v (updCtx c (fun x => { x with hostFirst := true }) u))) = z)
    (room : sbPutAll c ((cardKinds z c va pa v).map (sbEnt c (getCtx z c).sbars none)) z = ([], b)) :
    xSc c false va v pd s = .ok () b := by
  unfold xSc
  rw [x_bind_ok (xCtx_eq c s), x_bind_ok hx, if_neg (not_not.mpr here), x_bind_ok (x_get t), empty]
  refine (x_check_pass (absurd · (by decide))).trans ((x_bind_ok (xBring_ok line)).trans ?_)
  refine (x_check_pass (absurd · (by decide))).trans ((x_bind_ok (xCtx_eq c u)).trans ?_)
  rw [if_neg (not_not.mpr still), x_bind_ok (xMod_eq _ _)]
  refine (x_bind_ok ((scEnd_ok true).trans (congrArg _ hz))).trans ((x_bind_ok (x_get z)).trans ?_)
  by_cases marks : cardWanted (blockOf z c) va v = true
  · rw [if_pos marks]
    refine xStores_room room ?_
    rw [cardKinds, if_pos marks]
    rfl
  · rw [cardKinds, if_neg marks] at room
    rw [if_neg marks]
    cases room
    rfl

theorem memBasic_sc (h : xSc c false va v pd s = .ok () t) : memBasic c false w (.sc va v pd) s = .ok .seq t := by
  simp only [memBasic]
  rw [x_bind_ok (xCtx_eq c s), x_bind_ok h, x_pure]

/-- TAS with every earlier store visible (R470). -/
theorem memBasic_tas (hx : xlateNormal c (getCtx s c).level false va .rw s = .ok pa t) (empty : sbEmpty t c = true)
    (hn : xNormal c false true va pa t = .ok v u) {z : State}
    (hz : z = updCtx c (fun x => { x with res := none, resHold := false, hostFirst := true }) (putCell (some c) pa tCell u))
    (hb : dst = 0 ∨ isBad (blockOf z c) v = false) :
    memBasic c false w (.tas va dst) s = .ok .seq (landSeq c [(4, .word dst, v)] z) := by
  have before : sbEmpty s c = true := (sbEmpty_xlateNormal (by decide) hx).symm.trans empty
  subst hz
  simp only [memBasic]
  rw [x_bind_ok (xCtx_eq c s), x_bind_ok (x_get s), x_bind_ok hx, before]
  refine (x_check_pass (absurd · (by decide))).trans ?_
  rw [x_bind_ok hn, x_bind_ok (xMod_eq _ _), x_bind_ok (xDeliver_plain hb), x_pure]

end

/-! ## The instructions -/

section
variable {h : Hd} {f : FMA} {w : BitVec 48} {s t u b : State} {va : VAddr} {pa : PAddr} {v : Cell}

theorem exec_lr (ok : Takes (.lr h f) h w s) {x : Ctx} (start : getCtx (slotStart h.ctx s) h.ctx = x) (ha : ea x f.adr f.disp.toInt = some va)
    (hx : xlateNormal h.ctx x.level false va .read (slotStart h.ctx s) = .ok pa t) (hn : xNormal h.ctx false false va pa t = .ok v u)
    (served : (getCtx u h.ctx).park = none) (hb : f.data = 0 ∨ isBad (blockOf u h.ctx) v = false) :
    exec (.lr h f) s = .next (slotDone h.ctx .seq (updCtx h.ctx (fun x => if wroteBack t u pa then { x with res := none, resHold := false }
      else { x with res := some (lineOf pa), resHold := true }) (landSeq h.ctx [(4, .word f.data, v)] u))) := by
  subst start
  obtain ⟨_, hw, hi⟩ := ok
  cases hw
  exact issueOut_done hi ((x_bind_ok (xDispAdr_ok ha)).trans (xMemOp_ok (memBasic_lr hx hn served hb)))

theorem exec_sc (ok : Takes (.sc h f) h w s) {x : Ctx} (start : getCtx (slotStart h.ctx s) h.ctx = x) (ha : ea x f.adr f.disp.toInt = some va)
    (hv : opnd x f.data = some v) (phase : xSc h.ctx false va v f.pd (slotStart h.ctx s) = .ok () t) :
    exec (.sc h f) s = .next (slotDone h.ctx .seq t) := by
  subst start
  obtain ⟨_, hw, hi⟩ := ok
  cases hw
  exact issueOut_done hi ((x_bind_ok (xDispAdr_ok ha)).trans ((x_bind_ok (wRead_opnd hv)).trans (xMemOp_ok (memBasic_sc phase))))

theorem exec_tas (ok : Takes (.tas h f) h w s) {x : Ctx} (start : getCtx (slotStart h.ctx s) h.ctx = x) (ha : ea x f.adr f.disp.toInt = some va)
    (hx : xlateNormal h.ctx x.level false va .rw (slotStart h.ctx s) = .ok pa t) (empty : sbEmpty t h.ctx = true)
    (hn : xNormal h.ctx false true va pa t = .ok v u) {z : State}
    (hz : z = updCtx h.ctx (fun x => { x with res := none, resHold := false, hostFirst := true }) (putCell (some h.ctx) pa tCell u))
    (hb : f.data = 0 ∨ isBad (blockOf z h.ctx) v = false) :
    exec (.tas h f) s = .next (slotDone h.ctx .seq (landSeq h.ctx [(4, .word f.data, v)] z)) := by
  subst start
  obtain ⟨_, hw, hi⟩ := ok
  cases hw
  exact issueOut_done hi ((x_bind_ok (xDispAdr_ok ha)).trans (xMemOp_ok (memBasic_tas hx empty hn hz hb)))

end

/-- Settles O18: the operands pass their checks, and the memory phase of each atomic is served in the slot; SC has its two outcomes by the reservation
that it finds. -/
theorem atomicsUseTheReservation : Obligations.AtomicsUseTheReservation := by
  refine fun h f w s va ha => ⟨fun t u pa v ok hx hn served hb => exec_lr ok rfl ha hx hn served hb,
    fun t pa v ok hv hx gone => exec_sc ok rfl ha hv (xSc_fails hx gone),
    fun t u b pa v ok hv hx here empty line still room => exec_sc ok rfl ha hv (xSc_stores hx here empty line still rfl room),
    fun t u pa v ok hx empty hn hb => exec_tas ok rfl ha hx empty hn rfl hb⟩

end Sys2Proof.Proofs

/-! SUPPORT. Store buffers as they drain (R451 to R453, R473): entries that become visible, and parked stores. -/

namespace Sys2Proof.Proofs

open Sys2Proof.Machine Sys2Proof.Expected Sys2Proof.Laws

-- one theorem after another: every thread that waits takes a stack of the check's memory
set_option Elab.async false

section
variable {q : SpId} {i : Nat} {e : SbEntry} {c : CtxId} {s t : State} {es : List SbEntry}

/-! ## STORE_DRAIN (R451 to R453) -/

/-- An entry that has become visible leaves the buffer. -/
theorem exec_storeDrain (entry : (getSp s q).sb[i]? = some e) (may : sbMayDrain s q i = true) (visible : drainKind q e.ctx e.via e.kind s = (true, t)) :
    exec (.storeDrain q i) s =
      .next (spindleResume q (afterDrain e.ctx (bitArrive e.ctx (updSp q (fun p => { p with sb := p.sb.eraseIdx i }) t)))) := by
  change execStoreDrain q i s = _
  rw [execStoreDrain, entry]
  simp only [may, visible, Bool.not_true, Bool.false_eq_true, if_false]

/-- Without an entry whose turn it is nothing drains. -/
theorem exec_storeDrain_idle (h : (getSp s q).sb[i]? = none ∨ sbMayDrain s q i = false) : exec (.storeDrain q i) s = .next s := by
  change execStoreDrain q i s = _
  unfold execStoreDrain
  split
  · rfl
  · next e entry =>
    rw [h.resolve_left (by simp [entry])]
    rfl

/-! ## STORE_BUFFER_ENTRY_FREE (R101, R110) -/

theorem sbPut_ctxs (h : sbPut c e s = some t) : t.ctxs = s.ctxs := by
  unfold sbPut at h
  dsimp only at h
  split at h
  · cases h
    rfl
  · split at h <;> cases h
    rfl

/-- Entries that a buffer takes leave the contexts alone. -/
theorem sbPutAll_ctxs (es : List SbEntry) (s : State) : (sbPutAll c es s).2.ctxs = s.ctxs := by
  induction es generalizing s with
  | nil => rfl
  | cons e es ih =>
    rw [sbPutAll]
    split
    · next t put => exact (ih t).trans (sbPut_ctxs put)
    · rfl

theorem getCtx_of_sbPutAll {l : List SbEntry} (h : sbPutAll c es s = (l, t)) : getCtx t c = getCtx s c := by
  have same := sbPutAll_ctxs (c := c) es s
  rw [h] at same
  rw [getCtx, same, getCtx]

section
variable (parked : (getCtx s c).park = some (.stores es))
include parked

/-- Some of the parked stores find no entry yet. -/
theorem exec_storeBufferEntryFree_waits {l : List SbEntry} (left : sbPutAll c es s = (e :: l, t)) :
    exec (.storeBufferEntryFree c) s = .next (updCtx c (fun x => { x with park := some (.stores (e :: l)) }) t) := by
  change execStoreBufferEntryFree c s = _
  simp only [execStoreBufferEntryFree, parked, left]
  rfl

/-- The last of the parked stores has its entry, but writes a bit of another skein (R110). -/
theorem exec_storeBufferEntryFree_trip {b : SkId × BitVec 16} (all : sbPutAll c es s = ([], t)) (trip : tripOf (getCtx t c).skein es = some b) :
    exec (.storeBufferEntryFree c) s = .next (updCtx c (fun x => { x with park := some (.bitTrip b.1 b.2) }) t) := by
  rw [getCtx_of_sbPutAll all] at trip
  change execStoreBufferEntryFree c s = _
  simp only [execStoreBufferEntryFree, parked, all, List.isEmpty_nil, if_true, trip]

/-- The last of the parked stores has its entry. -/
theorem exec_storeBufferEntryFree_resumes (all : sbPutAll c es s = ([], t)) (here : tripOf (getCtx t c).skein es = none) :
    exec (.storeBufferEntryFree c) s = .next (resumeParked c t) := by
  rw [getCtx_of_sbPutAll all] at here
  change execStoreBufferEntryFree c s = _
  simp only [execStoreBufferEntryFree, parked, all, List.isEmpty_nil, if_true, here]

end

end

/-- Settles O40: an entry drains by its kind, a parked store takes a freed entry and goes on with the stores that are left, and the release of a
reservation is its own command. -/
theorem storesBecomeVisibleAndBuffersDrain : Obligations.StoresBecomeVisibleAndBuffersDrain := by
  refine ⟨fun q i e s entry may => ⟨fun t ln cells kind own => ?line, fun t ln kind own => ?zline, fun k b v kind => ?bit⟩,
    fun q i s => exec_storeDrain_idle, fun c es t s parked => ⟨fun all => ?freed, fun e l => exec_storeBufferEntryFree_waits parked⟩, fun c s => rfl⟩
  case line => exact exec_storeDrain entry may (by simp only [kind, drainKind, own, if_true])
  case zline => exact exec_storeDrain entry may (by simp only [kind, drainKind, own, if_true])
  case bit => exact exec_storeDrain entry may (by simp only [kind, drainKind])
  case freed =>
    split
    · next b trip => exact exec_storeBufferEntryFree_trip parked all trip
    · next here => exact exec_storeBufferEntryFree_resumes parked all here

end Sys2Proof.Proofs

/-! SUPPORT. The host link (R476, R583, R584, R722). -/

namespace Sys2Proof.Proofs

open Sys2Proof.Machine Sys2Proof.Expected Sys2Proof.Laws

-- one theorem after another: every thread that waits takes a stack of the check's memory
set_option Elab.async false

/-! ## The link (R476, R583, R584, R722) -/

section
variable {s : State}

/-- Without a context that waits for the host no request goes on or ends. -/
theorem hostResume_idle (none : ∀ e ∈ s.ctxs, e.2.hostReq = none) : hostResume s = s :=
  foldl_idle _ _ _ fun e he t => by rw [none e he]; rfl

theorem linkReset_idle (none : ∀ e ∈ s.ctxs, e.2.hostReq = none) : linkReset s =
    { s with
      extEn := 0
      host := { out := s.host.out, ans := s.host.ans, mbox := s.host.mbox, perst := s.host.perst
                ssvid := (objGet s 0x1E00 3).setWidth 16, ssid := (objGet s 0x1E00 4).setWidth 16 } } :=
  hostResume_idle none

/-- A link that has been trained is trained again with the identifiers that it has. -/
theorem exec_linkTraining_again (released : s.host.perst = false) (up : s.mode ≠ .bringup ∨ s.m.step > 4) (trained : s.host.trained = true) :
    exec .linkTraining s = .next (hostResume (updHost (fun h => { h with link := .active, trained := true }) s)) := by
  have ready : ¬(s.host.perst = true ∨ (s.mode = .bringup ∧ s.m.step ≤ 4)) := by
    rw [released]
    rintro (⟨⟨⟩⟩ | ⟨start, early⟩)
    exact up.elim (· start) (Nat.not_lt.mpr early)
  change execLinkTraining s = _
  rw [execLinkTraining, if_neg ready, if_pos trained]

theorem exec_linkRecovery_enter (active : s.host.link = .active) :
    exec (.linkRecovery true) s = .next (updHost (fun h => { h with link := .recovery }) s) := by
  change execLinkRecovery true s = _
  rw [execLinkRecovery, if_pos rfl, if_pos active]

theorem exec_linkRecovery_leave (recovers : s.host.link = .recovery) :
    exec (.linkRecovery false) s = .next (hostResume (updHost (fun h => { h with link := .active }) s)) := by
  change execLinkRecovery false s = _
  rw [execLinkRecovery, if_neg (by decide), if_pos recovers]

theorem exec_busMasterEnable (v : Bool) (active : s.host.link = .active) (released : s.host.perst = false) :
    exec (.busMasterEnable v) s = .next (hostResume (msixFlush (updHost (fun h => { h with bme := v }) s))) := by
  change Host.Outcome.next (busMaster v s) = _
  rw [busMaster, if_pos (by simp [cfgUp, active, released])]

end

/-- Settles O46: each event is one change of the link, after which the waiting requests are looked at; a reset keeps only what no link domain holds. -/
theorem theLinkChangesItsState : Obligations.TheLinkChangesItsState :=
  fun _ => ⟨rfl, rfl, rfl, rfl, linkReset_idle, exec_linkTraining_again, rfl, exec_linkRecovery_enter, exec_linkRecovery_leave, exec_busMasterEnable⟩

end Sys2Proof.Proofs

/-! SUPPORT. Diagnostics at level VENDOR and the test port (R599, R600, R698, R719). -/

namespace Sys2Proof.Proofs

open Sys2Proof.Machine Sys2Proof.Expected Sys2Proof.Laws

-- one theorem after another: every thread that waits takes a stack of the check's memory
set_option Elab.async false

/-! ## Diagnostics (R698, R699, R719) -/

section
variable {s t : State}

/-- What Capture-DR loads after a command that leaves the address where it is. -/
theorem dbgAns_eq_debugged (cmd : BitVec 4) (stat : Nat) (d : BitVec 64) (t : State) :
    dbgAns cmd stat d t = debugged cmd (BitVec.ofNat 4 stat) d 0 t := by
  have stays (a : BitVec 40) : a + 0 = a := BitVec.add_zero a
  simp only [dbgAns, debugged, stays]

theorem debugs_spec {lvl : Nat} (h : debugs lvl s = true) :
    (s.mode = .bringup → 2 < s.m.step) ∧ lcState s ≠ 4 ∧ lvl ≤ s.m.dbg.level.toNat := by
  simp only [debugs, Bool.and_eq_true, Bool.or_eq_true, decide_eq_true_eq] at h
  obtain ⟨⟨up, lc⟩, level⟩ := h
  exact ⟨fun start => up.resolve_left (not_not.mpr start), lc, level⟩

/-- A command of a sufficient level is performed, and answers. -/
theorem dbgRun_performed {lvl stat : Nat} {cmd : BitVec 4} {d : BitVec 64} {f : State → Nat × BitVec 64 × State} (may : debugs lvl s = true)
    (does : f s = (stat, d, t)) : dbgRun cmd lvl f s = debugged cmd (BitVec.ofNat 4 stat) d 0 t := by
  obtain ⟨up, lc, level⟩ := debugs_spec may
  have past : ¬(s.mode = .bringup ∧ s.m.step = 1) := fun ⟨start, one⟩ => absurd (up start) (by omega)
  have late : (decide (s.mode = .bringup) && decide (s.m.step ≤ 2)) = false := by
    rw [Bool.and_eq_false_imp, decide_eq_true_eq, decide_eq_false_iff_not]
    exact fun start => Nat.not_le.mpr (up start)
  rw [dbgRun, if_neg past, late, Bool.false_and, decide_eq_false lc, if_neg (by simp), if_neg (Nat.not_lt.mpr level), does]
  exact dbgAns_eq_debugged ..

/-- A diagnostic command is performed at level VENDOR: in LC_DEV not while the device sleeps. -/
theorem diagRun_performed {stat : Nat} {cmd : BitVec 4} {d : BitVec 64} {f : State → Nat × BitVec 64 × State} (may : debugs 3 s = true)
    (awake : lcState s ≠ 0 ∨ s.mode ≠ .sleep) (does : f s = (stat, d, t)) : diagRun cmd f s = debugged cmd (BitVec.ofNat 4 stat) d 0 t :=
  dbgRun_performed may (by rw [if_neg (not_and_or.mpr awake), does])

section
variable (may : debugs 3 s = true) (awake : lcState s ≠ 0 ∨ s.mode ≠ .sleep)
include may awake

theorem exec_mcrd {data : BitVec 64} (inside : (data.extractLsb' 0 16).toNat < 0x2100) :
    exec (.mcrd data) s = .next (debugged 0xA 0 ((if (data.extractLsb' 0 16).toNat < 0x2000 then Config.rom (data.extractLsb' 0 16).toNat
      else mapGet 0 s.patch ((data.extractLsb' 0 16).toNat - 0x2000) : BitVec 144).extractLsb' (64 * (data.extractLsb' 16 2).toNat) 64) 0 s) :=
  congrArg Host.Outcome.next (diagRun_performed may awake (by
    rw [bits_toNat, bits_toNat]
    exact if_neg (Nat.not_le.mpr inside)))

theorem exec_injaddr (data : BitVec 64) : exec (.injaddr data) s = .next (debugged 0xB 0 0 0 { s with injAddr := data }) :=
  congrArg Host.Outcome.next (diagRun_performed may awake rfl)

theorem exec_injarm (data : BitVec 64) : exec (.injarm data) s = .next (debugged 0xC 0 0 0 { s with injArmed := some data }) :=
  congrArg Host.Outcome.next (diagRun_performed may awake rfl)

theorem exec_scrub (up : s.mode ≠ .bringup) (wakes : s.mode ≠ .sleep) :
    exec .scrub s = .next (debugged 0xD 0 0 0 (updM (fun m => { m with scrub := 0, scrubFast := true }) s)) :=
  congrArg Host.Outcome.next (diagRun_performed may awake (if_neg (not_or.mpr ⟨up, wakes⟩)))

theorem exec_subst (data : BitVec 64) (up : s.mode ≠ .bringup) (wakes : s.mode ≠ .sleep) : exec (.subst data) s = .next (debugged 0xF 0 0 0
    (updSk (data.extractLsb' 16 5) (fun x => { x with failed := setBit x.failed (data.extractLsb' 0 4).toNat true }) s)) :=
  congrArg Host.Outcome.next (diagRun_performed may awake (by
    rw [bits_toNat]
    exact if_neg (not_or.mpr ⟨up, wakes⟩)))

theorem exec_retclr_refused (shipped : lcState s = 2) : exec .retclr s = .next (debugged 0xE 2 0 0 s) :=
  congrArg Host.Outcome.next (diagRun_performed may awake (if_pos (.inl shipped)))

theorem exec_retclr (other : lcState s ≠ 2) : exec .retclr s = .next (debugged 0xE 0 0 0 (updM (fun m => { m with retClr := true }) s)) := by
  obtain ⟨-, alive, -⟩ := debugs_spec may
  exact congrArg Host.Outcome.next (diagRun_performed may awake (if_neg (not_or.mpr ⟨other, alive⟩)))

end

/-! ## The test port (R599, R600) -/

theorem tapUp_spec (up : s.mode ≠ .bringup ∨ s.m.step ≠ 1) : tapUp s = true := by
  simpa [tapUp] using up

theorem tapIr_loads (up : s.mode ≠ .bringup ∨ s.m.step ≠ 1) (code : BitVec 8) :
    tapIr code s = updM (fun m => { m with tap := { m.tap with ir := code } }) s :=
  if_pos (tapUp_spec up)

section
variable (up : s.mode ≠ .bringup ∨ s.m.step ≠ 1)
include up

/-- EXTEST where it acts takes the value shifted in and captures the pins. -/
theorem exec_extest_acts (acts : scanActs s = true) (v : BitVec 76) :
    exec (.extest (.extest v)) s = .next (updM (fun m => { m with tap := { ir := 0x03, bsr := v, out := scanCapture s } }) s) := by
  change execExtest (.extest v) s = _
  rw [execExtest, tapUp_spec up, if_neg (by decide)]
  exact congrArg Host.Outcome.next (if_pos acts)

/-- Where it does not act it is loaded and acts as BYPASS. -/
theorem exec_extest_bypasses (idle : scanActs s = false) (v : BitVec 76) :
    exec (.extest (.extest v)) s = .next (updM (fun m => { m with tap := { m.tap with ir := 0x03 } }) s) := by
  change execExtest (.extest v) s = _
  rw [execExtest, tapUp_spec up, if_neg (by decide), ← tapIr_loads up]
  exact congrArg Host.Outcome.next (if_neg (Bool.eq_false_iff.mp idle))

theorem exec_extest_preload (v : BitVec 76) :
    exec (.extest (.preload v)) s = .next (updM (fun m => { m with tap := { ir := 0x02, bsr := v, out := scanCapture s } }) s) := by
  change execExtest (.preload v) s = _
  rw [execExtest, tapUp_spec up, if_neg (by decide)]

theorem exec_extest_code (c : BitVec 8) :
    exec (.extest (.code c)) s = .next (updM (fun m => { m with tap := { m.tap with ir := c } }) s) := by
  change execExtest (.code c) s = _
  rw [execExtest, tapUp_spec up, if_neg (by decide), ← tapIr_loads up]

end

/-- Outside BRINGUP and HALT, and below level FULL, the scan drives no pin. -/
theorem pinLevel_own (own : Bool) (cell : Nat) (out : (s.mode ≠ .bringup ∧ s.mode ≠ .halt) ∨ s.m.dbg.level.toNat < 2) :
    pinLevel s cell own = some own := by
  have idle : scanActs s = false := by
    rcases out with ⟨start, halt⟩ | low
    · simp [scanActs, start, halt]
    · simp [scanActs, Nat.not_le.mpr low]
  rw [pinLevel, pinDrive, idle]
  rfl

/-- In HALT at level FULL the scan acts. -/
theorem scanActs_halt (halt : s.mode = .halt) (full : 2 ≤ s.m.dbg.level.toNat) (alive : lcState s ≠ 4) : scanActs s = true := by
  simp [scanActs, halt, full, alive]

/-- EXTEST drives an output pin as its cells of the boundary register say. -/
theorem pinLevel_extest (acts : scanActs s = true) (ir : s.m.tap.ir = 0x03) (cell : Nat) (own : Bool) :
    pinLevel s cell own = if s.m.tap.bsr.getLsbD (cell + 1) then some (s.m.tap.bsr.getLsbD cell) else none := by
  simp [pinLevel, pinDrive, acts, ir]

/-- HIGHZ lets every output pin float. -/
theorem pinLevel_highz (acts : scanActs s = true) (ir : s.m.tap.ir = 0x05) (cell : Nat) (own : Bool) : pinLevel s cell own = none := by
  simp [pinLevel, pinDrive, acts, ir]

end

/-- Settles O59: a diagnostic command of level VENDOR answers with what its row does, and the TAP takes the instruction loaded, which alone with the mode
and the level decides what drives a pin. -/
theorem diagnosticsAndBoundaryScanAct : Obligations.DiagnosticsAndBoundaryScanAct := by
  refine ⟨fun s may => ⟨fun data made inside => exec_mcrd may (.inl made) inside, fun data awake =>
      ⟨exec_injaddr may awake data, exec_injarm may awake data, fun up wakes => ⟨exec_scrub may awake up wakes, exec_subst may awake data up wakes⟩,
        exec_retclr_refused may awake, exec_retclr may awake⟩⟩,
    fun s up => ⟨fun v acts => exec_extest_acts up acts v, fun v idle => exec_extest_bypasses up idle v, exec_extest_preload up, exec_extest_code up,
      congrArg Host.Outcome.next (tapIr_loads up _), congrArg Host.Outcome.next (tapIr_loads up _), congrArg Host.Outcome.next (tapIr_loads up _)⟩,
    fun s cell own out => pinLevel_own own cell out, fun v s t cell own halt full alive => ⟨fun next => ?extest, fun next => ?highz⟩⟩
  case extest =>
    rw [exec_extest_acts (.inl (by simp [halt])) (scanActs_halt halt full alive)] at next
    cases next
    refine pinLevel_extest ?_ rfl cell own
    exact scanActs_halt halt full alive
  case highz =>
    rw [show exec .highz s = .next (tapIr 0x05 s) from rfl, tapIr_loads (.inl (by simp [halt]))] at next
    cases next
    refine pinLevel_highz ?_ rfl cell own
    exact scanActs_halt halt full alive

end Sys2Proof.Proofs

/-! SUPPORT. Requests of the mailbox and of the debug mirror (R675, R700), and writes of the object dictionary by a path (R676, R678). -/

namespace Sys2Proof.Proofs

open Sys2Proof.Machine Sys2Proof.Expected Sys2Proof.Laws

-- one theorem after another: every thread that waits takes a stack of the check's memory
set_option Elab.async false

/-! ## Requests of a mailbox (R675) -/

section
variable {op idx sub len : Nat} {tag : BitVec 16}

theorem toNat_mbReq (ho : op < 2 ^ 8) (hi : idx < 2 ^ 16) (hs : sub < 2 ^ 8) (hl : len < 2 ^ 16) :
    (mbReq op idx sub len tag).toNat = 2 ^ 56 * op + 2 ^ 40 * idx + 2 ^ 32 * sub + 2 ^ 16 * len + tag.toNat := by
  have ht : tag.toNat < 2 ^ 16 := tag.isLt
  simp only [mbReq, pack, List.map_cons, List.map_nil, List.foldl_cons, List.foldl_nil, BitVec.toNat_ofNat]
  omega

/-- The fields of a request are those that it was made of. -/
theorem mbReq_fields {b : Mbox} (req : b.req = mbReq op idx sub len tag) (ho : op < 2 ^ 8) (hi : idx < 2 ^ 16) (hs : sub < 2 ^ 8) (hl : len < 2 ^ 16) :
    mbOp b = op ∧ mbIdx b = idx ∧ mbSub b = sub ∧ mbLen b = len ∧ mbTag b = tag := by
  have ht : tag.toNat < 2 ^ 16 := tag.isLt
  have whole := toNat_mbReq (tag := tag) ho hi hs hl
  simp only [mbOp, mbIdx, mbSub, mbLen, mbTag, req, bits, whole]
  refine ⟨by omega, by omega, by omega, by omega, BitVec.eq_of_toNat_eq ?_⟩
  rw [BitVec.extractLsb'_toNat, whole, Nat.shiftRight_zero]
  omega

end

/-- The leading data bytes read back as they were put. -/
theorem mbPut_data (bs : List (BitVec 8)) (b : Mbox) : ((upto bs.length).map fun i => mapGet 0 (mbPut bs b).data i) = bs := by
  refine List.ext_getElem (by simp [upto]) fun i _ hi => ?_
  simp only [upto, List.getElem_map, List.getElem_range, mbPut]
  rw [mapGet_foldl_zipIdx_from, if_pos (Nat.zero_le i), Nat.sub_zero, List.getElem?_eq_getElem hi, Option.getD_some]

section
variable {p : DPath} {i sub : Nat} {bs : List (BitVec 8)} {ok : Bool} {s t : State} {c : BitVec 32} {tag : BitVec 16}

/-- A write request with its data is served by the write of the object. -/
theorem mbServe_write {b : Mbox} (hi : i < 2 ^ 16) (hs : sub < 2 ^ 8) (some : 0 < bs.length) (fits : bs.length ≤ 4096)
    (hw : dictWrite p i sub bs ok s = (c, t)) :
    mbServe p (mbPut bs { b with req := mbReq 2 i sub bs.length tag }) ok s =
      (finished (mbPut bs { b with req := mbReq 2 i sub bs.length tag }) c, t) := by
  obtain ⟨op, idx, sb, len, -⟩ := mbReq_fields (b := mbPut bs { b with req := mbReq 2 i sub bs.length tag }) rfl (by decide) hi hs
    (by omega : bs.length < 2 ^ 16)
  have served : ¬(bs.length = 0 ∨ bs.length > 4096) := by omega
  rw [mbServe, op, if_neg (by decide), if_pos rfl, len, if_neg served, mbPut_data, idx, sb, hw]
  rfl

/-- A completed request stands in the mailbox; with IEN it sends its message, once MSI-X can be programmed (R722). -/
theorem mailboxGo_write {b : Mbox} {a : State} (ha : a = updHost (fun h => { h with mbox := mbPut bs { b with req := mbReq 2 i sub bs.length tag } }) s)
    (hi : i < 2 ^ 16) (hs : sub < 2 ^ 8) (some : 0 < bs.length) (fits : bs.length ≤ 4096) (hw : dictWrite .mailbox i sub bs ok a = (c, t)) :
    mailboxGo ok a = Expected.answer .mailbox a c t := by
  have box : a.host.mbox = mbPut bs { b with req := mbReq 2 i sub bs.length tag } := by rw [ha]; rfl
  rw [mailboxGo, box, mbServe_write hi hs some fits hw, ← box]
  rfl

/-! ## Writes by a path (R676, R678, R699, R700) -/

/-- An object that a write of so many bytes fits. -/
structure Writable (i sub n : Nat) : Prop where
  bounds : i < 2 ^ 16 ∧ sub < 2 ^ 8 ∧ 0 < n ∧ n ≤ 4096
  info : ∃ o, objInfo i sub = some o ∧ (o.acc = .rw ∨ o.acc = .wo) ∧ (o.sz = 0 ∨ o.sz = n)

theorem objHigh_of_objInfo {o : OInfo} (info : objInfo i sub = some o) : ¬(objHigh i).isNone = true := by
  intro none
  unfold objInfo at info
  rw [Option.isNone_iff_eq_none.mp none] at info
  cases info

/-- A path that serves writes now. -/
def serves (p : DPath) (s : State) : Bool :=
  match p with
  | .can => canServes s
  | .mailbox => mailboxUp s
  | .debug => mirrorWrites s

theorem takes_eq : takes p i sub s = (decide (lcState s ≠ 4) && !s.m.wrlock.getLsbD (pathBit p) && writeAvail s i sub && serves p s) := by
  cases p <;> rfl

theorem takes_spec (may : takes p i sub s = true) : lcState s ≠ 4 ∧ s.m.wrlock.getLsbD (pathBit p) = false ∧ writeAvail s i sub = true ∧
    serves p s = true := by
  rw [takes_eq] at may
  simpa only [Bool.and_eq_true, decide_eq_true_eq, Bool.not_eq_true', and_assoc] using may

theorem lcState_asked : lcState (asked p i sub bs s) = lcState s := by cases p <;> rfl

/-- The request that stands in a path's registers changes nothing that the write's conditions ask for. -/
theorem asked_conditions : (asked p i sub bs s).m.wrlock = s.m.wrlock ∧ writeAvail (asked p i sub bs s) i sub = writeAvail s i sub := by
  cases p <;> exact ⟨rfl, rfl⟩

/-- A write that the path takes has the effect of its object. -/
theorem dictWrite_taken (may : takes p i sub s = true) (fit : Writable i sub bs.length) :
    dictWrite p i sub bs ok (asked p i sub bs s) = objWrite p i sub bs ok (asked p i sub bs s) := by
  obtain ⟨alive, unlocked, avail, -⟩ := takes_spec may
  obtain ⟨lock, available⟩ := asked_conditions (p := p) (i := i) (sub := sub) (bs := bs) (s := s)
  obtain ⟨o, info, acc, size⟩ := fit.info
  have writes : ¬(o.acc = .ro ∨ o.acc = .const ∨ o.acc = .rc) := by rcases acc with acc | acc <;> simp [acc]
  have length : (if o.sz = 0 then decide (4096 < bs.length) else decide (bs.length ≠ o.sz)) = false := by
    have small := fit.bounds
    split <;> simp <;> omega
  rw [dictWrite, lcState_asked, if_neg alive, if_neg (objHigh_of_objInfo info), info]
  simp only [writes, lock, unlocked, available, avail, length, if_false, Bool.false_eq_true, Bool.not_true]

/-- A write that a path takes is answered with the abort code of its object's effect. -/
theorem pathWrite_answers (may : takes p i sub s = true) (fit : Writable i sub bs.length)
    (effect : objWrite p i sub bs ok (asked p i sub bs s) = (c, t)) :
    pathWrite p i sub bs ok s = Expected.answer p (asked p i sub bs s) c t := by
  have written := (dictWrite_taken may fit).trans effect
  obtain ⟨-, -, -, up⟩ := takes_spec may
  obtain ⟨idx, sb, pos, fits⟩ := fit.bounds
  cases p with
  | can =>
    rw [pathWrite, show canServes s = true from up, if_neg (by decide), show dictWrite .can i sub bs ok s = (c, t) from written]
    rfl
  | mailbox =>
    rw [pathWrite, show mailboxUp s = true from up, if_neg (by decide)]
    exact mailboxGo_write rfl idx sb pos fits written
  | debug =>
    have mirror : (asked .debug i sub bs s).m.dbg.mirror = mbPut bs { s.m.dbg.mirror with req := mbReq 2 i sub bs.length 0 } := rfl
    rw [pathWrite, show mirrorWrites s = true from up, if_neg (by decide)]
    change mirrorGo ok (asked .debug i sub bs s) = _
    rw [mirrorGo, mirror, mbServe_write idx sb pos fits written, ← mirror]
    rfl

/-- A write of an object that succeeds. -/
theorem pathWrite_wrote {f : State → State} (may : takes p i sub s = true) (fit : Writable i sub bs.length)
    (effect : objWrite p i sub bs ok (asked p i sub bs s) = (0, f (asked p i sub bs s))) :
    pathWrite p i sub bs ok s = wrote p i sub bs f s :=
  pathWrite_answers may fit effect

end

end Sys2Proof.Proofs

/-! SUPPORT. Effects of dictionary commands (R661, R664, R669, R670, R676, R693, R703). -/

namespace Sys2Proof.Proofs

open Sys2Proof.Machine Sys2Proof.Expected Sys2Proof.Laws

-- one theorem after another: every thread that waits takes a stack of the check's memory
set_option Elab.async false

section
variable {p : DPath} {i sub : Nat} {bs : List (BitVec 8)} {s : State}

@[simp] theorem asked_pwr : (asked p i sub bs s).m.pwr = s.m.pwr := by cases p <;> rfl
@[simp] theorem asked_att : (asked p i sub bs s).m.att = s.m.att := by cases p <;> rfl

/-! ## Effects of dictionary commands (R661, R664, R669, R670, R676, R693) -/

theorem objWrite_store (ok : Bool) : objWrite p 0x1010 1 [0x73, 0x61, 0x76, 0x65] ok s = storeParams ok s := rfl

theorem storeParams_inhibited (ok : Bool) (inhibit : s.m.pwr.inhibit = true) : storeParams ok s = (0x08000020, s) := by
  rw [storeParams, inhibit]
  rfl

theorem objWrite_restore (free : s.m.pwr.inhibit = false) :
    objWrite p 0x1011 1 [0x6C, 0x6F, 0x61, 0x64] true s = (0, updM (fun m => { m with loadMark := true }) s) := by
  change (if s.m.pwr.inhibit = true then _ else _) = _
  rw [free, if_neg (by decide)]

theorem objWrite_history : objWrite p 0x1003 0 [0] true s = (0, updM (fun m => { m with hist := [] }) s) := rfl

theorem objWrite_logclr (free : s.m.pwr.inhibit = false) :
    objWrite p 0x2402 2 [0x63, 0x6C, 0x61, 0x72] true s = (0, { s with log := [] }) := by
  change (if s.m.pwr.inhibit = true then _ else _) = _
  rw [free, if_neg (by decide)]

theorem leNat_single (v : BitVec 8) : (BitVec.ofNat 64 (leNat [v])).setWidth 8 = v := by
  have small : v.toNat < 2 ^ 8 := v.isLt
  apply BitVec.eq_of_toNat_eq
  simp only [leNat, BitVec.toNat_setWidth, BitVec.toNat_ofNat]
  omega

theorem objWrite_wrlock (v : BitVec 8) :
    objWrite p 0x2002 1 [v] true s = (0, updM (fun m => { m with wrlock := (v &&& 7) ||| (m.wrlock &&& setBit 0 (pathBit p) true) }) s) := by
  change ((0 : BitVec 32), wrlockSet p ((BitVec.ofNat 64 (leNat [v])).setWidth 8) s) = _
  rw [leNat_single]
  rfl

theorem nonceWrite_starts (idle : s.m.att.astat ≠ 1) (identity : hasIdentity (lcState s) = true) :
    nonceWrite bs s = (0, updM (fun m => { m with att := { m.att with astat := 1, snap := reportBytes s bs } }) s) := by
  rw [nonceWrite, if_neg idle, identity]
  rfl

theorem certWrite_stores (early : lcState s ≤ 1) (free : s.m.pwr.inhibit = false) (pos : 0 < bs.length)
    (room : s.m.att.certOff.toNat + bs.length ≤ 20480) :
    certWrite bs s = (0, updM (fun m => { m with att := { m.att with
      cert := bs.zipIdx.foldl (fun c e => mapSet 0 c (m.att.certOff.toNat + e.2) e.1) m.att.cert
      certLen := BitVec.ofNat 16 (max m.att.certLen.toNat (m.att.certOff.toNat + bs.length)) } }) s) := by
  have full : ¬bs.isEmpty = true := by simpa using List.ne_nil_of_length_pos pos
  rw [certWrite, if_neg (by omega), free, if_neg (by decide), if_neg (by omega)]
  simp only [full, Bool.false_eq_true, if_false]
  rfl

theorem length_leBytes (n v : Nat) : (leBytes n v).length = n := by
  induction n generalizing v with
  | zero => rfl
  | succ n ih => rw [leBytes, List.length_cons, ih]

end

/-- Settles O50: each command is the write of its object by a path that takes it, answered with the abort code that the object's effect has. -/
theorem dictionaryCommandsTakeEffect : Obligations.DictionaryCommandsTakeEffect := by
  intro p s
  refine ⟨fun may free => ?store, fun may inhibit => ?inhibited, fun may free => ?restore, fun may => ?history, fun may free => ?log,
    fun v may => ?lock, fun v may idle identity => ?nonce, fun d may early free pos fits room => ?cert, fun may => ?session⟩ <;>
    refine congrArg Host.Outcome.next ?_
  case store =>
    refine pathWrite_wrote may ⟨by decide, _, rfl, by decide, by decide⟩ ?_
    rw [objWrite_store, storeParams, asked_pwr, free]
    rfl
  case inhibited =>
    refine pathWrite_answers may ⟨by decide, _, rfl, by decide, by decide⟩ ?_
    rw [objWrite_store, storeParams_inhibited _ (by rwa [asked_pwr])]
  case restore =>
    exact pathWrite_wrote may ⟨by decide, _, rfl, by decide, by decide⟩ (objWrite_restore (by rwa [asked_pwr]))
  case history =>
    exact pathWrite_wrote may ⟨by decide, _, rfl, by decide, by decide⟩ objWrite_history
  case log =>
    exact pathWrite_wrote may ⟨by decide, _, rfl, by decide, by decide⟩ (objWrite_logclr (by rwa [asked_pwr]))
  case lock =>
    exact pathWrite_wrote may ⟨by simp, _, rfl, by decide, by simp⟩ (objWrite_wrlock v)
  case nonce =>
    refine pathWrite_wrote may ⟨?_, _, rfl, by decide, ?_⟩
      (nonceWrite_starts (by rwa [asked_att]) (by rwa [lcState_asked])) <;> simp [length_leBytes]
  case cert =>
    exact pathWrite_wrote may ⟨⟨by decide, by decide, pos, fits⟩, _, rfl, by decide, .inl rfl⟩
      (certWrite_stores (by rwa [lcState_asked]) (by rwa [asked_pwr]) pos (by rwa [asked_att]))
  case session =>
    exact pathWrite_wrote may ⟨by decide, _, rfl, by decide, by decide⟩ rfl

end Sys2Proof.Proofs

/-! SUPPORT. Fuse writes that start and end, and attestation (R682 to R689, R693). -/

namespace Sys2Proof.Proofs

open Sys2Proof.Machine Sys2Proof.Expected Sys2Proof.Laws

-- one theorem after another: every thread that waits takes a stack of the check's memory
set_option Elab.async false

section
variable {p : DPath} {i sub : Nat} {bs : List (BitVec 8)} {s : State}

@[simp] theorem asked_fuses : (asked p i sub bs s).m.fuses = s.m.fuses := by cases p <;> rfl
@[simp] theorem asked_fuseW : (asked p i sub bs s).m.fuseW = s.m.fuseW := by cases p <;> rfl
@[simp] theorem asked_patch : (asked p i sub bs s).m.patch = s.m.patch := by cases p <;> rfl
@[simp] theorem asked_pgen : (asked p i sub bs s).pgen = s.pgen := by cases p <;> rfl
@[simp] theorem asked_mode : (asked p i sub bs s).mode = s.mode := by cases p <;> rfl
@[simp] theorem asked_perm : (asked p i sub bs s).m.dbg.perm = s.m.dbg.perm := by cases p <;> rfl

theorem fusable_asked : fusable (asked p i sub bs s) = fusable s := by simp only [fusable, asked_pwr, asked_fuseW]

/-! ## Fuse writes that start (R682 to R689) -/

theorem fuseStart_fusable (free : fusable s = true) (o : FuseOp) : fuseStart o s = (0, fusing o s) := by
  simp only [fusable, Bool.and_eq_true, Bool.not_eq_true', Option.isNone_iff_eq_none] at free
  obtain ⟨inhibit, idle⟩ := free
  rw [fuseStart, inhibit, idle]
  rfl

/-- A number is read back from its bytes. -/
theorem leNat_leBytes (n v : Nat) : leNat (leBytes n v) = v % 2 ^ (8 * n) := by
  induction n generalizing v with
  | zero => simp [leBytes, leNat, Nat.mod_one]
  | succ n ih =>
    rw [leBytes, leNat, ih, BitVec.toNat_ofNat, Nat.mul_succ, Nat.add_comm (8 * n), Nat.pow_add, Nat.mod_mul]

/-- A lifecycle request of 5 bytes: its code and its serial number. -/
theorem objWrite_lc {code : Nat} {v : BitVec 32} (small : code < 2 ^ 8) :
    objWrite p 0x2800 2 (BitVec.ofNat 8 code :: leBytes 4 v.toNat) true s = lcRequest p code v s := by
  have number : BitVec.ofNat 32 (leNat (leBytes 4 v.toNat)) = v := by
    rw [leNat_leBytes, Nat.mod_eq_of_lt v.isLt, BitVec.ofNat_toNat, BitVec.setWidth_eq]
  have first : (BitVec.ofNat 8 code).toNat = code := by rw [BitVec.toNat_ofNat, Nat.mod_eq_of_lt small]
  change lcRequest p (BitVec.ofNat 8 code).toNat (BitVec.ofNat 32 (leNat (leBytes 4 v.toNat))) s = _
  rw [number, first]

section
variable (free : fusable s = true) (mode : s.mode = .bringup ∨ s.mode = .standby)
include free mode

theorem lcRequest_dev (made : lcState s = 0) (keys : s.m.fuses.keys = true) : lcRequest .debug 1 0 s = (0, fusing (.lc 0) s) := by
  simp [lcRequest, made, keys, mode, fuseStart_fusable free]

theorem lcRequest_prod (from_ : lcState s = 1) (path : p ≠ .can) : lcRequest p 2 Config.serial s = (0, fusing (.lc 1) s) := by
  simp [lcRequest, from_, path, mode, fuseStart_fusable free]

theorem lcRequest_return (from_ : lcState s = 2) (perm : s.m.dbg.perm = true) : lcRequest .debug 3 0 s = (0, fusing (.lc 2) s) := by
  simp [lcRequest, from_, perm, mode, fuseStart_fusable free]

theorem lcRequest_end (alive : lcState s ≠ 4) (path : p ≠ .can) :
    lcRequest p 4 (Config.serial ^^^ 0x454E4421) s = (0, fusing (.lc 3) s) := by
  simp [lcRequest, alive, path, mode, fuseStart_fusable free]

end

theorem svnCommit_starts (free : fusable s = true) {v : Nat} (idle : s.m.patch.busy = false) (loaded : s.pgen ≠ 0)
    (patched : v ≤ s.m.patch.psvn.toNat) (rises : s.m.fuses.svn < v) (fits : v ≤ 64) : svnCommit v s = (0, fusing (.svn v) s) := by
  have range : ¬(s.pgen = 0 ∨ v > s.m.patch.psvn.toNat ∨ v ≤ s.m.fuses.svn ∨ v > 64) := by
    rintro (none | high | low | big)
    · exact loaded none
    all_goals omega
  rw [svnCommit, idle, if_neg (by decide), if_neg range, fuseStart_fusable free]

theorem odkhSet_starts (free : fusable s = true) (v : BitVec 256) (unset : s.m.fuses.odkh = none) (state : lcState s = 1 ∨ lcState s = 2) :
    odkhSet v s = (0, fusing (.odkh v) s) := by
  have allowed : ¬(lcState s ≠ 1 ∧ lcState s ≠ 2) := by omega
  rw [odkhSet, unset, if_neg (by decide), if_neg allowed, fuseStart_fusable free]

theorem policySet_starts (free : fusable s = true) (v : BitVec 8) (path : p ≠ .can) (state : lcState s = 1 ∨ lcState s = 2) :
    policySet p v s = (0, fusing (.policy v) s) := by
  have allowed : ¬(p = .can ∨ (lcState s ≠ 1 ∧ lcState s ≠ 2)) := by
    rintro (can | other)
    · exact path can
    · omega
  rw [policySet, if_neg allowed, fuseStart_fusable free]

/-! ## Fuse writes that end (R682 to R684) -/

/-- Both fuses of a pair above the state blown give the state of the pair. -/
theorem lcOf_blown : ∀ i < 4, ∀ v : BitVec 8, lcOf v < i + 1 → lcOf (setBit (setBit v (2 * i) true) (2 * i + 1) true) = i + 1 := by
  decide +kernel

/-- A transition that takes effect keeps the fuses, the state of the fuse writes and memory, and ends the session (R684). -/
theorem lcEffect_spec (s : State) : (lcEffect s).m.fuses = s.m.fuses ∧ (lcEffect s).m.fuseW = s.m.fuseW ∧
    (lcEffect s).m.dbg.level = openLevel (lcOf s.m.fuses.lc) ∧ (lcEffect s).mem = s.mem := by
  unfold lcEffect
  extract_lets ended cleared
  have fuses : cleared.m.fuses = s.m.fuses := rfl
  have writes : cleared.m.fuseW = s.m.fuseW := rfl
  have level : cleared.m.dbg.level = openLevel (lcOf s.m.fuses.lc) := rfl
  have mem : cleared.mem = s.mem := (updM_mem ..).trans (updM_mem ..)
  by_cases scrapped : lcState cleared = 3
  · rw [if_pos scrapped, updM_mem]
    exact ⟨fuses, writes, level, mem⟩
  · rw [if_neg scrapped]
    exact ⟨fuses, writes, level, mem⟩

theorem exec_fuseWriteComplete_svn {v : Nat} (writing : s.m.fuseW = some (.svn v)) : exec (.fuseWriteComplete true) s =
    .next (updM (fun m => { m with fuseW := none, fuses := { m.fuses with svn := v } }) s) := by
  change Host.Outcome.next (fuseEnd true s) = _
  rw [fuseEnd, writing]
  rfl

theorem exec_fuseWriteComplete_policy {v : BitVec 8} (writing : s.m.fuseW = some (.policy v)) : exec (.fuseWriteComplete true) s =
    .next (updM (fun m => { m with fuseW := none, fuses := { m.fuses with policy := m.fuses.policy ||| v } }) s) := by
  change Host.Outcome.next (fuseEnd true s) = _
  rw [fuseEnd, writing]
  rfl

theorem exec_fuseWriteComplete_odkh {v : BitVec 256} (writing : s.m.fuseW = some (.odkh v)) : exec (.fuseWriteComplete true) s =
    .next (updM (fun m => { m with fuseW := none, fuses := { m.fuses with odkh := some v } }) s) := by
  change Host.Outcome.next (fuseEnd true s) = _
  rw [fuseEnd, writing]
  rfl

/-- The fuse pair of a lifecycle state is blown, with no write in progress. -/
def pairBlown (i : Nat) (s : State) : State :=
  updM (fun m => { m with fuses := { m.fuses with lc := setBit (setBit m.fuses.lc (2 * i) true) (2 * i + 1) true } })
    (updM (fun m => { m with fuseW := none }) s)

theorem exec_fuseWriteComplete_lc {i : Nat} (writing : s.m.fuseW = some (.lc i)) (above : lcState s < i + 1) (hi : i < 4) :
    exec (.fuseWriteComplete true) s = .next (lcEffect (pairBlown i s)) := by
  have blown : lcState (pairBlown i s) = i + 1 := lcOf_blown i hi _ above
  have moved : lcState (pairBlown i s) ≠ lcState s := by omega
  change Host.Outcome.next (fuseEnd true s) = _
  rw [fuseEnd, writing]
  exact congrArg Host.Outcome.next (if_neg moved)

end

/-- Settles O52: each request is the write of its object by a path that takes it, whose checks pass, so that its fuse write starts; a fuse write that ends
blows its fuses, and a new lifecycle state ends the session. -/
theorem fusesAndReportsTakeEffect : Obligations.FusesAndReportsTakeEffect := by
  refine ⟨⟨fun p s free => ⟨fun may mode made keys => ?dev, fun may mode state path => ?prod, fun may mode state perm => ?return_,
      fun may mode path => ?end_, fun v may idle loaded patched rises fits => ?svn, fun v may unset state => ?odkh, fun v may path state => ?policy⟩,
    fun s => ⟨fun v => exec_fuseWriteComplete_svn, fun v => exec_fuseWriteComplete_policy, fun v => exec_fuseWriteComplete_odkh,
      fun i writing above hi => ?complete⟩⟩, fun s => ⟨fun signing => ?signed, fun other => ?idle⟩⟩
  case dev =>
    refine congrArg Host.Outcome.next (pathWrite_wrote may ⟨by decide, _, rfl, by decide, by decide⟩ ((objWrite_lc (v := 0) (by decide)).trans ?_))
    exact lcRequest_dev (by rwa [fusable_asked]) (by rwa [asked_mode]) (by rwa [lcState_asked]) (by rwa [asked_fuses])
  case prod =>
    refine congrArg Host.Outcome.next (pathWrite_wrote may ⟨by decide, _, rfl, by decide, by decide⟩ ((objWrite_lc (by decide)).trans ?_))
    exact lcRequest_prod (by rwa [fusable_asked]) (by rwa [asked_mode]) (by rwa [lcState_asked]) path
  case return_ =>
    refine congrArg Host.Outcome.next (pathWrite_wrote may ⟨by decide, _, rfl, by decide, by decide⟩ ((objWrite_lc (v := 0) (by decide)).trans ?_))
    exact lcRequest_return (by rwa [fusable_asked]) (by rwa [asked_mode]) (by rwa [lcState_asked]) (by rwa [asked_perm])
  case end_ =>
    obtain ⟨alive, -⟩ := takes_spec may
    refine congrArg Host.Outcome.next (pathWrite_wrote may ⟨by decide, _, rfl, by decide, by decide⟩ ((objWrite_lc (by decide)).trans ?_))
    exact lcRequest_end (by rwa [fusable_asked]) (by rwa [asked_mode]) (by rwa [lcState_asked]) path
  case svn =>
    refine congrArg Host.Outcome.next (pathWrite_wrote may ⟨by simp, _, rfl, by decide, by simp⟩ ?_)
    exact svnCommit_starts (by rwa [fusable_asked]) (by rwa [asked_patch]) (by rwa [asked_pgen]) (by rwa [asked_patch]) (by rwa [asked_fuses]) fits
  case odkh =>
    have size : (leBytes 32 v.toNat).length = 32 := length_leBytes ..
    refine congrArg Host.Outcome.next (pathWrite_wrote may ⟨by simp [size], _, rfl, by decide, .inr size.symm⟩ ?_)
    change odkhSet (BitVec.ofNat 256 (leNat (leBytes 32 v.toNat))) _ = _
    rw [leNat_leBytes, Nat.mod_eq_of_lt v.isLt, BitVec.ofNat_toNat, BitVec.setWidth_eq]
    exact odkhSet_starts (by rwa [fusable_asked]) v (by rwa [asked_fuses]) (by rwa [lcState_asked])
  case policy =>
    refine congrArg Host.Outcome.next (pathWrite_wrote may ⟨by simp, _, rfl, by decide, by simp⟩ ?_)
    change policySet p ((BitVec.ofNat 64 (leNat [v])).setWidth 8) _ = _
    rw [leNat_single]
    exact policySet_starts (by rwa [fusable_asked]) v path (by rwa [lcState_asked])
  case complete =>
    have blown : lcState (pairBlown i s) = i + 1 := lcOf_blown i hi _ above
    obtain ⟨fuses, writes, level, mem⟩ := lcEffect_spec (pairBlown i s)
    refine ⟨_, exec_fuseWriteComplete_lc writing above hi, ?state, level.trans (congrArg openLevel blown), writes, ?mem⟩
    case state => rw [lcState, fuses, ← lcState, blown]
    case mem => rw [mem, pairBlown, updM_mem, updM_mem]
  case signed => exact congrArg Host.Outcome.next (if_neg (not_not.mpr signing))
  case idle => exact congrArg Host.Outcome.next (if_pos other)

end Sys2Proof.Proofs

/-! SUPPORT. USDO sessions and the mailbox: one branch of the port or of the mailbox for each request (R672, R675) -/

namespace Sys2Proof.Proofs

open Sys2Proof.Machine Sys2Proof.Expected Sys2Proof.Laws

-- one theorem after another: every thread that waits takes a stack of the check's memory
set_option Elab.async false

/-! ## USDO sessions (R672) -/

section
variable {sid : BitVec 8} {s t : State} {i : BitVec 16} {sub : BitVec 8} {len : Nat} {d : List (BitVec 8)} {c : BitVec 32} {u : Usdo}

/-- A served session is one of four, or a new one beside at most three. -/
theorem usdoServed_spec (ok : usdoServed sid s = true) :
    canServes s = true ∧ (decide (s.m.usdo.length ≥ 4) && (usdoFind s sid).isNone) = false := by
  simp only [usdoServed, Bool.and_eq_true, Bool.or_eq_true, decide_eq_true_eq] at ok
  obtain ⟨up, few | known⟩ := ok
  · exact ⟨up, by simp [few]⟩
  · exact ⟨up, by rw [Bool.and_eq_false_imp]; intro _; rw [← Option.not_isSome, known]; rfl⟩

theorem exec_usdoRequest_read {a : DictAns} (ok : usdoServed sid s = true) (reads : dictRead i.toNat sub.toNat none s = (a, t)) :
    exec (.usdoRequest sid (.read i sub)) s = .next (if a.abort ≠ 0 ∨ a.data.length ≤ 8 then usdoAnswer a (usdoDrop sid t)
      else usdoAnswer {} (usdoOpen { id := sid, idx := i, sub := sub, write := false, len := a.data.length, data := a.data } t)) := by
  obtain ⟨up, room⟩ := usdoServed_spec ok
  change execUsdoRequest sid (.read i sub) s = _
  simp only [execUsdoRequest, up, room, reads, Bool.not_true, Bool.false_eq_true, if_false]

theorem exec_usdoRequest_write_short (ok : usdoServed sid s = true) (short : len ≤ 8)
    (writes : dictWrite .can i.toNat sub.toNat d true (usdoDrop sid s) = (c, t)) :
    exec (.usdoRequest sid (.write i sub len d)) s = .next (usdoAnswer { abort := c } t) := by
  obtain ⟨up, room⟩ := usdoServed_spec ok
  change execUsdoRequest sid (.write i sub len d) s = _
  simp only [execUsdoRequest, up, room, short, writes, Bool.not_true, Bool.false_eq_true, if_false, if_true]

theorem exec_usdoRequest_write_long (ok : usdoServed sid s = true) (long : 8 < len) :
    exec (.usdoRequest sid (.write i sub len d)) s = .next (usdoAnswer {}
      (usdoOpen { id := sid, idx := i, sub := sub, write := true, len := len, data := d } s)) := by
  obtain ⟨up, room⟩ := usdoServed_spec ok
  change execUsdoRequest sid (.write i sub len d) s = _
  simp only [execUsdoRequest, up, room, Nat.not_le.mpr long, Bool.not_true, Bool.false_eq_true, if_false]

/-- A fifth session is refused. -/
theorem exec_usdoRequest_full (up : canServes s = true) (full : 4 ≤ s.m.usdo.length) (new : usdoFind s sid = none) :
    exec (.usdoRequest sid (.read i sub)) s = .next (usdoAnswer { abort := 0x05040005 } s) := by
  change execUsdoRequest sid (.read i sub) s = _
  simp [execUsdoRequest, up, full, new]

section
variable (up : canServes s = true) (known : usdoFind s sid = some u)
include up known

theorem exec_usdoRequest_segRead (n : Nat) (reads : u.write = false) :
    exec (.usdoRequest sid (.segRead n)) s = .next (if u.data.length ≤ n then usdoDrop sid (usdoAnswer { data := u.data.take n } s)
      else usdoOpen { u with data := u.data.drop n } (usdoAnswer { data := u.data.take n } s)) := by
  change execUsdoRequest sid (.segRead n) s = _
  simp only [execUsdoRequest, up, known, reads, Bool.not_true, Bool.false_eq_true, if_false]

theorem exec_usdoRequest_segWrite_more (d : List (BitVec 8)) (writes : u.write = true) :
    exec (.usdoRequest sid (.segWrite d false)) s = .next (usdoAnswer {} (usdoOpen { u with data := u.data ++ d } s)) := by
  change execUsdoRequest sid (.segWrite d false) s = _
  simp only [execUsdoRequest, up, known, writes, Bool.not_true, Bool.not_false, Bool.false_eq_true, if_false, if_true]

theorem exec_usdoRequest_segWrite_last (writes : u.write = true) (whole : (u.data ++ d).length = u.len)
    (done : dictWrite .can u.idx.toNat u.sub.toNat (u.data ++ d) true (usdoDrop sid s) = (c, t)) :
    exec (.usdoRequest sid (.segWrite d true)) s = .next (usdoAnswer { abort := c } t) := by
  change execUsdoRequest sid (.segWrite d true) s = _
  simp only [execUsdoRequest, up, known, writes, whole, done, ne_eq, not_true_eq_false, Bool.not_true, Bool.false_eq_true, if_false]

theorem exec_usdoSessionTimeout (late : u.due ≤ s.m.clock) :
    exec (.usdoSessionTimeout sid) s = .next (usdoAnswer { abort := 0x05040000 } (usdoDrop sid s)) := by
  change execUsdoSessionTimeout sid s = _
  simp only [execUsdoSessionTimeout, known, Nat.not_lt.mpr late, up, if_false, if_true]

end

/-! ## The mailbox (R675) -/

/-- The server refuses a write of no data. -/
theorem mailboxGo_empty {ok : Bool} (op : mbOp s.host.mbox = 2) (len : mbLen s.host.mbox = 0) (quiet : s.host.mbox.ien = false) :
    mailboxGo ok s = updHost (fun h => { h with mbox := finished h.mbox 0x06070010 }) s := by
  have served : mbServe .mailbox s.host.mbox ok s = (finished s.host.mbox 0x06070010, s) := by simp [mbServe, op, len, finished]
  rw [mailboxGo, served]
  simp only [finished, updHost, quiet, Bool.false_and, Bool.false_eq_true, if_false]

section
variable {tag : BitVec 16} (up : mailboxUp s = true) (quiet : s.host.mbox.ien = false)
include up quiet

theorem exec_mailboxRead {n : BitVec 16} {a : DictAns} {v : State}
    (hv : v = updHost (fun h => { h with mbox := { h.mbox with req := mbReq 1 i.toNat sub.toNat n.toNat tag } }) s)
    (reads : dictRead i.toNat sub.toNat (some (min 4096 n.toNat)) v = (a, t)) :
    exec (.mailboxRead i sub n tag) s = .next (updHost (fun h =>
      { h with mbox :=
          { mbPut a.data v.host.mbox with done := true, rlen := BitVec.ofNat 13 a.data.length, abort := a.abort, tag := tag } }) t) := by
  have req : v.host.mbox.req = mbReq 1 i.toNat sub.toNat n.toNat tag := by rw [hv]; rfl
  have ien : (mbPut a.data v.host.mbox).ien = false := by rw [hv]; exact quiet
  obtain ⟨op, idx, sb, ln, tg⟩ := mbReq_fields req (by decide) i.isLt sub.isLt n.isLt
  have tg' : mbTag (mbPut a.data v.host.mbox) = tag := tg
  change execMailboxRead i sub n tag s = _
  rw [execMailboxRead, up, if_neg (by decide), ← hv, mailboxGo, mbServe]
  simp only [op, idx, sb, ln, reads, tg', ien, if_true, Bool.false_and, Bool.false_eq_true, if_false]

/-- Without IEN a completed write only stands in the mailbox. -/
theorem exec_mailboxWrite {v : State} (some : 0 < d.length) (fits : d.length ≤ 4096)
    (hv : v = updHost (fun h => { h with mbox := mbPut d { h.mbox with req := mbReq 2 i.toNat sub.toNat d.length tag } }) s)
    (writes : dictWrite .mailbox i.toNat sub.toNat d true v = (c, t)) :
    exec (.mailboxWrite i sub tag d) s = .next (updHost (fun h => { h with mbox := finished v.host.mbox c }) t) := by
  have ien : v.host.mbox.ien = false := by rw [hv]; exact quiet
  change execMailboxWrite i sub tag d s = _
  rw [execMailboxWrite, up, if_neg (by decide), Nat.mod_eq_of_lt (by omega), ← hv, mailboxGo_write (b := s.host.mbox) hv i.isLt sub.isLt some fits writes]
  simp only [Expected.answer, ien, Bool.false_and, Bool.false_eq_true, if_false]

/-- A write of no data. -/
theorem exec_mailboxWrite_empty : exec (.mailboxWrite i sub tag []) s = .next (updHost (fun h =>
    { h with mbox := finished { h.mbox with req := mbReq 2 i.toNat sub.toNat 0 tag } 0x06070010 }) s) := by
  obtain ⟨op, -, -, len, -⟩ := mbReq_fields (b := { s.host.mbox with req := mbReq 2 i.toNat sub.toNat 0 tag }) rfl (by decide) i.isLt sub.isLt
    (by decide)
  change execMailboxWrite i sub tag [] s = _
  rw [execMailboxWrite, up, if_neg (by decide)]
  exact congrArg Host.Outcome.next (mailboxGo_empty op len quiet)

end

end

/-- Settles O48: a request of a session is one branch of the port, which the session and the length choose; a mailbox request is read back from its
register and served, and its result stands in the mailbox. -/
theorem canAndMailboxRequestsAreServed : Obligations.CanAndMailboxRequestsAreServed := by
  refine ⟨fun sid s => ⟨fun i sub a t ok reads => ⟨fun short => ?short, fun sound long => ?long⟩,
      fun i sub len d c t => exec_usdoRequest_write_short, fun i sub len d => exec_usdoRequest_write_long, fun i sub => exec_usdoRequest_full,
      fun u n up known => exec_usdoRequest_segRead up known n,
      fun u d up known writes => ⟨exec_usdoRequest_segWrite_more up known d writes, fun c t => exec_usdoRequest_segWrite_last up known writes⟩,
      fun u up known => exec_usdoSessionTimeout up known⟩,
    fun i sub tag s up quiet => ⟨fun len a t reads => exec_mailboxRead up quiet rfl reads,
      fun d c t some fits writes => exec_mailboxWrite up quiet some fits rfl writes, exec_mailboxWrite_empty up quiet⟩⟩
  case short => rw [exec_usdoRequest_read ok reads, if_pos short]
  case long => rw [exec_usdoRequest_read ok reads, if_neg (by simp [sound, long])]

end Sys2Proof.Proofs

/-! SUPPORT. NMT commands, the heartbeat, emergencies and fault confinement (R597, R672, R674) -/

namespace Sys2Proof.Proofs

open Sys2Proof.Machine Sys2Proof.Expected Sys2Proof.Laws

-- one theorem after another: every thread that waits takes a stack of the check's memory
set_option Elab.async false

section
variable {s : State}

/-! ## NMT commands and the heartbeat (R672) -/

/-- A command for node 0 or for the port's own node acts. -/
theorem nmtDo_own {node : BitVec 8} (up : canSends s = true) (own : node = 0 ∨ node = s.m.canNode) (f : State → State) : nmtDo node f s = f s := by
  rw [nmtDo, if_pos ⟨up, own⟩]

/-- A command for another node does not. -/
theorem nmtDo_other {node : BitVec 8} (all : node ≠ 0) (other : node ≠ s.m.canNode) (f : State → State) : nmtDo node f s = s := by
  rw [nmtDo, if_neg fun h => h.2.elim all other]

/-- The state code of a heartbeat. -/
theorem nmtCode_eq (n : Nmt) : nmtCode n = if n = .stopped then 0x04 else if n = .oper then 0x05 else 0x7F := by
  cases n <;> rfl

theorem exec_heartbeat (up : canSends s = true) (on : objGet s 0x1017 0 ≠ 0) (due : s.m.hbDue ≤ s.m.clock) :
    exec .heartbeat s = .next (updM (fun m => { m with
      hbDue := m.clock + 1000000 * (objGet s 0x1017 0).toNat, canOut := m.canOut ++
      [{ id := BitVec.ofNat 11 (0x700 + m.canNode.toNat)
         data := [if m.nmt = .stopped then 0x04 else if m.nmt = .oper then 0x05 else 0x7F] }] }) s) := by
  have period : (objGet s 0x1017 0).toNat ≠ 0 := fun h => on (BitVec.eq_of_toNat_eq h)
  change execHeartbeat s = _
  simp only [execHeartbeat, if_pos (And.intro up (And.intro period due)), nmtCode_eq]
  rfl

/-! ## Emergencies (R674) -/

theorem exec_emcy {e : BitVec 32} {r : List (BitVec 32)} (due : s.m.emcyDue = e :: r) (on : s.m.canErr ≠ .busOff) :
    let t := updM (fun m => { m with emcyDue := r, hist := (e :: m.hist).take 16 }) s
    exec .emcy s = .next (if !canServes t then t
      else if t.m.emcyInh || !t.m.emcyQ.isEmpty then (if t.m.emcyQ.length < 8 then updM (fun m => { m with emcyQ := m.emcyQ ++ [e] }) t else t)
      else emcySend e t) := by
  change execEmcy s = _
  simp only [execEmcy, due, on, if_false]

/-- The inhibit time that still runs keeps what waits. -/
theorem exec_emcyInhibitExpiry_early (early : s.m.clock < s.m.emcyEnd) : exec .emcyInhibitExpiry s = .next s := by
  change execEmcyInhibitExpiry s = _
  rw [execEmcyInhibitExpiry, if_pos early]

theorem exec_emcyInhibitExpiry_none (none : s.m.emcyQ = []) (ended : s.m.emcyEnd ≤ s.m.clock) :
    exec .emcyInhibitExpiry s = .next (updM (fun m => { m with emcyInh := false }) s) := by
  change execEmcyInhibitExpiry s = _
  simp only [execEmcyInhibitExpiry, Nat.not_lt.mpr ended, none, if_false]

theorem exec_emcyInhibitExpiry_next {e : BitVec 32} {r : List (BitVec 32)} (waits : s.m.emcyQ = e :: r) (up : canServes s = true)
    (ended : s.m.emcyEnd ≤ s.m.clock) :
    exec .emcyInhibitExpiry s = .next (emcySend e (updM (fun m => { m with emcyQ := r, emcyInh := false }) s)) := by
  change execEmcyInhibitExpiry s = _
  simp only [execEmcyInhibitExpiry, Nat.not_lt.mpr ended, waits, up, if_false, if_true]

/-! ## Fault confinement (R597) -/

/-- The counters after one event of a controller that is not bus-off. -/
def counted (n : Nat × Nat) (e : CanBus) : Nat × Nat := if n.1 > 255 then n else canCount n e

/-- The counters give the state, and error passive and bus-off hold condition 7. -/
theorem confined_eq_canState (n : Nat × Nat) (s : State) :
    (let t := updM (fun m => { m with txErrs := n.1, rxErrs := n.2, canErr := canState n }) s
     if canState n = .active then condClear 7 t else condSet 7 (decide (canState n = .busOff)) t) = confined n s := by
  rw [confined]
  by_cases off : n.1 > 255
  · simp [canState, off]
  · by_cases passive : n.1 > 127 ∨ n.2 > 127
    · simp [canState, off, passive]
    · simp only [canState, off, passive, if_false, if_true]

theorem exec_errorPassive {e : List CanBus} (runs : canRuns s = true) (on : s.m.canErr ≠ .busOff) :
    exec (.errorPassive e) s = .next (confined (e.foldl counted (s.m.txErrs, s.m.rxErrs)) s) := by
  change execErrorPassive e s = _
  simp only [execErrorPassive, runs, on, Bool.not_true, decide_false, Bool.or_self, Bool.false_eq_true, if_false]
  exact congrArg Host.Outcome.next (confined_eq_canState _ s)

/-- One event is counted below bus-off. -/
theorem exec_errorPassive_one {e : CanBus} (runs : canRuns s = true) (on : s.m.canErr ≠ .busOff) (few : s.m.txErrs ≤ 255) :
    exec (.errorPassive [e]) s = .next (confined (canCount (s.m.txErrs, s.m.rxErrs) e) s) := by
  rw [exec_errorPassive runs on, List.foldl_cons, List.foldl_nil, counted, if_neg (Nat.not_lt.mpr few)]

/-- Up to 32 transmit errors from 0 count 8 each: the last one may reach 256. -/
theorem counted_txErrs (y : Nat) : ∀ n ≤ 32, (List.replicate n CanBus.txErr).foldl counted (0, y) = (8 * n, y)
  | 0, _ => rfl
  | n + 1, few => by
    rw [List.replicate_succ', List.foldl_concat, counted_txErrs y n (by omega), counted, if_neg (by omega)]
    rfl

theorem exec_errorPassive_idle (off : canRuns s = false ∨ s.m.canErr = .busOff) (e : List CanBus) : exec (.errorPassive e) s = .next s := by
  change execErrorPassive e s = _
  rw [execErrorPassive, if_pos (by simpa using off)]

theorem exec_busOffRecovery_idle (off : canRuns s = false) : exec .busOffRecovery s = .next s := by
  change execBusOffRecovery s = _
  simp only [execBusOffRecovery, off, Bool.false_and, Bool.false_eq_true, if_false]

theorem exec_busOffRecovery (runs : canRuns s = true) (off : s.m.canErr = .busOff) :
    exec .busOffRecovery s = .next (condClear 7 (updM (fun m => { m with canErr := .active, txErrs := 0, rxErrs := 0 }) s)) := by
  change execBusOffRecovery s = _
  simp only [execBusOffRecovery, runs, off, decide_true, Bool.and_self, if_true]

end

/-- Settles O49: an NMT command is `nmtDo`; the error counters are the fold of the bus's events, and `confined` by them. -/
theorem networkManagementAndEmergencies : Obligations.NetworkManagementAndEmergencies := by
  refine ⟨fun node s up => ⟨fun own => ?own, fun all other => ?other, exec_heartbeat up⟩,
    fun s => ⟨fun e r => exec_emcy, exec_emcyInhibitExpiry_early, exec_emcyInhibitExpiry_none, fun e r => exec_emcyInhibitExpiry_next,
      fun runs on few => ?counts, fun off e => ⟨exec_errorPassive_idle (.inl off) e, exec_busOffRecovery_idle off⟩,
      fun runs off => ⟨exec_errorPassive_idle (.inr off), exec_busOffRecovery runs off⟩⟩⟩
  case own =>
    have act := nmtDo_own up own
    exact ⟨congrArg _ (act _), congrArg _ (act _), congrArg _ (act _), congrArg _ (act _), congrArg _ (act _)⟩
  case other =>
    have idle := nmtDo_other all other
    exact ⟨congrArg _ (idle _), congrArg _ (idle _), congrArg _ (idle _), congrArg _ (idle _), congrArg _ (idle _)⟩
  case counts =>
    have one {e : CanBus} := exec_errorPassive_one (e := e) runs on few
    refine ⟨one, one, one, one, fun e good => ?_, fun n many none => ?_⟩
    · obtain rfl | rfl | rfl := good <;> exact one
    · rw [exec_errorPassive runs on, none, counted_txErrs _ n many]

end Sys2Proof.Proofs

/-! SUPPORT. The start-up sequence: one branch for each step (R721 to R730), and passes that treat every key of a table once -/

namespace Sys2Proof.Proofs

open Sys2Proof.Machine Sys2Proof.Expected Sys2Proof.Laws

-- one theorem after another: every thread that waits takes a stack of the check's memory
set_option Elab.async false

section
variable {s : State}

/-! ## Tables -/

/-- A pass that treats each of its keys once, at that key alone, treats every key of the pass. `P` is what the pass keeps of the state. -/
theorem get_foldl_keys {σ β : Type} {get : σ → Nat → β} {upd : σ → Nat → σ} {f : Nat → β → β} (P : σ → Prop)
    (keep : ∀ s i, P s → P (upd s i)) (same : ∀ s i, P s → get (upd s i) i = f i (get s i))
    (other : ∀ s i j, j ≠ i → get (upd s i) j = get s j) {l : List Nat} (once : l.Nodup) {s : σ} (start : P s) (k : Nat) :
    get (l.foldl upd s) k = if k ∈ l then f k (get s k) else get s k := by
  induction l generalizing s with
  | nil => rfl
  | cons i l ih =>
    obtain ⟨fresh, once⟩ := List.nodup_cons.mp once
    rw [List.foldl_cons, ih once (keep s i start)]
    by_cases here : k = i
    · subst here
      rw [if_neg fresh, if_pos List.mem_cons_self, same s k start]
    · simp only [List.mem_cons, here, false_or, other s i k here]

/-- What holds of the default and of every value in a table holds of every value read from it. -/
theorem mapGet_all {α : Type} {d : α} {m : SMap α} {P : α → Prop} (dflt : P d) (each : ∀ e ∈ m, P e.2) (k : Nat) : P (mapGet d m k) := by
  induction m with
  | nil => exact dflt
  | cons e m ih =>
    obtain ⟨j, v⟩ := e
    rw [mapGet]
    split
    · exact each (j, v) List.mem_cons_self
    · exact ih fun e he => each e (List.mem_cons_of_mem _ he)

theorem getCap_updM (f : Mgmt → Mgmt) (n : Nat) : getCap (updM f s) n = getCap s n := rfl

/-- A capture input's level is sampled from its pin. -/
theorem getCap_capLevels {i : Nat} (hi : i < 8) : (getCap (capLevels s) i).lvl = s.m.capPins.getLsbD i := by
  have sampled := get_foldl_keys (get := getCap) (upd := fun t i => setCap t i { getCap t i with lvl := t.m.capPins.getLsbD i })
    (f := fun i c => { c with lvl := s.m.capPins.getLsbD i }) (fun t => t.m = s.m) (fun t i h => h)
    (fun t i h => by rw [getCap, setCap, mapGet_mapSet_same, h]) (fun t i j ne => mapGet_mapSet_other _ _ _ ne) (List.nodup_range (n := 8)) rfl i
  rw [if_pos (List.mem_range.mpr hi)] at sampled
  exact congrArg Cap.lvl sampled

/-- A domain as it is powered on. -/
def powered (d : Nat) (x : Domain) : Domain :=
  { x with volt := startVolt d, vset := startVolt d, volt2 := secondVolt d, target := 1600, rate := 1600 }

/-- The domains of the range that is powered on. -/
theorem getDom_domsOn {lo hi d : Nat} (least : lo ≤ d) (most : d ≤ hi) : getDom (domsOn lo hi s) d = powered d (getDom s d) := by
  have on := get_foldl_keys (get := fun m => mapGet ({} : Domain) m) (upd := fun m d => mapSet {} m d (powered d (mapGet {} m d)))
    (f := powered) (fun _ => True) (fun _ _ _ => trivial) (fun m d _ => mapGet_mapSet_same _ _ _ _) (fun m d j ne => mapGet_mapSet_other _ _ _ ne)
    (l := (upto (hi + 1 - lo)).map (lo + ·)) (List.nodup_range.map (by intro a b; simp)) trivial (s := s.m.pwr.doms) d
  rw [if_pos (by simp only [upto, List.mem_map, List.mem_range]; exact ⟨d - lo, by omega, by omega⟩), List.foldl_map] at on
  exact on

/-! ## The steps of the sequence (R721) -/

theorem starting_spec {n : Nat} (st : starting n s = true) : s.m.step = n ∧ startHeld s = false ∧ lcState s ≠ 4 := by
  simpa only [starting, Bool.and_eq_true, decide_eq_true_eq, Bool.not_eq_true', and_assoc] using st

/-- A step that runs outside LC_END ends as it says. -/
theorem exec_startUp_step {n : Nat} {o : StepOut} (st : starting n s = true) (ends : ∀ r u, o ≠ .fail r u) :
    exec (.startUp o) s = .next (stepDone o s) := by
  obtain ⟨-, runs, life⟩ := starting_spec st
  change execStartUp o s = _
  cases o with
  | fail r u => exact absurd rfl (ends r u)
  | _ => simp only [execStartUp, runs, life, false_and, Bool.false_eq_true, if_false]

theorem acceptRec_mode (r : ErrRec) (s : State) : (acceptRec r s).mode = s.mode := by
  unfold acceptRec
  dsimp only
  split
  · rfl
  · split <;> rfl

/-- A start-up failure leaves the device at its step, for cause 6. -/
theorem startFail_spec (n r u : Nat) : (startFail n r u s).m = { s.m with failed := true, cause := 6 } ∧ (startFail n r u s).mode = s.mode :=
  ⟨congrArg (fun m : Mgmt => { m with failed := true, cause := 6 }) (acceptRec_m _), acceptRec_mode ..⟩

theorem exec_startUp_held (held : startHeld s = true) (o : StepOut) : exec (.startUp o) s = .next s :=
  congrArg Host.Outcome.next (if_pos held)

theorem exec_startUp_fail (runs : startHeld s = false) (r u : BitVec 8) :
    exec (.startUp (.fail r u)) s = .next (startFail s.m.step r.toNat u.toNat s) := by
  change execStartUp (.fail r u) s = _
  simp only [execStartUp, runs, Bool.false_eq_true, if_false]

/-- In LC_END a step that has ended stops the sequence. -/
theorem exec_startUp_end (life : lcState s = 4) (runs : startHeld s = false) (past : s.m.step ≠ 1) (on : (stepDone .done s).m.step ≠ s.m.step) :
    exec (.startUp .done) s = .next (updM (fun m => { m with step := s.m.step, failed := true }) (stepDone .done s)) := by
  change execStartUp .done s = _
  simp only [execStartUp, runs, Bool.false_eq_true, if_false]
  rw [if_pos ⟨life, past, on⟩]

/-- The sequence runs in BRINGUP alone. -/
theorem mode_of_runs (runs : startHeld s = false) : s.mode = .bringup := by
  by_contra other
  simp [startHeld, other] at runs

/-! ## What each step does -/

theorem canStart_step : (canStart s).m.step = s.m.step := by
  unfold canStart
  split <;> rfl

theorem domsOn_kept {lo hi : Nat} : (domsOn lo hi s).m.step = s.m.step ∧ (domsOn lo hi s).m.capPins = s.m.capPins ∧
    (domsOn lo hi s).m.pwr.bus = 1800 := ⟨rfl, rfl, rfl⟩

theorem capLevels_m : (capLevels s).m = s.m :=
  List.foldlRecOn (motive := fun t : State => t.m = s.m) _ _ rfl fun _ h _ _ => h

theorem stepDone_three (st : s.m.step = 3) :
    stepDone .done s = nextStep (canStart (slowStart (slowTick s.m.clock) { s with tb := 0, tbRun := true })) := by
  simp only [stepDone, st]

theorem stepDone_four (st : s.m.step = 4) : stepDone .done s = nextStep (capLevels (domsOn 36 38 s)) := by
  simp only [stepDone, st]

theorem stepDone_seven (st : s.m.step = 7) :
    stepDone .done s = nextStep { s with mem := [], poisoned := [], arrErr := [], arrDue := [], dramBad := [] } := by
  simp only [stepDone, st]

/-- Each of these steps goes on to the next. -/
theorem stepDone_next (st : s.m.step = 3 ∨ s.m.step = 4 ∨ s.m.step = 7) : (stepDone .done s).m.step = s.m.step + 1 := by
  obtain st | st | st := st
  · rw [stepDone_three st]
    exact congrArg (· + 1) canStart_step
  · rw [stepDone_four st]
    exact congrArg (· + 1) ((congrArg Mgmt.step (capLevels_m (s := domsOn 36 38 s))).trans domsOn_kept.1)
  · rw [stepDone_seven st]
    rfl

/-- The initialisation of the distaff with a bank to load. -/
theorem initDistaff_bank {b : Bool} (bank : bankToLoad s.m = some b) :
    (initDistaff s).m = { s.m with
      cur := b, objs := (if b then s.m.bankB else s.m.bankA).vals, boots := (if s.m.pwr.inhibit then s.m.boots else s.m.boots + 1)
      bootsDue := s.m.pwr.inhibit, retire := (if s.m.retClr then [] else s.m.retire), retClr := false } := by
  simp only [initDistaff, bank]
  rfl

/-- A population of the same DIMM in every place keeps R594. -/
theorem popOk_replicate {n rate : Nat} {d : Dimm} (few : n = 1 ∨ n = 2) (rates : rate = 128 ∨ rate = 112 ∨ rate = 96) :
    popOk (List.replicate 12 (List.replicate n d)) rate = true := by
  obtain rfl | rfl := few
  · simpa [popOk] using rates
  · simpa [popOk] using rates

theorem dramTrained_replicate {n rate : Nat} {d : Dimm} (few : n = 1 ∨ n = 2) (rates : rate = 128 ∨ rate = 112 ∨ rate = 96)
    (fits : 12 * n * d.gib ≤ 3072) : dramTrained (List.replicate 12 (List.replicate n d)) rate s =
      nextStep { (updM (fun m => { m with
        pwr := { m.pwr with dramReset := false }
        dimms := { per := n, gib := d.gib, ranks := d.ranks, width := d.width, rate := rate } }) s) with dram := 2 ^ 27 * (12 * n * d.gib) } := by
  have first : (List.replicate n d).headD {} = d := by obtain rfl | rfl := few <;> rfl
  rw [dramTrained, if_pos (popOk_replicate few rates)]
  simp only [List.replicate_succ, List.headD_cons, first, List.length_replicate]
  rw [Nat.min_eq_left (by omega)]

/-- STANDBY, or the debug halt that was asked for, with every skein's caches on. -/
theorem startDone_spec : (startDone s).mode = (if s.m.haltHeld then .halt else .standby) ∧ (startDone s).m.step = 0 ∧
    (startDone s).mem = s.mem ∧ (startDone s).skeins = (s.skeins.map fun k => (k.1, { k.2 with dis := false })).filter fun k => k.2 ≠ {} := by
  unfold startDone
  cases held : s.m.haltHeld
  · simp only [updM, held, Bool.false_eq_true, if_false, and_self]
  · simp only [updM, held, if_true, and_self]

end

/-- Settles O55: a step that is not held is `stepDone` of its number, outside LC_END; each number's branch then says what it does. -/
theorem resetAndStartUpRunTheSequence : Obligations.ResetAndStartUpRunTheSequence := by
  refine fun s => ⟨fun te => rfl, fun te => ⟨_, rfl, rfl, rfl, rfl, rfl, rfl, rfl, rfl, rfl, rfl⟩, fun r u runs => ?fail, exec_startUp_held,
    fun life runs st => ?endOfLife, fun st => ?supply, fun st => ?init, fun b st bank => ?bank, fun st => ?timebase, fun st => ?domains,
    fun st none => ?units, fun n rate d st life few rates fits => ?dram, fun pop rate st bad => ?badDram, fun st => ?clear, fun st => ?standby⟩
  case fail =>
    obtain ⟨m, mode⟩ := startFail_spec (s := s) s.m.step r.toNat u.toNat
    exact ⟨_, exec_startUp_fail runs r u, by rw [m], by rw [m], by rw [m], mode.trans (mode_of_runs runs)⟩
  case endOfLife => exact ⟨_, exec_startUp_end life runs (by omega) (by rw [stepDone_next st]; omega), rfl, rfl⟩
  case supply =>
    obtain ⟨one, -⟩ := starting_spec st
    rw [exec_startUp_step st (by simp)]
    simp only [stepDone, one, nextStep, updM]
  case init =>
    obtain ⟨two, -⟩ := starting_spec st
    rw [exec_startUp_step st (by simp)]
    simp only [stepDone, two, nextStep]
  case bank =>
    obtain ⟨two, -⟩ := starting_spec st
    have loaded := initDistaff_bank bank
    refine ⟨nextStep (initDistaff s), ?_, ?_, ?_, ?_, ?_⟩
    · rw [exec_startUp_step st (by simp)]
      simp only [stepDone, two]
    all_goals simp only [nextStep, updM, loaded, two]
  case timebase =>
    obtain ⟨three, -⟩ := starting_spec st
    rw [exec_startUp_step st (by simp), stepDone_three three, nextStep]
  case domains =>
    obtain ⟨four, -⟩ := starting_spec st
    have kept := capLevels_m (s := domsOn 36 38 s)
    obtain ⟨step, pins, bus⟩ := domsOn_kept (s := s) (lo := 36) (hi := 38)
    refine ⟨nextStep (capLevels (domsOn 36 38 s)), ?_, ?_, ?_, fun i hi => ?_, fun d least most => ?_⟩
    · rw [exec_startUp_step st (by simp), stepDone_four four]
    · rw [nextStep, updM_m, kept, step, four]
    · rw [nextStep, updM_m, kept, bus]
    · rw [nextStep, getCap_updM, getCap_capLevels hi, pins]
    · have on : getDom (nextStep (capLevels (domsOn 36 38 s))) d = powered d (getDom s d) := by
        rw [nextStep, getDom, updM_m, kept]
        exact getDom_domsOn least most
      rw [on]
      obtain rfl | rfl | rfl : d = 36 ∨ d = 37 ∨ d = 38 := by omega
      all_goals exact ⟨rfl, rfl⟩
  case units =>
    obtain ⟨five, -⟩ := starting_spec st
    refine ⟨nextStep (domsOn 0 35 s), ?_, congrArg (· + 1) five, fun d hd => ?_⟩
    · rw [exec_startUp_step st (by simp)]
      simp only [stepDone, five, none, List.foldl_nil]
    · have on : getDom (nextStep (domsOn 0 35 s)) d = powered d (getDom s d) := getDom_domsOn (Nat.zero_le d) (by omega)
      rw [on]
      exact ⟨rfl, rfl⟩
  case dram =>
    obtain ⟨six, -⟩ := starting_spec st
    have trains (o : List (List Dimm)) : stepDone (.dram o rate) s = dramTrained o rate s := by simp only [stepDone, six]
    exact ⟨_, (exec_startUp_step st (by simp)).trans (congrArg _ ((trains _).trans (dramTrained_replicate few rates fits))),
      congrArg (· + 1) six, rfl, rfl, rfl⟩
  case badDram =>
    obtain ⟨six, -⟩ := starting_spec st
    obtain ⟨m, -⟩ := startFail_spec (s := s) 6 2 0xFF
    refine ⟨startFail 6 2 0xFF s, ?_, by rw [m], by rw [m]; exact six, by rw [m]⟩
    rw [exec_startUp_step st (by simp)]
    simp only [stepDone, six, dramTrained, bad, Bool.false_eq_true, if_false]
  case clear =>
    obtain ⟨seven, -⟩ := starting_spec st
    rw [exec_startUp_step st (by simp), stepDone_seven seven]
    simp only [nextStep, updM, seven]
  case standby =>
    obtain ⟨eight, -⟩ := starting_spec st
    obtain ⟨mode, step, mem, skeins⟩ := startDone_spec (s := s)
    refine ⟨startDone s, ?_, mode, step, mem, fun k => ?_⟩
    · rw [exec_startUp_step st (by simp)]
      simp only [stepDone, eight]
    · rw [getSk, skeins]
      refine mapGet_all (P := fun x : Skein => x.dis = false) rfl (fun e he => ?_) _
      obtain ⟨x, -, rfl⟩ := List.mem_map.mp (List.mem_filter.mp he).1
      rfl

end Sys2Proof.Proofs

/-! SUPPORT. SLEEP exit, parking and the period of the whorl (R631 to R640, R649) -/

namespace Sys2Proof.Proofs

open Sys2Proof.Machine Sys2Proof.Expected Sys2Proof.Laws

-- one theorem after another: every thread that waits takes a stack of the check's memory
set_option Elab.async false

section
variable {s : State}

/-! ## SLEEP exit (R649) -/

/-- Entering a mode other than RUN keeps everything but the mode and the sectors. -/
theorem enterMode_spec {m : Mode} (still : m = .standby ∨ m = .drowse) : (enterMode m s).mode = m ∧ (enterMode m s).tb = s.tb ∧
    (enterMode m s).tbRecon = s.tbRecon ∧ (enterMode m s).caps = s.caps ∧ (enterMode m s).cmps = s.cmps ∧
    (enterMode m s).m.exiting = s.m.exiting ∧ (enterMode m s).m.reqBusy = s.m.reqBusy ∧ (enterMode m s).m.haltHeld = s.m.haltHeld ∧
    (enterMode m s).ctxs = s.ctxs ∧ (enterMode m s).mem = s.mem ∧ (enterMode m s).spindles = s.spindles := by
  obtain rfl | rfl := still
  · exact ⟨rfl, rfl, rfl, rfl, rfl, rfl, rfl, rfl, rfl, rfl, rfl⟩
  · exact ⟨rfl, rfl, rfl, rfl, rfl, rfl, rfl, rfl, rfl, rfl, rfl⟩

/-- Sampling the inputs changes them alone. -/
theorem capLevels_eq (s : State) : capLevels s = { s with caps := (capLevels s).caps } :=
  List.foldlRecOn (motive := fun t : State => t = { s with caps := t.caps }) _ _ rfl fun t h i _ =>
    congrArg (fun u : State => { u with caps := (setCap t i { getCap t i with lvl := t.m.capPins.getLsbD i }).caps }) h

/-- A pass over a table's values that drops those at the default reads as the pass over what was read. -/
theorem mapGet_map_filter {α : Type} [DecidableEq α] {d : α} {f : α → α} (dflt : f d = d) (m : SMap α) (k : Nat) (kept : f (mapGet d m k) ≠ d) :
    mapGet d ((m.map fun e => (e.1, f e.2)).filter fun e => e.2 ≠ d) k = f (mapGet d m k) := by
  induction m with
  | nil => exact absurd dflt kept
  | cons e m ih =>
    obtain ⟨j, v⟩ := e
    rw [mapGet] at kept ⊢
    rw [List.map_cons]
    by_cases here : j = k
    · rw [if_pos here] at kept ⊢
      rw [List.filter_cons_of_pos (by simpa using kept), mapGet, if_pos here]
    · rw [if_neg here] at kept ⊢
      by_cases stays : f v = d
      · rw [List.filter_cons_of_neg (by simp [stays]), ih kept]
      · rw [List.filter_cons_of_pos (by simpa using stays), mapGet, if_neg here, ih kept]

theorem cmpLate_m : (cmpLate s).m = s.m := by
  simp only [cmpLate]

/-- A compare that the count has left behind is late. -/
theorem getCmp_cmpLate {i : Nat} (armed : (getCmp s i).en = true) (waits : (getCmp s i).done = false) (behind : (getCmp s i).v.toNat + 1 < s.tb) :
    (getCmp (cmpLate s) i).late = true := by
  let late (c : Cmp) : Cmp := if c.en && !c.done && decide (c.v.toNat + 1 < s.tb) then { c with late := true } else c
  have left : late (getCmp s i) = { getCmp s i with late := true } := if_pos (by simp [armed, waits, behind])
  have read : getCmp (cmpLate s) i = late (getCmp s i) :=
    mapGet_map_filter (f := late) rfl s.cmps i fun none => by
      have off := congrArg Cmp.late (left.symm.trans none)
      cases off
  rw [read, left]

/-- The count goes on from `tb`, and the exit has ended. -/
def resumed (tb : Nat) (unc : BitVec 32) (clock : Nat) (s : State) : State :=
  updM (fun m => { m with clock := clock, exiting := false, reqBusy := false, modeRes := if m.modeRes = 1 then 0 else m.modeRes })
    { s with tb := tb, tbRecon := true, tbUnc := unc }

/-- The compares left behind are marked and the levels sampled, and the slow clock's measurement starts again. -/
def sampled (r : State) : State := slowStart (slowTick r.m.clock) (capLevels (cmpLate r))

theorem sampled_m (r : State) : (sampled r).m.saved = r.m.saved ∧ (sampled r).m.haltHeld = r.m.haltHeld ∧ (sampled r).m.exiting = r.m.exiting ∧
    (sampled r).m.reqBusy = r.m.reqBusy := by
  rw [sampled, slowStart, updM_m, capLevels_m]
  exact ⟨rfl, rfl, rfl, rfl⟩

/-- The marking and the sampling keep everything but the compares, the inputs and the slow clock's measurement. -/
theorem sampled_keeps (r : State) : (sampled r).tb = r.tb ∧ (sampled r).tbRecon = r.tbRecon ∧ (sampled r).cmps = (cmpLate r).cmps ∧
    (sampled r).caps = (capLevels (cmpLate r)).caps ∧ (sampled r).ctxs = r.ctxs ∧ (sampled r).mem = r.mem ∧ (sampled r).spindles = r.spindles := by
  rw [sampled, capLevels_eq]
  simp only [slowStart, updM, cmpLate, and_self]

section
variable (tb : Nat) (unc : BitVec 32) (clock : Nat) (s : State)

theorem resumed_m : (resumed tb unc clock s).m = { s.m with clock := clock, exiting := false, reqBusy := false
                                                            modeRes := if s.m.modeRes = 1 then 0 else s.m.modeRes } := rfl

theorem resumed_keeps : (resumed tb unc clock s).tb = tb ∧ (resumed tb unc clock s).tbRecon = true ∧ (resumed tb unc clock s).cmps = s.cmps ∧
    (resumed tb unc clock s).ctxs = s.ctxs ∧ (resumed tb unc clock s).mem = s.mem ∧ (resumed tb unc clock s).spindles = s.spindles := by
  simp only [resumed, updM, and_self]

end

/-- A mode other than RUN returns, where no debug halt is held. -/
theorem sleepWake_eq (ticks p : Nat) (free : s.m.haltHeld = false) (still : s.m.saved = .standby ∨ s.m.saved = .drowse) :
    ∃ unc clock, sleepWake ticks p s =
      enterMode s.m.saved (sampled (resumed ((s.m.slow.tb + max 1 (ticks * s.m.slow.p / 2 ^ 20)) % 2 ^ 64) unc clock s)) := by
  refine ⟨BitVec.ofNat 32 (min (2 ^ 32 - 1) (4 + (2 * (ticks * s.m.slow.p / 2 ^ 20) + 999999) / 1000000)),
    max s.m.clock (s.m.slow.n * 1953125 / 64 + ticks * p / 2 ^ 20), ?_⟩
  generalize res : resumed _ _ _ s = r
  obtain ⟨saved, held, -⟩ := sampled_m r
  obtain ⟨-, -, -, -, -, -, -, same, -⟩ := enterMode_spec (s := sampled r) still
  have mode : (sampled r).m.saved = s.m.saved := by rw [saved, ← res, resumed_m]
  have off : (enterMode s.m.saved (sampled r)).m.haltHeld = false := by rw [same, held, ← res, resumed_m, free]
  have wakes : sleepWake ticks p s = if (enterMode (sampled r).m.saved (sampled r)).m.haltHeld = true
      then updM (fun m => { m with haltHeld := false }) (enterHalt 2 (enterMode (sampled r).m.saved (sampled r)))
      else enterMode (sampled r).m.saved (sampled r) := by
    rw [← res]
    rfl
  rw [wakes, mode, off, if_neg Bool.false_ne_true]

/-- What the exit leaves. -/
theorem exit_spec (v : Nat) (unc : BitVec 32) (clock : Nat) (still : s.m.saved = .standby ∨ s.m.saved = .drowse) :
    let t := enterMode s.m.saved (sampled (resumed v unc clock s))
    t.mode = s.m.saved ∧ t.tb = v ∧ t.tbRecon = true ∧ (∀ i < 8, (getCap t i).lvl = s.m.capPins.getLsbD i) ∧
      (∀ i, (getCmp s i).en = true → (getCmp s i).done = false → (getCmp s i).v.toNat + 1 < v → (getCmp t i).late = true) ∧
      t.m.exiting = false ∧ t.m.reqBusy = false ∧ t.ctxs = s.ctxs ∧ t.mem = s.mem ∧ t.spindles = s.spindles := by
  obtain ⟨-, -, exits, free⟩ := sampled_m (resumed v unc clock s)
  obtain ⟨tb, recon, cmps, ctxs, mem, spindles⟩ := resumed_keeps v unc clock s
  obtain ⟨tb', recon', cmps', caps', ctxs', mem', spindles'⟩ := sampled_keeps (resumed v unc clock s)
  obtain ⟨mode, tb'', recon'', caps'', cmps'', exiting, busy, -, ctxs'', mem'', spindles''⟩ :=
    enterMode_spec (s := sampled (resumed v unc clock s)) still
  refine ⟨mode, by rw [tb'', tb', tb], by rw [recon'', recon', recon], fun i hi => ?_, fun i armed waits behind => ?_,
    by rw [exiting, exits, resumed_m], by rw [busy, free, resumed_m], by rw [ctxs'', ctxs', ctxs], by rw [mem'', mem', mem],
    by rw [spindles'', spindles', spindles]⟩
  · have level := getCap_capLevels (s := cmpLate (resumed v unc clock s)) hi
    rw [getCap, cmpLate_m, resumed_m] at level
    rw [getCap, caps'', caps', level]
  · have same : getCmp (resumed v unc clock s) i = getCmp s i := by rw [getCmp, cmps, getCmp]
    rw [getCmp, cmps'', cmps']
    exact getCmp_cmpLate (by rw [same, armed]) (by rw [same, waits]) (by rw [same, tb]; exact behind)

theorem exec_sleepExit {ticks p : Nat} (asleep : s.mode = .sleep) (started : s.m.exiting = true) :
    exec (.sleepExit ticks p true) s = .next (sleepWake ticks p s) := by
  change execSleepExit ticks p true s = _
  simp only [execSleepExit, asleep, started, ne_eq, not_true_eq_false, Bool.not_true, Bool.false_and, Bool.false_eq_true, if_false, if_true]

/-- Without an armed compare nothing but a request starts the exit. -/
theorem exec_sleepExit_asleep (ticks p : Nat) (ok : Bool) (quiet : s.m.exiting = false) (none : s.cmps = []) :
    exec (.sleepExit ticks p ok) s = .next s := by
  change execSleepExit ticks p ok s = _
  simp [execSleepExit, quiet, wakeTick, none]

/-! ## Parking (R638 to R640) -/

theorem exec_skeinPark {k : SkId} (can : canPark k s = true) :
    exec (.skeinPark k) s = .next (updSk k (fun x => { x with parked := true }) (parkAck k s)) := congrArg Host.Outcome.next (if_pos can)

/-- A parking skein owes no broadcast an acknowledgement. -/
theorem parkAck_todo {k : SkId} : ∀ b ∈ (parkAck k s).bcasts, ∀ q ∈ b.todo, spSk q ≠ k := by
  intro b hb q hq
  obtain ⟨a, -, rfl⟩ := List.mem_map.mp hb
  simpa using (List.mem_filter.mp hq).2

theorem exec_skeinWake {k : SkId} (parked : (getSk s k).parked = true) :
    exec (.skeinWake k) s = .next (updSk k (fun x => { x with parked := false }) (fabric (skSector k) (skSector k) s)) :=
  congrArg Host.Outcome.next (if_pos parked)

theorem traffic_sectors (r : BitVec 4) : (traffic r s).m.pwr.sectors = s.m.pwr.sectors := by
  unfold traffic
  split <;> rfl

/-- Traffic within a sector goes through it. -/
theorem route_self : ∀ a : BitVec 2, (route a a).getLsbD a.toNat = true := by decide

/-- Traffic of a sector wakes it. -/
theorem fabric_wakes (a : BitVec 2) : (fabric a a s).m.pwr.sectors.getLsbD a.toNat = false := by
  unfold fabric
  dsimp only
  split
  next awake => rw [traffic_sectors, awake]; exact BitVec.getLsbD_zero
  next =>
    change ((traffic (route a a) s).m.pwr.sectors &&& ~~~route a a).getLsbD a.toNat = false
    simp [route_self a]

theorem skSector_toNat (k : SkId) : (skSector k).toNat = k.toNat / 8 := by
  have small := k.isLt
  simp only [skSector, BitVec.extractLsb'_toNat, Nat.shiftRight_eq_div_pow]
  omega

theorem exec_sectorPark_busy {n : BitVec 2} (busy : ∃ i < 8, (getSk s (BitVec.ofNat 5 (8 * n.toNat + i))).parked = false) :
    exec (.sectorPark n) s = .next s := by
  obtain ⟨i, hi, up⟩ := busy
  refine congrArg Host.Outcome.next (if_neg fun ⟨_, _, _, _, _, _, parked⟩ => ?_)
  rw [List.all_eq_true.mp parked i (List.mem_range.mpr hi)] at up
  cases up

section
variable {n : BitVec 2} (mode : s.mode = .drowse) (awake : s.m.entering = false) (sector : n = 1 ∨ n = 2)
  (allowed : (objGet s 0x2104 1).getLsbD 3 = true) (low : objGet s 0x2102 (n.toNat + 33) = 1600)
  (idle : mapGet 0 s.m.pwr.trafAt n.toNat + parkIdle s ≤ s.m.clock)
include mode awake sector allowed low idle

theorem exec_sectorPark (parked : ∀ i < 8, (getSk s (BitVec.ofNat 5 (8 * n.toNat + i))).parked = true) :
    exec (.sectorPark n) s = .next (updPwr (fun p => { p with sectors := setBit p.sectors n.toNat true }) s) :=
  congrArg Host.Outcome.next (if_pos ⟨mode, by rw [awake]; rfl, sector, idle, allowed, low,
    List.all_eq_true.mpr fun i hi => parked i (List.mem_range.mp hi)⟩)

end

/-! ## The whorl (R631 to R637) -/

theorem getDom_updDom (d : Nat) (f : Domain → Domain) : getDom (updDom d f s) d = f (getDom s d) := mapGet_mapSet_same ..

theorem getDom_updDom_other {d j : Nat} (f : Domain → Domain) (other : j ≠ d) : getDom (updDom d f s) j = getDom s j :=
  mapGet_mapSet_other _ _ _ other

/-- What a change makes of the domain as it stands says all about it. -/
theorem updDom_congr {d : Nat} {f g : Domain → Domain} (same : f (getDom s d) = g (getDom s d)) : updDom d f s = updDom d g s :=
  congrArg (fun x => updPwr (fun p => { p with doms := mapSet {} p.doms d x }) s) same

theorem updDom_updDom (d : Nat) (f g : Domain → Domain) : updDom d f (updDom d g s) = updDom d (fun x => f (g x)) s := by
  have twice : mapSet {} (mapSet {} s.m.pwr.doms d (g (mapGet {} s.m.pwr.doms d))) d
      (f (mapGet {} (mapSet {} s.m.pwr.doms d (g (mapGet {} s.m.pwr.doms d))) d)) =
      mapSet {} s.m.pwr.doms d (f (g (mapGet {} s.m.pwr.doms d))) := by
    rw [mapSet_mapSet, mapGet_mapSet_same]
  exact congrArg (fun m => updPwr (fun p => { p with doms := m }) s) twice

/-- What orders 2 and 3 make of a domain that is measured. -/
def limitedBy (x : DomMeas) (t : Int) (d : Domain) : Domain :=
  { d with
    target := if overCur x then max 1600 (d.target - 100) else d.target
    thr := if decide (x.temp ≥ t) then true else d.thr && decide (x.temp ≥ t - 16) }

/-- The voltage of a domain that is measured. -/
def voltedBy (x : DomMeas) (d : Domain) : Domain :=
  let v := if d.thr then max (voltGrid x.marg) (min d.vset d.volt - 10) else voltGrid (max x.low x.marg)
  { d with vset := v, volt := if v > d.volt then min v (d.volt + 50) else max v (d.volt - 50) }

section
variable {x : DomMeas} (dom : x.dom < 36) (awake : domParked s x.dom = false)
include dom awake

theorem whorlLimit_eq : whorlLimit x s = updDom x.dom (limitedBy x (tjThrot s)) s :=
  if_neg (by simp [awake, dom])

theorem whorlVolt_eq : whorlVolt x s = updDom x.dom (voltedBy x) s :=
  if_neg (by simp [awake, dom])

/-- Without rounds, below the cap. -/
theorem whorlRate_eq (none : s.m.pwr.rounds = []) (ok : s.m.pwr.pin ≤ 1000 * capW s) : whorlRate x s = updDom x.dom (fun d => { d with
    target := rateChoice false true (overCur x) (rmin s x.dom) (rmax s x.dom) x.demand (getDom s x.dom).target }) s := by
  have on : ¬ (x.dom ≥ 36 ∨ domParked s x.dom = true) := by simp [awake, dom]
  rw [whorlRate, if_neg on]
  simp only [none, List.any_nil, ok, decide_true, Bool.false_eq_true, and_false, if_false]

end

/-- Below the cap and without rounds, order 4 does nothing. -/
theorem capRound_idle (none : s.m.pwr.rounds = []) (ok : s.m.pwr.pin ≤ 1000 * capW s) : capRound s = s := by
  rw [capRound]
  simp only [Nat.not_lt.mpr ok, if_false, none]

theorem condSet_keeps (bit : Nat) (v : Bool) : (condSet bit v s).m.pwr = s.m.pwr ∧ (condSet bit v s).ctxs = s.ctxs ∧ (condSet bit v s).mem = s.mem ∧
    (condSet bit v s).spindles = s.spindles ∧ (condSet bit v s).tb = s.tb := by
  unfold condSet
  repeat' split
  all_goals exact ⟨rfl, rfl, rfl, rfl, rfl⟩

theorem condClear_keeps (bit : Nat) : (condClear bit s).m.pwr = s.m.pwr ∧ (condClear bit s).ctxs = s.ctxs ∧ (condClear bit s).mem = s.mem ∧
    (condClear bit s).spindles = s.spindles ∧ (condClear bit s).tb = s.tb := by
  unfold condClear
  split <;> exact ⟨rfl, rfl, rfl, rfl, rfl⟩

/-- The end of a period: LIMITED, and condition 3 while a floor is not reached (R633). -/
def periodEnd (l : List DomMeas) (s : State) : State :=
  let n := limitedNow l s
  let was := s.m.pwr.limited.getLsbD 4
  let s := updPwr (fun p => { p with limited := n }) s
  if n.getLsbD 4 && !was then condSet 3 false s else if !n.getLsbD 4 && was then condClear 3 s else s

/-- It changes LIMITED, the conditions, and nothing else of the power state. -/
theorem periodEnd_keeps (l : List DomMeas) (s : State) : (periodEnd l s).m.pwr = { s.m.pwr with limited := limitedNow l s } ∧
    (periodEnd l s).ctxs = s.ctxs ∧ (periodEnd l s).mem = s.mem ∧ (periodEnd l s).spindles = s.spindles ∧ (periodEnd l s).tb = s.tb := by
  unfold periodEnd
  dsimp only
  split
  next => exact condSet_keeps ..
  next =>
    split
    next => exact condClear_keeps ..
    next => exact ⟨rfl, rfl, rfl, rfl, rfl⟩

/-- The target that the orders 2 and 5 to 7 give is the one that the spec's order gives. -/
theorem rateChoice_newTarget (x : DomMeas) : rateChoice false true (overCur x) (rmin s x.dom) (rmax s x.dom) x.demand
    (if overCur x then max 1600 ((getDom s x.dom).target - 100) else (getDom s x.dom).target) = newTarget s x := by
  unfold rateChoice newTarget overCur
  by_cases cut : x.cur > (if x.dom < 32 then 14000 else 10000)
  · simp [cut]
  · simp [cut]

/-- A measured domain after its period. -/
def afterPeriod (s : State) (x : DomMeas) : Domain :=
  { (getDom s x.dom) with
    temp := x.temp, rate := x.rate, demand := x.demand, target := newTarget s x, thr := throttled s x
    vset := newSetting s x, volt := newVolt s x }

/-- The measurements, the limits, the choice of the target and of the voltage of one domain. -/
theorem voltedBy_limited (x : DomMeas) :
    let measured : Domain := { getDom s x.dom with temp := x.temp, rate := x.rate, demand := x.demand }
    let limited := limitedBy x (tjThrot s) measured
    voltedBy x { limited with target := rateChoice false true (overCur x) (rmin s x.dom) (rmax s x.dom) x.demand limited.target } =
      afterPeriod s x := by
  have target := rateChoice_newTarget (s := s) x
  have thr : (if decide (x.temp ≥ tjThrot s) = true then true else (getDom s x.dom).thr && decide (x.temp ≥ tjThrot s - 16)) = throttled s x := by
    cases hot : decide (x.temp ≥ tjThrot s) <;> simp [throttled, hot]
  simp only [limitedBy, target, thr]
  rfl

/-- A period outside BRINGUP and SLEEP, to its end: the measurements and the orders of R634. -/
def periodRun (l : List DomMeas) (s : State) : State :=
  let s := l.foldl (fun s x => whorlMeasure x s) s
  let s := l.foldl (fun s x => whorlLimit x s) s
  let s := if s.mode = .halt ∨ s.m.pwr.critical then s else l.foldl (fun s x => whorlRate x s) (capRound s)
  let s := if s.mode = .halt ∨ s.m.pwr.critical then slowAll s else s
  l.foldl (fun s x => whorlVolt x s) s

/-- One domain measured, below the cap and without rounds. -/
theorem periodRun_one {x : DomMeas} (dom : x.dom < 36) (awake : domParked s x.dom = false) (none : s.m.pwr.rounds = [])
    (ok : s.m.pwr.pin ≤ 1000 * capW s) (runs : ¬ (s.mode = .halt ∨ s.m.pwr.critical = true)) :
    periodRun [x] s = updDom x.dom (fun _ => afterPeriod s x) s := by
  have awake' (f) : domParked (updDom x.dom f s) x.dom = false := awake
  have none' (f) : (updDom x.dom f s).m.pwr.rounds = [] := none
  have ok' (f) : (updDom x.dom f s).m.pwr.pin ≤ 1000 * capW (updDom x.dom f s) := ok
  have runs' (f) : ¬ ((updDom x.dom f s).mode = .halt ∨ (updDom x.dom f s).m.pwr.critical = true) := runs
  have limits : whorlLimit x (whorlMeasure x s) = updDom x.dom (fun d =>
      limitedBy x (tjThrot s) { d with temp := x.temp, rate := x.rate, demand := x.demand }) s := by
    rw [whorlMeasure, whorlLimit_eq dom (awake' _), updDom_updDom]
    rfl
  simp only [periodRun, List.foldl_cons, List.foldl_nil, limits, runs', if_false]
  rw [capRound_idle (none' _) (ok' _), whorlRate_eq dom (awake' _) (none' _) (ok' _), updDom_updDom]
  simp only [runs', if_false]
  rw [whorlVolt_eq dom (awake' _), updDom_updDom, getDom_updDom]
  exact updDom_congr (voltedBy_limited x)

/-- The supply as it is measured. -/
def supplied (vin iin pin : Nat) (s : State) : State := updPwr (fun p => { p with vin := vin, iin := iin, pin := pin }) s

theorem exec_whorlPeriod_off (vin iin pin : Nat) (off : s.mode = .bringup ∨ s.mode = .sleep) (l : List DomMeas) :
    exec (.whorlPeriod vin iin pin l) s = .next (l.foldl (fun s x => updDom x.dom (fun d => { d with temp := x.temp }) s) (supplied vin iin pin s)) :=
  congrArg Host.Outcome.next (if_pos off)

theorem exec_whorlPeriod_on (vin iin pin : Nat) (on : ¬ (s.mode = .bringup ∨ s.mode = .sleep)) (l : List DomMeas) :
    exec (.whorlPeriod vin iin pin l) s = .next (periodEnd l (periodRun l (supplied vin iin pin s))) :=
  congrArg Host.Outcome.next (if_neg on)

/-- One domain measured outside HALT and below the critical temperature. -/
theorem exec_whorlPeriod_one (vin iin pin : Nat) {x : DomMeas} (dom : x.dom < 36) (mode : s.mode = .standby ∨ s.mode = .run ∨ s.mode = .drowse)
    (cool : s.m.pwr.critical = false) (awake : domParked s x.dom = false) (none : s.m.pwr.rounds = []) (ok : pin ≤ 1000 * capW s) :
    exec (.whorlPeriod vin iin pin [x]) s =
      .next (periodEnd [x] (updDom x.dom (fun _ => afterPeriod s x) (supplied vin iin pin s))) := by
  have up : ¬ (s.mode = .bringup ∨ s.mode = .sleep) := by obtain m | m | m := mode <;> simp [m]
  have runs : ¬ (s.mode = .halt ∨ s.m.pwr.critical = true) := by obtain m | m | m := mode <;> simp [m, cool]
  exact (exec_whorlPeriod_on vin iin pin up [x]).trans
    (congrArg (fun t => Host.Outcome.next (periodEnd [x] t)) (periodRun_one (s := supplied vin iin pin s) dom awake none ok runs))

/-- In HALT and at a critical temperature every domain that the whorl controls slows down. -/
theorem exec_whorlPeriod_slow (vin iin pin : Nat) (slow : s.mode = .halt ∨ s.m.pwr.critical = true) (up : s.mode ≠ .bringup) (awake : s.mode ≠ .sleep) :
    exec (.whorlPeriod vin iin pin []) s = .next (periodEnd [] (slowAll (supplied vin iin pin s))) := by
  have slow' : (supplied vin iin pin s).mode = .halt ∨ (supplied vin iin pin s).m.pwr.critical = true := slow
  rw [exec_whorlPeriod_on vin iin pin (by simp [up, awake])]
  simp only [periodRun, List.foldl_nil, slow', if_true]

/-- A domain that is slowed down. -/
def slowed (d : Domain) : Domain := { d with target := 1600, rate := min d.rate 1600 }

theorem getDom_slowAll {d : Nat} (dom : d < 36) (awake : domParked s d = false) : getDom (slowAll s) d = slowed (getDom s d) := by
  have all := get_foldl_keys (get := getDom) (upd := fun s d => updDom d slowed s) (f := fun _ => slowed) (fun _ => True) (fun _ _ _ => trivial)
    (fun _ _ _ => getDom_updDom ..) (fun _ _ _ => getDom_updDom_other _) (l := whorlDoms s) (List.nodup_range.filter _) trivial (s := s) d
  rw [if_pos (by simp [whorlDoms, upto, dom, awake])] at all
  exact all

theorem slowAll_mem : (slowAll s).mem = s.mem :=
  List.foldlRecOn (motive := fun t : State => t.mem = s.mem) _ _ rfl fun _ h _ _ => h

end

/-- Settles O53: the exit resumes the count, marks and samples, and enters the mode held before; parking and waking are one change each; a period is
the passes over the measured domains, and its end touches LIMITED and condition 3 alone. -/
theorem sleepParkingAndTheWhorl : Obligations.SleepParkingAndTheWhorl := by
  refine ⟨fun s => ⟨fun ticks p asleep started still free => ?exit, fun ticks p ok _ quiet none => exec_sleepExit_asleep ticks p ok quiet none,
      fun k can => ⟨_, exec_skeinPark can, ?parked, fun j other => getSk_updSk_other _ _ other, rfl, rfl, rfl, parkAck_todo⟩,
      fun k parked => ⟨exec_skeinWake parked, skSector_toNat k ▸ fabric_wakes (skSector k)⟩,
      fun n mode awake sector allowed low idle => ⟨exec_sectorPark mode awake sector allowed low idle, exec_sectorPark_busy⟩, fun n => rfl⟩,
    fun vin iin pin s => ⟨fun x dom mode cool awake none ok => ?one, fun slow => ?slow, fun off l => exec_whorlPeriod_off vin iin pin off l⟩⟩
  case exit =>
    intro v fits
    obtain ⟨unc, clock, wakes⟩ := sleepWake_eq ticks p free still
    rw [Nat.mod_eq_of_lt fits] at wakes
    exact ⟨_, (exec_sleepExit asleep started).trans (congrArg _ wakes), exit_spec v unc clock still⟩
  case parked => exact congrArg Skein.parked (getSk_updSk ..)
  case one =>
    have up := exec_whorlPeriod_one vin iin pin dom mode cool awake none ok
    obtain ⟨pwr, ctxs, mem, spindles, tb⟩ := periodEnd_keeps [x] (updDom x.dom (fun _ => afterPeriod s x) (supplied vin iin pin s))
    have doms (d) : getDom (periodEnd [x] (updDom x.dom (fun _ => afterPeriod s x) (supplied vin iin pin s))) d =
        getDom (updDom x.dom (fun _ => afterPeriod s x) (supplied vin iin pin s)) d := by rw [getDom, pwr, getDom]
    exact ⟨_, up, by rw [pwr]; rfl, by rw [pwr]; rfl, by rw [pwr]; rfl, (doms _).trans (getDom_updDom ..),
      fun d other => (doms d).trans (getDom_updDom_other _ other), ctxs, mem, spindles, tb⟩
  case slow =>
    intro up awake
    obtain ⟨pwr, -, mem, -⟩ := periodEnd_keeps [] (slowAll (supplied vin iin pin s))
    refine ⟨_, exec_whorlPeriod_slow vin iin pin slow up awake, fun d dom on => ?_, mem.trans slowAll_mem⟩
    rw [getDom, pwr]
    exact congrArg Domain.target (getDom_slowAll (s := supplied vin iin pin s) dom on)

end Sys2Proof.Proofs

/-! SUPPORT. Reels and carders: one branch for each state of a descriptor, one result for each request (R511, R512, R531 to R537) -/

namespace Sys2Proof.Proofs

open Sys2Proof.Machine Sys2Proof.Expected Sys2Proof.Laws

-- one theorem after another: every thread that waits takes a stack of the check's memory
set_option Elab.async false

section
variable {k : SkId} {s : State}

/-! ## Reels (R511, R512) -/

section
variable {r : BitVec 1} {d : ReelDesc}

/-- A free reel takes the next descriptor. -/
theorem exec_evac_take (runs : issuing s = true) (free : mapGet [] (getSk s k).reels r.toNat = []) (next : reelNext (getSk s k) = some d) :
    exec (.evac k r) s = .next (setReel k r.toNat (some d)
      (updSk k (fun y => { y with reelQ := y.reelQ.filter (fun e => e ≠ d), reelLast := rdParty d }) s)) := by
  change Host.Outcome.next (reelRun k r.toNat s) = _
  simp only [reelRun, free, runs, if_true, reelTake, next]

/-- A descriptor without further granules finishes. -/
theorem exec_evac_end (runs : issuing s = true) (works : mapGet [] (getSk s k).reels r.toNat = [d]) (free : d.claim = none)
    (last : rdCount d ≤ d.next) : exec (.evac k r) s = .next (reelFinish k d 0 (setReel k r.toNat none s)) := by
  change Host.Outcome.next (reelRun k r.toNat s) = _
  simp only [reelRun, works, free, runs, if_true, reelStep, ge_iff_le, last, reelStop]

theorem reelTry_ok {α : Type} {m : X α} {fail : State → State} {go : α → State → State} {a : α} {t : State} (ok : asSubmitter d m s = .ok a t) :
    reelTry d m fail go s = go a t := by
  rw [reelTry, ok]

/-- A claimed granule whose entry and lines can be reached is copied. -/
theorem exec_evac_copy {cl : Claim} {e : Datum} {v t u : State} {bad : Option Nat} (works : mapGet [] (getSk s k).reels r.toNat = [d])
    (claimed : d.claim = some cl) (entry : asSubmitter d (xTable d.ctx k 3 cl.ent) s = .ok e v)
    (lines : asSubmitter d (do
      xGranule d.ctx k 3 (2 ^ cbGsh (blockAt s k d.tag)) cl.srcP cl.dstP cl.ent
      if rdFwdm d then xUnitLine d.ctx k cl.srcP true 3
      pure ()) v = .ok () t)
    (copy : asSubmitter d (copied d k r (2 ^ cbGsh (blockAt s k d.tag)) e cl) t = .ok bad u) :
    exec (.evac k r) s = .next (if bad.isSome then reelFinish k { d with claim := none, next := d.next + 1 } 2 (setReel k r.toNat none u)
      else setReel k r.toNat (some { d with claim := none, next := d.next + 1, copied := d.copied + 1 })
        (if rdFwdm d then putCell (some d.ctx) cl.srcP (mkCell 3 tFWD (rlDest e)) u else u)) := by
  change Host.Outcome.next (reelRun k r.toNat s) = _
  simp only [reelRun, works, claimed, reelCopy]
  rw [reelTry_ok entry]
  refine congrArg Host.Outcome.next ((reelTry_ok lines).trans ((reelTry_ok copy).trans ?_))
  cases bad <;> rfl

end

/-! ## The carder (R531 to R537) -/

/-- The keys of an entry that needs no correction verify. -/
theorem cVerify_keys {e : CEnt} (plain : cPlain e = true) : (cVerify { e with val := nilCell }).isNone = false := by
  simp only [cPlain, Bool.and_eq_true, decide_eq_true_eq] at plain
  obtain ⟨⟨k0, k1⟩, mt⟩ := plain
  have nil : verify nilCell = some (nilCell, false) := by decide +kernel
  simp only [cVerify, verify_of_zero k0, verify_of_zero k1, verify_of_zero mt, nil, Option.isNone_some]

/-- The winner is one of the entries. -/
theorem cWinner_mem {o : BitVec 7} {k0 k1 : Cell} {pa pb : Bool} {m : SMap CEnt} {e : Nat × CEnt} (found : cWinner o k0 k1 pa pb m = some e) :
    e ∈ m := by
  have mem : ∀ e, cWinner o k0 k1 pa pb m = some e → e ∈ m := by
    refine List.foldlRecOn (motive := fun r : Option (Nat × CEnt) => ∀ e, r = some e → e ∈ m) _ _ (by simp) fun r ih x hx e he => ?_
    have here : x ∈ m := (List.mem_filter.mp hx).1
    cases r with
    | none =>
      cases he
      exact here
    | some b =>
      dsimp only at he
      split at he
      · cases he
        exact here
      · exact ih e he
  exact mem e found

section
variable {r : CReq} {q : List CReq}

/-- The entry that an operation finds among keys that need no correction has no uncorrectable key. -/
theorem cFoundBad_plain {m : SMap CEnt} (plain : ∀ e ∈ m, cPlain e.2 = true) : cFoundBad r m = false := by
  have keys (f : Option (Nat × CEnt)) (mem : ∀ e, f = some e → e ∈ m) : (f.any fun e => (cVerify { e.2 with val := nilCell }).isNone) = false := by
    cases f with
    | none => rfl
    | some e => exact cVerify_keys (plain e (mem e rfl))
  cases op : r.op
  case probe => simpa only [cFoundBad, op] using keys _ fun e found => cWinner_mem found
  case ins => simp only [cFoundBad, op, Option.any_none]
  case del =>
    rw [cFoundBad, op]
    exact keys _ fun e found => List.mem_of_find?_eq_some (show m.find? _ = some e from found)

/-- The carder's state once it has taken a request. -/
def dequeued (k : SkId) (q : List CReq) (s : State) : State := updSk k (fun x => { x with cardQ := q }) s

theorem dequeued_card : (getSk (dequeued k q s) k).card = (getSk s k).card := by
  rw [dequeued, getSk_updSk]

/-- An operation on the entries as they stand. -/
def cardApply (k : SkId) (r : CReq) (s : State) : Cell × Bool × State :=
  match r.op with
  | .probe => applyProbe k r s
  | .ins => applyIns k r s
  | .del => applyDel k r s

/-- Where no key needs a correction the request is applied as it stands, and its result delivered. -/
theorem exec_carderAccept {v : Cell} {p : Bool} {t : State} (head : (getSk s k).cardQ = r :: q) (plain : ∀ e ∈ (getSk s k).card, cPlain e.2 = true)
    (apply : cardApply k r (dequeued k q s) = (v, p, t)) : exec (.carderAccept k) s = .next (cardAdmit k 32 (cardDeliver k r v p t)) := by
  have plain' : ∀ e ∈ (getSk (dequeued k q s) k).card, cPlain e.2 = true := by rwa [dequeued_card]
  have all := List.all_eq_true.mpr plain'
  change Host.Outcome.next (cardAccept k s) = _
  simp only [cardAccept, head]
  change Host.Outcome.next (let t := cMendAll k (dequeued k q s); let u := cScrub k t
    let a := if cFoundBad r (getSk t k).card then (fixCell 5, false, u) else cardApply k r u
    cardAdmit k 32 (cardDeliver k r a.1 a.2.1 a.2.2)) = _
  have mended : cMendAll k (dequeued k q s) = dequeued k q s := if_pos all
  have scrubbed : cScrub k (dequeued k q s) = dequeued k q s := if_pos all
  simp only [mended, scrubbed, cFoundBad_plain plain', apply, Bool.false_eq_true, if_false]

/-- An entry that verifies as it stands is read as it stands. -/
theorem cRead_sound {i : Nat} (sound : cVerify (mapGet {} (getSk s k).card i) = some (mapGet {} (getSk s k).card i)) :
    cRead k i s = (some (mapGet {} (getSk s k).card i), s) := by
  simp only [cRead, sound, if_true]

theorem applyProbe_none (none : cWinner (ownerBits r.hv r.hank) r.k0 r.k1 r.wa r.wb (getSk s k).card = none) :
    applyProbe k r s = (unsetCell, false, s) := by
  simp only [applyProbe, none]

theorem applyProbe_some {i : Nat} {e : CEnt} (found : cWinner (ownerBits r.hv r.hank) r.k0 r.k1 r.wa r.wb (getSk s k).card = some (i, e))
    (sound : cVerify (mapGet {} (getSk s k).card i) = some (mapGet {} (getSk s k).card i)) :
    applyProbe k r s = ((mapGet {} (getSk s k).card i : CEnt).val, true,
      updSk k (fun x => { x with card := mapSet {} x.card i (withAge (mapGet {} (getSk s k).card i) 0) }) s) := by
  simp only [applyProbe, found, cRead_sound sound]

theorem applyDel_some {i : Nat} {e : CEnt} (found : cSame (ownerBits r.hv r.hank) r.k0 r.k1 r.wa r.wb (getSk s k).card = some (i, e))
    (sound : cVerify (mapGet {} (getSk s k).card i) = some (mapGet {} (getSk s k).card i)) :
    applyDel k r s = ((mapGet {} (getSk s k).card i : CEnt).val, true, updSk k (fun x => { x with card := mapDel i x.card }) s) := by
  simp only [applyDel, found, cRead_sound sound]

/-- The entry that an insertion writes. -/
def inserted (r : CReq) : CEnt :=
  { k0 := if r.wa then nilCell else sealCell r.k0, k1 := if r.wb then nilCell else sealCell r.k1, val := sealCell r.v
    meta_ := metaCell r.wa r.wb r.lock (ownerBits r.hv r.hank) 1 r.user }

theorem applyIns_free {i : Nat} (new : cSame (ownerBits r.hv r.hank) r.k0 r.k1 r.wa r.wb (getSk s k).card = none)
    (room : cardHeldBy (getSk s k) (ownerBits r.hv r.hank) < (cardMode s (getSk s k) r.hv r.hank).2)
    (free : cFreeEntry (getSk s k).card = some i) :
    applyIns k r s = (rawCell (dat i), true, updSk k (fun x => { x with card := mapSet {} x.card i (inserted r) }) s) := by
  have quota : (cardMode s (getSk s k) r.hv r.hank).2 ≠ 0 := by omega
  simp only [applyIns, new, cinsPlace, quota, room, free, if_true, if_false, cinsResult, Nat.mul_zero, Nat.zero_add]
  rfl

/-- The mode and the quota of an owner do not depend on the queue. -/
theorem cardMode_dequeued (hv : Bool) (h : BitVec 6) :
    cardMode (dequeued k q s) (getSk (dequeued k q s) k) hv h = cardMode s (getSk s k) hv h := by
  rw [dequeued, getSk_updSk]
  cases hv <;> rfl

theorem cardHeldBy_dequeued (o : BitVec 7) : cardHeldBy (getSk (dequeued k q s) k) o = cardHeldBy (getSk s k) o := by
  rw [cardHeldBy, dequeued_card, cardHeldBy]

end

end

/-- Settles O43: a step of a reel is one branch of its descriptor's state; a request is applied to the entries as they stand where no key needs a
correction, and its result delivered. -/
theorem reelsAndCardersServe : Obligations.ReelsAndCardersServe := by
  refine ⟨fun k r s => ⟨fun d => exec_evac_take, fun d => exec_evac_end, fun d cl e v t works claimed => ?copies⟩,
    fun k s up => congrArg Host.Outcome.next (hostWr_served up), fun k r q s head plain => ?carder⟩
  case copies =>
    intro n entry lines
    exact ⟨fun u copy => exec_evac_copy works claimed entry lines copy, fun i u copy => exec_evac_copy works claimed entry lines copy⟩
  case carder =>
    intro o m u done
    have card : (getSk (dequeued k q s) k).card = m := dequeued_card
    refine ⟨fun op none => exec_carderAccept head plain ?_, fun i e op found sound => exec_carderAccept head plain ?_,
      fun i op new room free => exec_carderAccept head plain ?_, fun i e op found sound => exec_carderAccept head plain ?_⟩
    · rw [cardApply, op]
      exact applyProbe_none (by rw [card]; exact none)
    · rw [cardApply, op]
      exact (applyProbe_some (by rw [card]; exact found) (by rw [card]; exact sound)).trans (by rw [card]; rfl)
    · rw [cardApply, op]
      exact applyIns_free (by rw [card]; exact new) (by rw [cardHeldBy_dequeued, cardMode_dequeued]; exact room) (by rw [card]; exact free)
    · rw [cardApply, op]
      exact (applyDel_some (by rw [card]; exact found) (by rw [card]; exact sound)).trans (by rw [card]; rfl)

end Sys2Proof.Proofs

/-! SUPPORT. The doorbell page, the dirty log's synchronisation, submission entries and commands (R562 to R568, R574) -/

namespace Sys2Proof.Proofs

open Sys2Proof.Machine Sys2Proof.Expected Sys2Proof.Laws

-- one theorem after another: every thread that waits takes a stack of the check's memory
set_option Elab.async false

section
variable {h : BitVec 6} {s : State}

/-- What a change makes of the hank as it stands says all about it. -/
theorem updHank_congr {f g : Hank → Hank} (same : f (getHank s h) = g (getHank s h)) : updHank h f s = updHank h g s :=
  congrArg (setHank s h) same

theorem getHank_linkSend (m : LinkMsg) : getHank (linkSend m s) h = getHank s h := rfl

/-! ## The doorbell page (R562) -/

section
variable {v : BitVec 64} {f : State → State}

theorem pageOk_spec (ok : pageOk h v s = true) :
    served s = true ∧ v.extractLsb' 48 16 = (getHank s h).gen ∧ ((getHank s h).state = 1 ∨ (getHank s h).state = 2) := by
  simpa only [pageOk, Bool.and_eq_true, decide_eq_true_eq, and_assoc] using ok

/-- A write that passes its GEN check in a running hank acts. -/
theorem pageWrite_ok (ok : pageOk h v s = true) : pageWrite h v f s = f s := by
  obtain ⟨up, gen, runs⟩ := pageOk_spec ok
  have stays : ¬ ((getHank s h).state = 3 ∨ (getHank s h).state = 4) := by obtain r | r := runs <;> simp [r]
  rw [pageWrite, hostWr_served up]
  dsimp only
  rw [if_neg (not_not.mpr gen), if_neg stays]

/-- Another GEN only counts. -/
theorem pageWrite_stale (up : served s = true) (stale : v.extractLsb' 48 16 ≠ (getHank s h).gen) :
    pageWrite h v f s = updHank h (fun k => { k with stalecnt := min (2 ^ 32 - 1) (k.stalecnt + 1) }) s := by
  rw [pageWrite, hostWr_served up]
  exact if_pos stale

theorem exec_sqtail (ok : pageOk h v s = true) (on : (getHank s h).cur.sqs ≠ 0) : exec (.sqtail h v) s = .next (updHank h (fun k =>
    { k with sqtail := BitVec.ofNat 16 ((v.extractLsb' 0 16).toNat % 2 ^ k.cur.sqs.toNat) }) s) := by
  refine congrArg Host.Outcome.next ((pageWrite_ok ok).trans (updHank_congr ?_))
  rw [if_neg on, bits_toNat]

theorem exec_cqhead (ok : pageOk h v s = true) (on : (getHank s h).cur.cqs ≠ 0) : exec (.cqhead h v) s = .next (updHank h (fun k =>
    { k with cqhead := BitVec.ofNat 16 ((v.extractLsb' 0 16).toNat % 2 ^ k.cur.cqs.toNat), msixSent := false }) s) := by
  refine congrArg Host.Outcome.next ((pageWrite_ok ok).trans (updHank_congr ?_))
  rw [if_neg on, bits_toNat]

/-- A write that names a context of the hank reaches it. -/
theorem pageCtx_ok {g : CtxId → State → State} (ok : pageOk h v s = true) (there : (getCtx s (v.extractLsb' 0 16)).st ≠ .free)
    (hv : (getCtx s (v.extractLsb' 0 16)).hv = true) (mine : (getCtx s (v.extractLsb' 0 16)).hank = h) :
    pageCtx h v g s = g (v.extractLsb' 0 16) s := by
  rw [pageCtx, pageWrite_ok ok]
  exact if_neg (by simp [there, hv, mine])

end

/-! ## The dirty log's synchronisation (R574) -/

theorem exec_sync_busy (up : served s = true) (busy : (getHank s h).sbusy = true) : exec (.sync h) s = .next s := by
  refine congrArg Host.Outcome.next ((hostWr_served up).trans ?_)
  rw [hankSync, busy, if_pos rfl]

/-- The flush read leaves where the link carries it. -/
theorem flushStep_want (up : linkUp s = true) (a : BitVec 64) :
    flushStep (.want a) s = (.out (s.m.clock + ctoNs s.host.cto), linkSend (.read a 0 false) s) := by
  simp only [flushStep, linkDead_of_linkUp up, up, Bool.not_true, Bool.false_eq_true, if_false]

/-- A synchronisation that wants its flush read sends it. -/
theorem syncStep_want {a : BitVec 64} (wants : (getHank s h).sync = .want a) (up : linkUp s = true) :
    syncStep h s = updHank h (fun k => { k with sync := .out (s.m.clock + ctoNs s.host.cto), sbusy := k.sbusy && true })
      (linkSend (.read a 0 false) s) := by
  simp only [syncStep, wants, reduceCtorEq, if_false, flushStep_want up]
  rfl

/-- A synchronisation starts: the record of marks empties. -/
theorem hankSync_idle (idle : (getHank s h).sbusy = false) : hankSync h s = syncStep h (updHank h (fun k =>
    { k with sbusy := true, marked := [], sync := .want ((getHank s h).sent.getD (getHank s h).dlmap) }) s) := by
  simp only [hankSync, idle, Bool.false_eq_true, if_false]
  exact congrArg (syncStep h) (updHank_congr rfl)

theorem exec_sync (up : served s = true) (idle : (getHank s h).sbusy = false) (link : linkUp s = true) :
    exec (.sync h) s = .next (updHank h (fun k => { k with sync := .out (s.m.clock + ctoNs s.host.cto) })
      (linkSend (.read ((getHank s h).sent.getD (getHank s h).dlmap) 0 false)
        (updHank h (fun k => { k with sbusy := true, marked := [], sync := .want ((getHank s h).sent.getD (getHank s h).dlmap) }) s))) := by
  refine congrArg Host.Outcome.next ((hostWr_served up).trans ?_)
  rw [hankSync_idle idle]
  refine (syncStep_want (congrArg Hank.sync (getHank_updHank ..)) ?_).trans (updHank_congr ?_)
  · exact link
  simp only [getHank_linkSend, getHank_updHank]
  rfl

/-- The flush read of a synchronisation has returned. -/
theorem exec_syncComplete_sync {d : Nat} (sent : (getHank s h).sync = .out d) (quiet : flushOut (getHank s h).flush = false)
    (none : (getHank s h).pend = 0) : exec (.syncComplete h) s = .next (updHank h (fun k => { k with sync := .none, sbusy := false }) s) := by
  change execSyncComplete h s = _
  have out : flushOut (getHank s h).sync = true := by rw [sent]; rfl
  simp only [execSyncComplete, out, quiet, Bool.false_eq_true, if_false, if_true, hankSettle, syncStep, getHank_updHank, none]

/-- The hank's own flush read has returned: the command that waits for it goes on. -/
theorem exec_syncComplete_flush {d : Nat} (quiet : flushOut (getHank s h).sync = false) (sent : (getHank s h).flush = .out d) :
    exec (.syncComplete h) s = .next (hankSettle h (updHank h (fun k => { k with flush := .none }) s)) := by
  change execSyncComplete h s = _
  have out : flushOut (getHank s h).flush = true := by rw [sent]; rfl
  simp only [execSyncComplete, out, quiet, Bool.false_eq_true, if_false, if_true]

/-! ## Submission entries (R563 to R568) -/

/-- The command that four words of an entry describe. -/
def entryCmd (w0 w1 w2 w3 : BitVec 64) : SubCmd :=
  { gen := w0.extractLsb' 48 16, cid := w0.extractLsb' 32 16, op := w0.extractLsb' 24 8, arg0 := w1, arg1 := w2, arg2 := w3, stat := 0, done := 0 }

/-- The next entry has been read. -/
def fetched (h : BitVec 6) (a : BitVec 64) (s : State) : State :=
  updHank h (fun k => { k with sqhead := BitVec.ofNat 16 ((k.sqhead.toNat + 1) % 2 ^ k.cur.sqs.toNat) })
    (linkSend (.read a 4 false) s)

section
variable {w0 w1 w2 w3 a : BitVec 64} (may : mayFetch s h = true)
  (there : busAddr s (paOf ((getHank s h).cur.sqbase.toNat + 4 * (getHank s h).sqhead.toNat)) = some a)
include may there

/-- An entry that may run joins the commands. -/
theorem exec_submissionFetch {t : State} (runs : entryStatus h (entryCmd w0 w1 w2 w3) (fetched h a s) = (0, t)) :
    exec (.submissionFetch h w0 w1 w2 w3) s = .next (updHank h (fun k => { k with cmds := k.cmds ++ [entryCmd w0 w1 w2 w3] }) t) := by
  unfold entryCmd fetched at runs
  change execSubmissionFetch h w0 w1 w2 w3 s = _
  simp only [execSubmissionFetch, may, Bool.not_true, Bool.false_eq_true, if_false, there]
  rw [runs]
  rfl

/-- An entry of a bad operation is kept with its status. -/
theorem exec_submissionFetch_bad (gen : w0.extractLsb' 48 16 = (getHank s h).gen) (bad : 4 < (w0.extractLsb' 24 8).toNat) :
    let c : SubCmd := { entryCmd w0 w1 w2 w3 with gen := (getHank s h).gen, op := 0, stat := 2 }
    let t := updHank h (fun k => { k with cmds := k.cmds ++ [c] }) (fetched h a s)
    exec (.submissionFetch h w0 w1 w2 w3) s = .next (refusedEnd h (getHank t h).cmds.length t) := by
  have gen' : (entryCmd w0 w1 w2 w3).gen = (getHank (fetched h a s) h).gen := by
    rw [fetched, getHank_updHank, getHank_linkSend]
    exact gen
  have refused : entryStatus h (entryCmd w0 w1 w2 w3) (fetched h a s) = (2, fetched h a s) := by
    rw [entryStatus]
    dsimp only
    rw [if_neg (not_not.mpr gen'), if_pos (.inr bad)]
  unfold entryCmd fetched at refused
  change execSubmissionFetch h w0 w1 w2 w3 s = _
  simp only [execSubmissionFetch, may, Bool.not_true, Bool.false_eq_true, if_false, there]
  rw [refused]
  rfl

end

/-- A refused entry that stands alone completes with its status. -/
theorem refusedEnd_alone {c : SubCmd} (alone : (getHank s h).cmds = [c]) (refused : c.op = 0) :
    refusedEnd h 1 s = hankComplete h c c.stat.toNat 0 (updHank h (fun k => { k with cmds := [] }) s) := by
  have first : ([c].takeWhile fun d => decide (d.op ≠ 4)) = [c] := by simp [refused]
  have found : ([c].zipIdx.find? fun e => decide (e.1.op = 0)) = some (c, 0) := by simp [refused]
  rw [refusedEnd, alone, first, found]
  exact congrArg (hankComplete h c c.stat.toNat 0) (updHank_congr (by simp only [alone, List.eraseIdx_zero, List.tail_cons]))

/-- Behind a FENCE nothing completes. -/
theorem refusedEnd_fence {f : SubCmd} {l : List SubCmd} (behind : (getHank s h).cmds = f :: l) (fence : f.op = 4) (n : Nat) :
    refusedEnd h n s = s := by
  cases n with
  | zero => rfl
  | succ n =>
    have none : ((f :: l).takeWhile fun d => decide (d.op ≠ 4)) = [] := by simp [fence]
    rw [refusedEnd, behind, none]
    rfl

/-! ## Commands that run (R564) -/

section
variable {i : Nat} {c : SubCmd}

/-- The last block of a READ. -/
theorem exec_read {t : State} (runs : cmdAt s h i 1 = some c) (alive : linkDead s = false)
    (last : c.done + min 512 (c.arg2.toNat - c.done) = c.arg2.toNat)
    (sent : readCells h (bits c.arg0.toNat 0 40 + c.done) (bits c.arg1.toNat 0 40 + c.done) (c.arg2.toNat - c.done) 0 ([], 0, false) false s =
      (c.arg2.toNat - c.done, false, false, t)) :
    exec (.read h i) s = .next (cmdEnd h i { c with done := c.arg2.toNat } c.stat.toNat (BitVec.ofNat 64 c.arg2.toNat) t) := by
  have block : min 512 (c.arg2.toNat - c.done) = c.arg2.toNat - c.done := by omega
  have whole : c.done + (c.arg2.toNat - c.done) = c.arg2.toNat := by omega
  change execRead h i s = _
  simp only [execRead, runs, alive, block, sent, whole, Bool.false_eq_true, if_false, if_true]

/-- A cell whose bus address follows joins the read. -/
theorem readRuns_next {src k j : Nat} {b : BitVec 64} (follows : busAddr s (paOf (src + j)) = some (b + BitVec.ofNat 64 (8 * j)))
    (more : j < maxRead s) : readRuns src (k + 1) j (some (b, j)) s = readRuns src k (j + 1) (some (b, j + 1)) s := by
  rw [readRuns.eq_def]
  simp only [follows, more, and_self, if_true]

theorem readRuns_first {src k : Nat} {b : BitVec 64} (first : busAddr s (paOf (src + 0)) = some b) :
    readRuns src (k + 1) 0 none s = readRuns src k 1 (some (b, 1)) s := by
  rw [readRuns.eq_def]
  simp only [first]

/-- Cells whose bus addresses follow each other, within one read, are one read. -/
theorem readRuns_joined {src : Nat} {b : BitVec 64} : ∀ {k j : Nat}, j + k ≤ maxRead s → (∀ i, i < j + k → busAddr s (paOf (src + i)) =
    some (b + BitVec.ofNat 64 (8 * i))) → readRuns src k j (some (b, j)) s = linkSend (.read b (j + k) false) s
  | 0, _, _, _ => by rw [readRuns.eq_def]; rfl
  | k + 1, j, few, addr => by
    rw [readRuns_next (addr j (by omega)) (by omega), readRuns_joined (by omega) (fun i hi => addr i (by omega)), Nat.add_assoc, Nat.add_comm 1]

theorem readRuns_one {src n : Nat} {b : BitVec 64} (room : 0 < n) (few : n ≤ maxRead s)
    (addr : ∀ j, j < n → busAddr s (paOf (src + j)) = some (b + BitVec.ofNat 64 (8 * j))) :
    readRuns src n 0 none s = linkSend (.read b n false) s := by
  obtain ⟨k, rfl⟩ : ∃ k, n = k + 1 := ⟨n - 1, by omega⟩
  have first : busAddr s (paOf (src + 0)) = some b := by simpa using addr 0 room
  rw [readRuns_first first, Nat.add_comm k 1]
  exact readRuns_joined (by omega) fun i hi => addr i (by omega)

/-- The last block of a WRITE. -/
theorem exec_write {data : List Cell} (runs : cmdAt s h i 2 = some c) (alive : linkDead s = false) (last : data.length = c.arg2.toNat - c.done)
    (room : 0 < data.length) (few : data.length ≤ 512)
    (addr : ∀ j, j < data.length → (busAddr s (paOf (bits c.arg1.toNat 0 40 + c.done + j))).isSome = true) :
    exec (.write h i data true) s = .next (cmdEnd h i { c with done := c.arg2.toNat } 0 (BitVec.ofNat 64 c.arg2.toNat)
      (data.zipIdx.foldl (fun s e =>
        let a := paOf (bits c.arg0.toNat 0 40 + c.done + e.2)
        putCell none a e.1 (hostReach (lineOf a) true s)) (readRuns (bits c.arg1.toNat 0 40 + c.done) data.length 0 none s))) := by
  have block : min 512 (c.arg2.toNat - c.done) = data.length := by omega
  have whole : c.done + data.length = c.arg2.toNat := by omega
  have reach : ((upto data.length).takeWhile fun j => (busAddr s (paOf (bits c.arg1.toNat 0 40 + c.done + j))).isSome).length = data.length :=
    (congrArg List.length (List.takeWhile_eq_self_iff.mpr fun j hj => addr j (List.mem_range.mp hj))).trans List.length_range
  change execWrite h i data true s = _
  simp only [execWrite, runs, alive, block, reach, List.take_length, whole, Bool.not_true, Bool.false_or, Nat.lt_irrefl,
    decide_false, Bool.false_eq_true, if_false, if_true]

/-- A context command acts at L1 and completes with its result. -/
theorem exec_submissionCtxcmd (runs : cmdAt s h i 3 = some c) (new : c.done = 0) (free : bits (getHank s h).res.toNat 44 4 ≠ 0xF) :
    let v : Datum := c.arg0.extractLsb' 0 48
    let t := ctxCommand (bits v.toNat 44 4) (ctxCmdOf (.hank h) v) (updHank h (fun k => { k with arg := c.arg1.extractLsb' 0 48 }) s)
    bits (getHank t h).res.toNat 44 4 ≠ 0xF →
      exec (.submissionCtxcmd h i) s = .next (cmdEnd h i c 0 ((getHank t h).res.setWidth 64) t) := by
  intro v t ended
  change execSubmissionCtxcmd h i s = _
  simp only [execSubmissionCtxcmd, runs, new, Nat.zero_ne_one, free, decide_false, Bool.false_eq_true, if_false]
  exact congrArg Host.Outcome.next (if_neg (by rw [decide_eq_true_eq]; exact ended))

/-- The oldest FENCE completes. -/
theorem exec_fence (runs : cmdAt s h 0 4 = some c) : exec (.fence h) s = .next (cmdEnd h 0 c 0 0 s) := by
  change execFence h s = _
  simp only [execFence, runs]

end

end

/-- Settles O45: a doorbell-page write is `pageWrite`; a fetched entry joins the commands or is kept as refused, and a command's last block ends it. -/
theorem hankQueuesRun : Obligations.HankQueuesRun := by
  refine ⟨fun h v s => ⟨exec_sqtail, exec_cqhead, fun ok there hv mine => ⟨?_, ?_⟩, fun up stale => ⟨?_, ?_, ?_, ?_⟩,
      exec_sync, exec_sync_busy, fun d => exec_syncComplete_sync, fun d => exec_syncComplete_flush⟩,
    fun h w0 w1 w2 w3 a s t may => ?fetch, fun h w0 w1 w2 w3 a s may => ?refuse, fun h i c s t runs => exec_read runs,
    fun h i c data s runs => exec_write runs, fun src n b s => readRuns_one, fun h i c s => exec_submissionCtxcmd, fun h c s => exec_fence⟩
  · exact congrArg Host.Outcome.next (pageCtx_ok ok there hv mine)
  · exact congrArg Host.Outcome.next (pageCtx_ok ok there hv mine)
  · exact congrArg Host.Outcome.next (pageWrite_stale up stale)
  · exact congrArg Host.Outcome.next (pageWrite_stale up stale)
  · exact congrArg Host.Outcome.next (pageWrite_stale up stale)
  · exact congrArg Host.Outcome.next (pageWrite_stale up stale)
  case fetch =>
    intro k c there runs
    exact exec_submissionFetch may there runs
  case refuse =>
    intro k there gen bad c t
    have kept := exec_submissionFetch_bad (w1 := w1) (w2 := w2) (w3 := w3) may there gen bad
    have cmds : (getHank t h).cmds = k.cmds ++ [c] := by
      simp only [t, getHank_updHank, getHank_linkSend, k]
    refine ⟨fun none => ?_, fun f one fence => ?_⟩
    · have alone : (getHank t h).cmds = [c] := by rw [cmds, none, List.nil_append]
      refine kept.trans (congrArg Host.Outcome.next ?_)
      change refusedEnd h (getHank t h).cmds.length t = _
      rw [alone]
      exact refusedEnd_alone alone rfl
    · have behind : (getHank t h).cmds = [f, c] := by rw [cmds, one, List.singleton_append]
      exact kept.trans (congrArg Host.Outcome.next (refusedEnd_fence behind fence _))

end Sys2Proof.Proofs
